-- ==== Sys2Proof/Word.lean ====
section
/-! DEFINITION. The word, the byte, and the shape of sparse storage. -/
namespace Sys2Proof

/-- A register's 64 bits (R34). -/
abbrev Word := BitVec 64

/-- One byte of a frame or of a host structure. -/
abbrev Byte := BitVec 8

/-- Sparse storage: (key, value) pairs with strictly rising keys. A key that is
not listed holds the default its owner states, and no listed value equals it. -/
abbrev SMap (α : Type) := List (Nat × α)

end Sys2Proof
end

