-- ==== Sys2Proof/Config.lean ====
section
/-! DEFINITION. What the part fixes: the block kinds and page index of Table 2.17,
and the values the spec leaves open, as constants without a body. -/
namespace Sys2Proof

/-- The block kinds of Table 2.17 (R47). -/
inductive BlkKind
  | dev | pwr | tim | flt | boot | pci | lim | cmt | csl | perf | part
  | clu | hbm | d2d | bpm | exm | lpm | tcm | fdh
  | slc | sds | mac | prs | voq | edt | sch | mtr
  deriving DecidableEq, Repr

/-- One block: its kind and its number under R38. -/
structure Blk where
  kind : BlkKind
  inst : Nat
  deriving DecidableEq, Repr

/-- Levels of Table 0.4 that hold pages. -/
inductive Level
  | device | cluster | slice
  deriving DecidableEq, Repr

/-- One row of Table 2.17. `per` is the count of blocks of the kind in its unit
(device, cluster or slice), `span` the pages of one block. -/
structure BlkInfo where
  level : Level
  page  : Nat
  span  : Nat
  per   : Nat
  type  : Nat
  fixed : Bool
  deriving DecidableEq, Repr

/-- Table 2.17 (R47). -/
def BlkKind.info : BlkKind → BlkInfo
  | .dev  => ⟨.device, 0x000, 1, 1, 0x0001, true⟩
  | .pwr  => ⟨.device, 0x001, 1, 1, 0x0002, true⟩
  | .tim  => ⟨.device, 0x002, 1, 1, 0x0003, true⟩
  | .flt  => ⟨.device, 0x004, 8, 1, 0x0004, true⟩
  | .boot => ⟨.device, 0x010, 1, 1, 0x0005, false⟩
  | .pci  => ⟨.device, 0x011, 1, 1, 0x0006, false⟩
  | .lim  => ⟨.device, 0x020, 8, 1, 0x0007, false⟩
  | .cmt  => ⟨.device, 0x030, 4, 1, 0x0008, false⟩
  | .csl  => ⟨.device, 0x040, 2, 1, 0x0009, false⟩
  | .perf => ⟨.device, 0x050, 1, 1, 0x000A, false⟩
  | .part => ⟨.device, 0x100, 64, 1, 0x000B, false⟩
  | .clu  => ⟨.cluster, 0x000, 1, 1, 0x0100, false⟩
  | .hbm  => ⟨.cluster, 0x010, 8, 1, 0x0101, false⟩
  | .d2d  => ⟨.cluster, 0x020, 1, 7, 0x0102, false⟩
  | .bpm  => ⟨.cluster, 0x030, 16, 1, 0x0103, false⟩
  | .exm  => ⟨.cluster, 0x040, 8, 1, 0x0104, false⟩
  | .lpm  => ⟨.cluster, 0x048, 4, 1, 0x0105, false⟩
  | .tcm  => ⟨.cluster, 0x050, 1, 8, 0x0106, false⟩
  | .fdh  => ⟨.cluster, 0x060, 4, 1, 0x0107, false⟩
  | .slc  => ⟨.slice, 0x00, 1, 1, 0x0200, false⟩
  | .sds  => ⟨.slice, 0x01, 1, 16, 0x0201, false⟩
  | .mac  => ⟨.slice, 0x11, 1, 16, 0x0202, false⟩
  | .prs  => ⟨.slice, 0x21, 1, 1, 0x0203, false⟩
  | .voq  => ⟨.slice, 0x22, 1, 1, 0x0204, false⟩
  | .edt  => ⟨.slice, 0x23, 2, 1, 0x0205, false⟩
  | .sch  => ⟨.slice, 0x25, 8, 1, 0x0206, false⟩
  | .mtr  => ⟨.slice, 0x2D, 2, 1, 0x0207, false⟩

/-- The kinds in page order within their level. -/
def allKinds : List BlkKind :=
  [.dev, .pwr, .tim, .flt, .boot, .pci, .lim, .cmt, .csl, .perf, .part,
   .clu, .hbm, .d2d, .bpm, .exm, .lpm, .tcm, .fdh,
   .slc, .sds, .mac, .prs, .voq, .edt, .sch, .mtr]

/-- Number of units of a level (Table 0.4). -/
def Level.units : Level → Nat
  | .device => 1
  | .cluster => 8
  | .slice => 64

/-- Blocks of a kind in the device (R38). -/
def BlkKind.count (k : BlkKind) : Nat := k.info.level.units * k.info.per

/-- The PCI Express Vendor ID JVID; the spec gives no number (R1, Table 2.18). DESIGN CHOICE, log entry 7. -/
opaque Config.jvid : BitVec 16

/-- The EtherType JETYPE of the fabric header; the spec gives no number (R57). DESIGN CHOICE, log entry 7. -/
opaque Config.jetype : BitVec 16

/-- Jennetia's JEP106 manufacturer code in IDCODE; the spec gives no number (R402). DESIGN CHOICE, log entry 7. -/
opaque Config.jep106 : BitVec 11

/-- The row of a stack's array that holds a word of a table pseudo-channel: pseudo-channel, word in it (R246). The spec
gives no rows. DESIGN CHOICE, log entry 160. -/
opaque Config.hbmRow : Nat → Nat → Nat

/-- The row of a stack's array that holds a word of a spill block: block, word in it (R246). The spec gives no rows, and
leaves the placing of blocks to the controller. DESIGN CHOICE, log entry 160. -/
opaque Config.spillRow : Nat → Nat → Nat

/-- A value the spec leaves open, one for each use: the machine applies it to a
counter that it advances, so nothing constrains what it is. DESIGN CHOICE, log entry 2. -/
opaque Config.freeValue : Nat → BitVec 64

end Sys2Proof
end

