-- ==== Sys2Proof/RegNames.lean ====
section
/-! DEFINITION. The names of the registers of BAR0, one constructor for each register or register array of the spec's register tables. -/
namespace Sys2Proof

/-- Access codes of Table 2.12. -/
inductive Acc
  | rw | ro | w1c | w1s | wo | rc | rwl
  deriving DecidableEq, Repr

/-- One field of a register table: its name, bits hi to lo, access code and reset value. -/
structure Field where
  name  : String
  hi    : Nat
  lo    : Nat
  acc   : Acc
  reset : Nat
  deriving DecidableEq, Repr

/-- Which pages hold a register: every page (R37), the first page of every block with
protected memories (R265), or the pages of one kind of block. -/
inductive Place
  | header | prot | block (k : BlkKind)
  deriving DecidableEq, Repr

/-- Where a register or an array of registers stands, and its fields. -/
structure RegInfo where
  place  : Place
  sub    : Nat
  off    : Nat
  stride : Nat
  count  : Nat
  fields : List Field
  deriving DecidableEq, Repr

/-- The registers of BAR0. -/
inductive Reg
  | pageId | pageCaps | ctrl | state | errStatus | errMask | errFlipD | errFlipC
  | violationCount | protSel | protCnt | protLast | scrubLap | scrubLapLimit | protInj | scrubCtrl
  | devIdent | devShape | pwrCtrl | pwrStat | pwrSlcStateLo | pwrSlcStateHi | timNowNs | timNowS
  | timStep | timIncr | timPps | timPpsCapNs | timPpsCapS | fltStatus | fltPending | fltLevel
  | fltAck | fltWin | fltCfg | fltCrustCtrl | fltStop | fltInj | fltRecA | fltRecB
  | fltRecC | fltRecD | fltFenceSlc | fltFenceEdt | fltFenceTcm | fltFenceD2d | fltFenceMisc | fltUnfence
  | fltCrustCfg | fltCrustLag | fltCrustAddr | fltCrustData | bootStatus | bootStrap | bootReset | bootRecAddr
  | bootRecCtrl | pciStat | pciEvt | pciVecAddr | pciVecData | limCfg | limStat | limLoopCtrl
  | limLoopTh | limLoopBnd | limLogPtr | limLogAddr | limLogData | limVbnd | cmtCfg | verCurrent
  | verLive | commitStall | commitStallTime | cmtCount | cmtDrainMax | cmtBatch | cslCfg | cslState
  | cslHb | cslCmd | cslXfer | cslXferStat | cslPreplAddr | cslPreplData | cslRetry | cslReplDrop
  | perfSnap | perfSnapTime | perfSel | perfVal | perfDumpAddr | perfDumpCtrl | perfThrSel | perfThrCtr
  | perfThrCfg | perfSmpStat | perfUserEn | partCmd | partCmdRes | partSel | partState | partPasid
  | partReset | partBudget | partRings | partHost | partRangeAct | partRangeGrp | partRangeMbr | partRangeCtr
  | partRangePrg | partRangeMcg | partPool | partImgAddr | partImgCtrl | partPortAddr | partPortData | partQownAddr
  | partQownData | cluTherm | cluAvs | hbmRegion | hbmStatus | hbmTemp | hbmRetrain | hbmRaw
  | hbmScrubLap | hbmScrubLapLimit | hbmTrainCtrl | hbmTrainPat | hbmTrainRes | bpmCfg | bpmOcc | bpmArb
  | bpmCopyCfg | bpmSpillCfg | bpmSpillOcc | bpmAudit | bpmReplFence | bpmLimAddr | bpmLimData | bpmLimOcc
  | bpmPort | bpmQAddr | bpmQData | bpmQSpill | bpmMcgAddr | bpmMcgData | bpmMclAddr | bpmMclData
  | bpmMirAddr | bpmMirData | bpmSmpAddr | bpmSmpData | exmCfg | exmFlowCfg | exmOcc | exmDirAddr
  | exmDirData | exmChainAddr | exmChainData | exmWgtAddr | exmWgtData | exmHbmq | lpmOcc | tcmCfg
  | tcmOcc | tcmSrchCtrl | tcmSrchRes | tcmSrchKey | fdhCfg | fdhOcc | fdhFlush | fdhRobCfg
  | fdhPstatAddr | fdhPstatData | fdhDiagAddr | fdhDiagData | fdhSafe | slcPwr | slcPwrStat | slcWakes
  | slcDozeClk | macCfg | macStat | macTsAdj | macTxtsA | macTxtsB | prsCfg | prsEtype
  | prsUdp | prsSeed | prsPselA | prsPselB | prsKbAddr | prsKbData | prsPort | voqCfg
  | edtCfg | edtProgAddr | edtProgData | edtRef | edtMcLog | edtStoreAddr | edtStoreData | schQAddr
  | schQData | schPort | schCwgt | schGAddr | schGData | schGateAddr | schGateEntry | schGateCycle
  | schGateBaseS | schGateBaseNs | schGateCtrl | schPfcThAddr | schPfcThData | schPfcOcc | schPfc | mtrAddr
  | mtrRate | mtrBurst | mtrProf | mtrCnt | sdsPrbsGen | sdsPrbsChk | sdsPrbsUser | sdsPrbsStat
  | sdsPrbsErr | sdsPrbsBits | sdsPrbsCtl | cslPrbsGen | cslPrbsChk | cslPrbsUser | cslPrbsStat | cslPrbsErr
  | cslPrbsBits | cslPrbsCtl | pciPrbsGen | pciPrbsChk | pciPrbsUser | pciPrbsStat | pciPrbsErr | pciPrbsBits
  | pciPrbsCtl | d2dPrbsGen | d2dPrbsChk | d2dPrbsUser | d2dPrbsStat | d2dPrbsErr | d2dPrbsBits | d2dPrbsCtl
  deriving DecidableEq, Repr

end Sys2Proof
end

