-- ==== Sys2Proof/Inputs.lean ====
section
/-! DEFINITION. The data that commands bring with them from outside the device. -/
namespace Sys2Proof

/-- The three ring kinds of a partition window (R367). -/
inductive RingKind
  | command | event | spore
  deriving DecidableEq, Repr

/-- The six PART_RANGE registers (R284). -/
inductive RangeKind
  | act | grp | mbr | ctr | prg | mcg
  deriving DecidableEq, Repr

/-- Where a PRBS generator and checker pair stands: a SerDes lane, a lane of the Cersa link,
a lane of the PCI Express endpoint, or a die-to-die link end (R400). -/
inductive PrbsLane
  | sds (lane : Nat) | csl (lane : Nat) | pci (lane : Nat) | d2d (inst : Nat)
  deriving DecidableEq, Repr

/-- The reference clocks (Table 18.3): REFCLK_AON, REFCLK_SDc of a cluster, PCIE_REFCLK. -/
inductive RefClk
  | aon | sd (cluster : Nat) | pcie
  deriving DecidableEq, Repr

/-- The DMA request that failed (R365): a fetch, a record write, or a transfer of the
operation in progress; `ended` names how it ended. -/
inductive DmaUse
  | fetch | record (kind : RingKind) | transfer
  deriving DecidableEq, Repr

/-- The outcome of the checks of an envelope (R377); `other` is a failed read. -/
inductive EnvResult
  | ok | noImage | badKind | revoked | svnLow | sigFail | decryptFail | missing | dmaFault
  deriving DecidableEq, Repr

/-- A record of an edit image: its program, its first word, and its words of 256 bits (R170). -/
structure ProgImage where
  prog  : Nat
  start : Nat
  words : List Nat
  deriving DecidableEq, Repr

/-- A fault event as it travels to the collector (R266): class, initial level, the block type
and instance that reported it, the ERR_STATUS bit, the detail, and whether it was injected. -/
structure FaultEv where
  cls      : Nat
  level    : Nat
  typ      : Nat
  inst     : Nat
  bit      : Nat
  detail   : Nat
  injected : Bool
  deriving DecidableEq, Repr

/-- One change of a replicated commit (R315): its words W0 to W7 and its image. -/
structure RepChange where
  words : List Nat
  image : List Byte
  deriving DecidableEq, Repr

/-- A HELLO (R308): role, DEV_IDENT.REVISION, DEV_SHAPE, CSL_CFG.PAIR_ID and CSL_CFG.SYNC_SRC. -/
structure Hello where
  role     : Nat
  revision : Nat
  shape    : Nat
  pair     : Nat
  source   : Nat
  deriving DecidableEq, Repr

/-- The bytes of an access: how many it asks for, from its address on, and its byte enables, of which bit `i` takes byte
`i` of them (R34, Table 2.15). -/
structure Span where
  size : Nat
  be   : Nat
  deriving DecidableEq, Repr

/-- A heartbeat: the sender's STATE, VER_CURRENT, FLT_LEVEL and Crust state (Table 14.1). -/
structure Heartbeat where
  state   : Nat
  version : Nat
  level   : Nat
  crust   : Nat
  deriving DecidableEq, Repr

/-- A bulk-sync record (R311). -/
structure SyncRec where
  part   : Nat
  change : RepChange
  deriving DecidableEq, Repr

/-- The head of a saved image as RESTORE reads it (R302). -/
structure SaveHead where
  words : List Nat
  body  : List Byte
  deriving DecidableEq, Repr

end Sys2Proof
end

