-- ==== Sys2Proof/Syntax.lean ====
section
/-! DEFINITION. The commands of the device: one constructor for each row of spec/opcode_table.json. -/
namespace Sys2Proof

/-- The operations and events that act on the device, one constructor for each row of the
table of operations and events. -/
inductive Instr
  /-- RX_FRAME_START (R17). The first bit of a frame reaches port `port`; `data` is what follows, from destination address to FCS. -/
  | rxFrameStart (port : Nat) (data : List Byte)
  /-- HEADER_WINDOW_RELEASE (R48). The header window of frame `fid` is released to PA. -/
  | headerWindowRelease (fid : Nat)
  /-- FLOW_LOOKUP_RESULT (R87). The oldest FLOW lookup of the cluster returns. -/
  | flowLookupResult (cluster : Nat)
  /-- VERIFY (R136). Frame `fid` reaches VE. -/
  | verify (fid : Nat)
  /-- POOL_REQUEST (R182). The admission request of frame `fid` reaches the pool of another cluster. -/
  | poolRequest (fid cluster : Nat)
  /-- POOL_GRANT (R182). The pool's answer to that request returns to the ingress slice. -/
  | poolGrant (fid cluster : Nat)
  /-- CREDIT_RETURN (R21). A credit of destination slice `dst` returns to source slice `src`. -/
  | creditReturn (src dst : Nat)
  /-- D2D_CELL_ARRIVAL (R21). The oldest cell in flight from slice `src` to slice `dst` arrives. -/
  | d2dCellArrival (src dst : Nat)
  /-- D2D_RETRY (R23). A bad flit is recovered at D2D block `link`. -/
  | d2dRetry (link : Nat)
  /-- FRAME_TAIL (R179). The tail of frame `fid` arrives, with what RX found of its FCS and of its FEC codewords. -/
  | frameTail (fid : Nat) (fcsGood fecGood : Bool)
  /-- SC_GRANT (R206). SC selects a copy for the port. -/
  | scGrant (port : Nat)
  /-- VERDICT_ARRIVAL (R139). The verdict on launched frame `fid` reaches its egress slice. -/
  | verdictArrival (fid : Nat)
  /-- TX_FRAME_END (R144). The tail of granted copy `cid` leaves TX. -/
  | txFrameEnd (cid : Nat)
  /-- REPL_CHAIN_ARRIVAL (R190). The chain of frame `fid` reaches the cluster's replication engine. -/
  | replChainArrival (fid cluster : Nat)
  /-- SPILL_BLOCK_FLUSH (R195). The queue's oldest staged spill block is due to be written to HBM. -/
  | spillBlockFlush (queue : Nat)
  /-- SPILL_READ_BACK (R196). The spill engine turns to the queue's oldest block. -/
  | spillReadBack (queue : Nat)
  /-- SPILL_BLOCK_RETURN (R240). The queue's oldest outstanding block read returns. -/
  | spillBlockReturn (queue : Nat)
  /-- AUDIT_PASS_END (R200). The cluster's auditor ends a pass that lasted `us` microseconds. -/
  | auditPassEnd (cluster us : Nat)
  /-- SPORE_DELIVERY (R202). The hub writes the Spore held as copy `cid`. -/
  | sporeDelivery (cid : Nat)
  /-- HOST_COPY_DELIVERY (R288). The DMA engine serves the host FIFO of the partition in the cluster. -/
  | hostCopyDelivery (part cluster : Nat)
  /-- GATE_ENTRY_CHANGE (R220). The port's gate list moves to the entry that device time now names. -/
  | gateEntryChange (port : Nat)
  /-- GATE_LIST_TAKEOVER (R221). The port's pending gate list takes over. -/
  | gateListTakeover (port : Nat)
  /-- PFC_FRAME (R225). A MAC control frame arrives with its opcode, class-enable vector and timers. -/
  | pfcFrame (port opcode enables : Nat) (timers : List Nat)
  /-- PAUSE_EXPIRY (R225). The pause interval of a class ends. -/
  | pauseExpiry (port cls : Nat)
  /-- PFC_REFRESH (R226). Half the port's pause timer has passed since the last pause frame was sent. -/
  | pfcRefresh (port : Nat)
  /-- PFC_STORM (R227). A class has been paused for the watchdog's time. -/
  | pfcStorm (port cls : Nat)
  /-- PFC_WATCHDOG_END (R227). The time of ignoring pause frames for a class ends. -/
  | pfcWatchdogEnd (port cls : Nat)
  /-- TIME_ADJUST_APPLY (R217). A requested increment or step of device time takes effect. -/
  | timeAdjustApply
  /-- PPS_OUT_PULSE (R231). PPS_OUT is due to change level. -/
  | ppsOutPulse
  /-- PPS_IN_CAPTURE (R231). An edge arrives on PPS_IN. -/
  | ppsInCapture (rising : Bool)
  /-- HBM_TEMP_REPORT (R246). The stack beside the cluster reports its case temperature. -/
  | hbmTempReport (cluster tempC : Nat)
  /-- HBM_REFRESH (R246). A bank refresh of the stack falls due. -/
  | hbmRefresh (cluster : Nat)
  /-- TRACKING_SLOT (R248). A channel of the stack takes its tracking slot and finds its margin. -/
  | trackingSlot (cluster channel margin : Nat)
  /-- HBM_REGION_REFILL_DONE (R256). The refill of the resized table region completes. -/
  | hbmRegionRefillDone (cluster : Nat)
  /-- HBM_TRAIN_PASS_DONE (R247). The pattern-helper pass completes with its error count and failing lanes. -/
  | hbmTrainPassDone (cluster errors lanes : Nat)
  /-- ECC_WRITE_BACK (R253). An idle write cycle of the memory comes for a corrected word. -/
  | eccWriteBack (blk : Blk) (mem word : Nat)
  /-- SCRUB_READ (R257). The scrubber of the memory reads its next word. -/
  | scrubRead (blk : Blk) (mem : Nat)
  /-- GOLDEN_REBUILD (R262). The hub rebuilds a word of the golden copy. -/
  | goldenRebuild (word : Nat)
  /-- MC_RELOAD_DONE (R172). The machine-check reload of the slice ends. -/
  | mcReloadDone (slice : Nat) (readBackGood : Bool)
  /-- REF_REBUILD (R169). The slice comes to rebuild its unknown reference counts. -/
  | refRebuild (slice : Nat)
  /-- PROGRAM_FREED (R168). The conditions of a retiring program are looked at. -/
  | programFreed (prog : Nat)
  /-- EDIT_LOAD_DONE (R170). The words of the load in progress are in every store. -/
  | editLoadDone
  /-- TCAM_SHADOW_CHECK (R105). The shadow checker's slot of TCAM block `tcm` comes. -/
  | tcamShadowCheck (tcm : Nat)
  /-- TCAM_DIAG_SEARCH_DONE (R102). The diagnostic search of TCAM block `tcm` completes. -/
  | tcamDiagSearchDone (tcm : Nat)
  /-- WEIGHT_SWITCH (R99). The cluster switches the group to its recomputed weights. -/
  | weightSwitch (cluster group : Nat)
  /-- ACCUMULATOR_FLUSH (R358). The cluster's oldest queued flush is applied. -/
  | accumulatorFlush (cluster : Nat)
  /-- FAULT_EVENT (R266). A fault event reaches the collector. -/
  | faultEvent (e : FaultEv)
  /-- WINDOW_EXPIRY (R267). The window of a pending class ends. -/
  | windowExpiry (cls : Nat)
  /-- ALIVE_TOGGLE (R275). 2,500 always-on clocks have passed since ALIVE last changed. -/
  | aliveToggle
  /-- AON_WDOG_KICK (R276). The hub kicks the always-on watchdog. -/
  | aonWdogKick
  /-- AON_WDOG (R276). 100 microseconds have passed without a kick. -/
  | aonWdog
  /-- CRUST_ACTIVE (R278). The Crust entry sequence completes. -/
  | crustActive
  /-- CRUST_EXIT_COMPLETE (R281). The Crust exit is looked at; `late` when 10 ms have passed. -/
  | crustExitComplete (late : Bool)
  /-- BRING_UP_COMPLETE (R41). The block completes its bring-up. -/
  | bringUpComplete (blk : Blk)
  /-- SHUT_DOWN_COMPLETE (R41). The block completes its shut-down. -/
  | shutDownComplete (blk : Blk)
  /-- PEND_ENABLE_RESTART (R41). One always-on clock has passed since a shut-down with PEND_ENABLE. -/
  | pendEnableRestart (blk : Blk)
  /-- SOFT_RESET_COMPLETE (R42). The block's soft reset completes. -/
  | softResetComplete (blk : Blk)
  /-- STUCK (R41). The block has been ENABLING or DISABLING for 10 ms. -/
  | stuck (blk : Blk)
  /-- EPOCH_REPORT (R111). Reporter `unit` (slices 0-63, clusters 64-71) looks at its in-flight count of the epoch. -/
  | epochReport (unit epoch : Nat)
  /-- DRAINED (R111). The drain report of `unit` for the epoch reaches the hub. -/
  | drained (unit epoch : Nat)
  /-- SETTLE_COMPLETE (R114). The settle writes of the tag are done. -/
  | settleComplete (tag : Nat)
  /-- VERSION_ASSIGN (R110). The engine looks at its oldest waiting commit. -/
  | versionAssign
  /-- TAG_RESOLVE_ACK (R119). Every cluster has acknowledged the resolved tag. -/
  | tagResolveAck
  /-- SLICE_ADOPT (R119). Reporter `unit` receives the new version. -/
  | sliceAdopt (unit : Nat)
  /-- SWITCH_COMPLETE (R119). The acknowledgements of every slice and cluster are in. -/
  | switchComplete
  /-- COMMIT_CREDIT_REFILL (R121). 4 microseconds have passed for the commit bucket. -/
  | commitCreditRefill
  /-- DRAIN_SLOW (R126). The engine checks how long its oldest version has been live. -/
  | drainSlow
  /-- VER_DRAIN_DONE (R109). The ring's VER_DRAIN is looked at. -/
  | verDrainDone (part ring : Nat)
  /-- NUMBER_REQUEST (R122). Role A receives a request for a version number. -/
  | numberRequest
  /-- NUMBER_GRANT (R122). Role B receives a version number. -/
  | numberGrant (version : Nat)
  /-- REPLICATED_COMMIT (R315). The twin's commit of a number arrives, with its changes (none for an empty version); `lost` when the twin had to drop them. -/
  | replicatedCommit (version part : Nat) (changes : List RepChange) (lost : Bool)
  /-- REPLICATION_ACK (R123). The twin acknowledges that a version is current there, and whether it applied the changes. -/
  | replicationAck (version : Nat) (ok : Bool)
  /-- FLUSH_COMPLETE (R148). The prediction-cache flush of the cluster ends. -/
  | flushComplete (cluster : Nat)
  /-- TRANSITION_END (R149). The mode transition of the partition is looked at. -/
  | transitionEnd (part : Nat)
  /-- QUIESCED (R295). The partition's remaining work is looked at. -/
  | quiesced (part : Nat)
  /-- RESET_DONE (R296). The steps of the partition's reset are looked at. -/
  | resetDone (part : Nat)
  /-- DRAIN_US_EXPIRY (R296). DRAIN_US of the partition's reset ends. -/
  | drainUsExpiry (part : Nat)
  /-- RESET_SLOW (R296). DRAIN_US + 10 ms of the partition's reset have passed. -/
  | resetSlow (part : Nat)
  /-- PURGE_DONE (R299). The purge of the partition ends. -/
  | purgeDone (part : Nat)
  /-- SAVE_DONE (R301). The save of the partition ends; `ok` when its DMA and its table reads met no error. -/
  | saveDone (part : Nat) (ok : Bool)
  /-- RESTORE_DONE (R302). The restore of the partition is looked at; an outcome of 13 says that its image could not be read. -/
  | restoreDone (part outcome : Nat)
  /-- FOLD_DONE (R304). The delta-log fold of the partition ends. -/
  | foldDone (part : Nat)
  /-- HELLO (R310). The link is trained and the partner's HELLO arrives, over `width` lanes. -/
  | hello (h : Hello) (width : Nat)
  /-- TRAINING_TIMEOUT (R310). Cersa training has taken 50 ms. -/
  | trainingTimeout
  /-- HEARTBEAT_SEND (R309). A heartbeat falls due. -/
  | heartbeatSend
  /-- HEARTBEAT (R318). A heartbeat arrives from the partner. -/
  | heartbeat (h : Heartbeat)
  /-- HEARTBEAT_TIMEOUT (R318). TIMEOUT_US have passed without a heartbeat. -/
  | heartbeatTimeout
  /-- TWIN_ALIVE_LOSS (R318). 200 microseconds have passed without an edge on TWIN_ALIVE_IN. -/
  | twinAliveLoss
  /-- FLIT_RETRY (R309). A Cersa flit fails its CRC; `eighth` when it is the eighth replay in a row that fails. -/
  | flitRetry (eighth : Bool)
  /-- SYNC_RECORD (R312). A bulk-sync record arrives. -/
  | syncRecord (r : SyncRec)
  /-- SYNC_BATCH_COMMIT (R312). The partition's last bulk-sync record is in. -/
  | syncBatchCommit (part : Nat)
  /-- CUT_OVER (R313). Cut-over of bulk sync begins: the partner reports its VER_CURRENT. -/
  | cutOver (theirs : Nat)
  /-- DETACH_MESSAGE (R320). The partner's DETACH arrives; `crust` when it enters Crust mode. -/
  | detachMessage (crust : Bool)
  /-- DETACH_ACK (R320). The partner acknowledges the detach. -/
  | detachAck
  /-- DETACH_TIMEOUT (R320). 1 ms has passed without an acknowledgement of the detach. -/
  | detachTimeout
  /-- XFER_DONE (R322). The image transfer ends; the device that received it has `data` in its image area of cluster `area`. -/
  | xferDone (sentKib : Nat) (fault : Bool) (area : Nat) (data : List Byte)
  /-- DOZE_ENTRY (R325). The slice has been idle for IDLE_CLK clocks. -/
  | dozeEntry (slice : Nat)
  /-- WAKE_COMPLETE (R326). The wake of the slice completes. -/
  | wakeComplete (slice : Nat)
  /-- WAKE_LATE (R327). 64 clocks have passed since the slice's wake request. -/
  | wakeLate (slice : Nat)
  /-- WAKE_FAIL (R327). 2 microseconds have passed since the slice's wake request. -/
  | wakeFail (slice : Nat)
  /-- NAP_ENTRY (R328). The conditions of the slice's NAP request are looked at. -/
  | napEntry (slice : Nat)
  /-- NAP_EXIT (R328). The slice's exit from NAP completes. -/
  | napExit (slice : Nat)
  /-- SLICE_POWER_DOWN (R330). The slice's power-down is looked at. -/
  | slicePowerDown (slice : Nat)
  /-- SLICE_POWER_UP (R330). The slice's power-up completes. -/
  | slicePowerUp (slice : Nat)
  /-- SLEEP_ENTRY_DONE (R332). The SLEEP entry sequence completes. -/
  | sleepEntryDone
  /-- SLEEP_EXIT_DONE (R332). The SLEEP exit sequence completes. -/
  | sleepExitDone
  /-- LOOP_EVALUATION (R333). A Limitur loop evaluates with the measurements `m`. -/
  | loopEvaluation (loop : Nat) (m : List Nat)
  /-- LIM_WDOG (R337). The Limitur watchdog's time ends without a kick. -/
  | limWdog
  /-- CONTROLLER_RESTART (R337). The restart of the Limitur controller completes. -/
  | controllerRestart
  /-- LINKCHK_DWELL_END (R342). The dwell of a lane's loopback check ends. -/
  | linkchkDwellEnd (lane errors : Nat) (locked : Bool)
  /-- SNAPSHOT (R351). The snapshot tick comes. -/
  | snapshot
  /-- DUMP_DONE (R352). The counter dump in progress completes. -/
  | dumpDone
  /-- THRESHOLD_FIRING (R355). A threshold entry is looked at. -/
  | thresholdFiring (entry : Nat)
  /-- SAMPLE_FRAME (R356). The sample point of a fired entry finds a frame, or none in 64. -/
  | sampleFrame (entry skid : Nat) (fid : Option Nat)
  /-- CTR_READ_DONE (R360). The CTR_READ of the ring ends. -/
  | ctrReadDone (part ring : Nat)
  /-- DESCRIPTOR_FETCH (R368). The ring's next descriptor, of eight words, is read from host memory. -/
  | descriptorFetch (part ring : Nat) (w : List Word)
  /-- DMA_FAULT (R365). A DMA request ends in error; `timeout` when its completion timed out. -/
  | dmaFault (part ring : Nat) (what : DmaUse) (timeout : Bool)
  /-- IRQ_TIMER (R370). TIME_US have passed since the ring's oldest counted record. -/
  | irqTimer (part ring : Nat) (kind : RingKind)
  /-- PKT_SEND_FRAME_READ (R373). The frame of the ring's PKT_SEND has been read. -/
  | pktSendFrameRead (part ring : Nat) (data : List Byte)
  /-- POWER_ON_RESET (R379). PWRGOOD_AON rises or falls; the straps are sampled when it rises. -/
  | powerOnReset (rise testEn twinRole : Bool) (bootSrc : Nat)
  /-- BOOT_IMAGE_READ_DONE (R374). The boot ROM has read a copy of the boot image: 0 the first, 1 the second, 2 that there is no second. -/
  | bootImageReadDone (copy : Nat) (ok : Bool)
  /-- FIRMWARE_START (R374). The boot firmware's envelope has been checked. -/
  | firmwareStart (r : EnvResult)
  /-- HBM_TRAINING_DONE (R247). Training and fill of the stacks end; `lanes` are the lanes that failed, as stack, pseudo-channel and lane, and bit c of `late` names a stack in which a step did not complete. -/
  | hbmTrainingDone (lanes : List (Nat × Nat × Nat)) (late : Nat)
  /-- ON_DIE_FILL_DONE (R255). The fill of the on-die memories ends. -/
  | onDieFillDone
  /-- LOADS_DONE (R374). The loads of the boot image have been checked; `sect` is the failing one, `payload` the decrypted image of the edit programs. -/
  | loadsDone (r : EnvResult) (sect : Nat) (payload : List Byte)
  /-- CLUSTER_RELEASE_DONE (R374). The cluster cores are released and their links trained. -/
  | clusterReleaseDone (ms : Nat)
  /-- BOOT_TIMEOUT (R377). A start-up step has taken too long. -/
  | bootTimeout
  /-- RECOVERY_READ_DONE (R377). The recovery image has been read from the host. -/
  | recoveryReadDone (ok : Bool)
  /-- SYSTEM_RESET (R379). SYS_RST_N is held low. -/
  | systemReset
  /-- LINK_RESET (R380). PERST_N, a hot reset or link down. -/
  | linkReset
  /-- FUNCTION_LEVEL_RESET (R379). A Function Level Reset. -/
  | functionLevelReset
  /-- SMBUS_TRANSACTION (R378). An SMBus block transaction reads or writes one 64-bit word of BAR0. -/
  | smbusTransaction (write : Bool) (off : Nat) (w : Word)
  /-- SUPPLY_EXCURSION (R383). A rail has been outside its warning band, or its operating limits, for 10 microseconds. -/
  | supplyExcursion (rail : Nat) (fail : Bool)
  /-- REFCLK_LOSS (R387). A reference clock is lost. -/
  | refclkLoss (clk : RefClk)
  /-- TICK_REALIGN (R387). The hub realigns the slices' ticks. -/
  | tickRealign
  /-- AVS_WRITE_RESULT (R386). The AVSBus voltage write of the cluster ends. -/
  | avsWriteResult (cluster : Nat) (ok : Bool)
  /-- AVS_READBACK (R386). The hub reads voltage and current back. -/
  | avsReadback (cluster milliVolts milliAmps : Nat)
  /-- LINK_UP (R392). The port completes training. -/
  | linkUp (port : Nat) (anDone : Bool)
  /-- LINK_DOWN (R392). The port's link goes down. -/
  | linkDown (port : Nat)
  /-- JTAG_INSTRUCTION (R402). An instruction is loaded into the JTAG instruction register: 0 BYPASS, 1 IDCODE, 2 SAMPLE/PRELOAD, 3 EXTEST, 4 EXTEST_PULSE, 5 EXTEST_TRAIN, 6 CLAMP, 7 HIGHZ; any other is private. -/
  | jtagInstruction (code : Nat)
  /-- REGISTER_WRITE (R34). The host writes the bytes of a span at an offset of a BAR. -/
  | registerWrite (bar : Nat) (span : Span) (off : Nat) (w : Word)
  /-- REGISTER_READ_LATCH (R34). The host reads the bytes of a span at an offset of a BAR. -/
  | registerReadLatch (bar : Nat) (span : Span) (off : Nat)
  /-- CTRL_ENABLE (R41). A write of CTRL.ENABLE in page `sub` of the block. -/
  | ctrlEnable (blk : Blk) (sub : Nat) (en : Bool)
  /-- CTRL_SOFT_RESET (R42). A write of CTRL.SOFT_RESET = 1, with ENABLE `en`. -/
  | ctrlSoftReset (blk : Blk) (sub : Nat) (en : Bool)
  /-- CTRL_LOCK (R40). A write of CTRL.LOCK = 1. -/
  | ctrlLock (blk : Blk) (sub : Nat)
  /-- ERR_STATUS_CLEAR (R39). A write of 1s to ERR_STATUS; `again` holds the bits that set in the same clock. -/
  | errStatusClear (blk : Blk) (sub : Nat) (w again : Word)
  /-- FLIP_ARM (R260). A write of the slot of ERR_FLIP_C. -/
  | flipArm (blk : Blk) (sub : Nat) (w : Word)
  /-- VIOLATION_COUNT_READ (R46). A 64-bit read of VIOLATION_COUNT. -/
  | violationCountRead (blk : Blk) (sub : Nat)
  /-- PROT_CNT_READ (R265). A 64-bit read of PROT_CNT. -/
  | protCntRead (blk : Blk)
  /-- PRS_KB_DATA_WRITE (R75). A write of PRS_KB_DATA. -/
  | prsKbDataWrite (slice : Nat) (w : Word)
  /-- CHAIN_WRITE (R88). A write of EXM_CHAIN_DATA. -/
  | chainWrite (cluster : Nat) (w : Word)
  /-- DIRECTORY_WRITE (R88). A write of EXM_DIR_DATA. -/
  | directoryWrite (cluster : Nat) (w : Word)
  /-- WEIGHT_WRITE (R99). A write of EXM_WGT_DATA. -/
  | weightWrite (cluster : Nat) (w : Word)
  /-- TCAM_DIAG_SEARCH (R102). A write of TCM_SRCH_CTRL. -/
  | tcamDiagSearch (tcm : Nat) (w : Word)
  /-- TBL_CHANGE (R117). The engine evaluates the ring's TBL_CHANGE; `img` is the image read when it is not inline. -/
  | tblChange (part ring : Nat) (img : List Byte)
  /-- TBL_COMMIT (R119). The engine decodes the ring's TBL_COMMIT. -/
  | tblCommit (part ring : Nat)
  /-- TBL_ABORT (R118). The engine decodes the ring's TBL_ABORT. -/
  | tblAbort (part ring : Nat)
  /-- VER_DRAIN (R109). The engine decodes the ring's VER_DRAIN. -/
  | verDrain (part ring : Nat)
  /-- FDH_FLUSH (R148). A write of FDH_FLUSH. -/
  | fdhFlush (cluster : Nat) (w : Word)
  /-- EDIT_LOAD (R170). The hub serves the ring's EDIT_LOAD; the envelope's outcome and its decrypted payload are what was read. -/
  | editLoad (part ring : Nat) (r : EnvResult) (payload : List Byte)
  /-- EDIT_RETIRE (R168). The hub serves the ring's EDIT_RETIRE. -/
  | editRetire (part ring : Nat)
  /-- REPL_FENCE (R189). A write of BPM_REPL_FENCE.GO = 1. -/
  | replFence (cluster : Nat)
  /-- REPL_FENCE_DONE (R189). The replications that the fence waits for are looked at. -/
  | replFenceDone (cluster : Nat)
  /-- SAMPLER_WRITE (R201). A write of BPM_SMP_DATA. -/
  | samplerWrite (cluster : Nat) (w : Word)
  /-- QUEUE_RECORD_WRITE (R205). A write of SCH_Q_DATA. -/
  | queueRecordWrite (slice : Nat) (w : Word)
  /-- GROUP_SHAPER_WRITE (R211). A write of SCH_G_DATA. -/
  | groupShaperWrite (slice : Nat) (w : Word)
  /-- GATE_GO (R221). A write of SCH_GATE_CTRL. -/
  | gateGo (slice : Nat) (w : Word)
  /-- METER_PROFILE_WRITE (R216). A write of MTR_PROF. -/
  | meterProfileWrite (slice : Nat) (w : Word)
  /-- TIME_STEP (R217). A write of TIM_STEP. -/
  | timeStep (w : Word)
  /-- TIME_INCR_WRITE (R217). A write of TIM_INCR. -/
  | timeIncrWrite (w : Word)
  /-- TIME_READ (R231). A 64-bit read of TIM_NOW_NS, or of TIM_PPS_CAP_NS. -/
  | timeRead (cap : Bool)
  /-- HBM_REGION_WRITE (R235). A write of HBM_REGION. -/
  | hbmRegionWrite (cluster : Nat) (w : Word)
  /-- HBM_TRAIN_GO (R247). A write of HBM_TRAIN_CTRL. -/
  | hbmTrainGo (cluster : Nat) (w : Word)
  /-- FLT_ACK (R268). A write of FLT_ACK. -/
  | fltAck (w : Word)
  /-- FLT_STATUS_CLEAR (R270). A write of FLT_STATUS. -/
  | fltStatusClear (w : Word)
  /-- FLT_INJ (R271). A write of FLT_INJ. -/
  | fltInj (w : Word)
  /-- FLT_UNFENCE (R274). A write of FLT_UNFENCE. -/
  | fltUnfence (w : Word)
  /-- CRUST_EXIT (R281). A write of FLT_CRUST_CTRL.EXIT = 1. -/
  | crustExit
  /-- CREATE (R287). A write of PART_CMD with OP CREATE. -/
  | create (part : Nat)
  /-- DELETE (R299). A write of PART_CMD with OP DELETE. -/
  | delete (part : Nat)
  /-- QUIESCE (R295). A write of PART_CMD with OP QUIESCE. -/
  | quiesce (part : Nat)
  /-- RESET (R296). A write of PART_CMD with OP RESET. -/
  | reset (part : Nat)
  /-- START (R298). A write of PART_CMD with OP START. -/
  | start (part : Nat)
  /-- FREEZE (R300). A write of PART_CMD with OP FREEZE. -/
  | freeze (part : Nat)
  /-- SAVE (R301). A write of PART_CMD with OP SAVE. -/
  | save (part : Nat)
  /-- RESTORE (R302). A write of PART_CMD with OP RESTORE, with the image that the device reads. -/
  | restore (part : Nat) (img : SaveHead)
  /-- THAW (R304). A write of PART_CMD with OP THAW. -/
  | thaw (part : Nat)
  /-- SET_MODE (R305). A write of PART_CMD with OP SET_MODE. -/
  | setMode (part : Nat) (reorder : Bool)
  /-- OWNERSHIP_WRITE (R285). A write of PART_QOWN_DATA, or of PART_PORT_DATA. -/
  | ownershipWrite (queue : Bool) (w : Word)
  /-- RANGE_WRITE (R284). A write of one of the PART_RANGE registers. -/
  | rangeWrite (kind : RangeKind) (w : Word)
  /-- ATTACH (R311). A write of CSL_CMD with OP ATTACH. -/
  | attach
  /-- DETACH (R320). A write of CSL_CMD with OP DETACH. -/
  | detach
  /-- RESYNC (R316). A write of CSL_CMD with OP RESYNC. -/
  | resync (part : Nat)
  /-- XFER (R322). A write of CSL_CMD with OP XFER. -/
  | xfer
  /-- NAP_REQUEST (R328). A write of SLC_PWR.REQ = NAP. -/
  | napRequest (slice : Nat)
  /-- OFF_REQUEST (R330). A write of SLC_PWR.REQ = OFF. -/
  | offRequest (slice : Nat)
  /-- AUTO_REQUEST (R328). A write of SLC_PWR.REQ = AUTO. -/
  | autoRequest (slice : Nat)
  /-- SLEEP_REQUEST (R331). A write of PWR_CTRL.REQ = SLEEP. -/
  | sleepRequest
  /-- RUN_REQUEST (R332). A write of PWR_CTRL.REQ = RUN. -/
  | runRequest
  /-- LOOP_RESTORE (R334). A write of LIM_LOOP_CTRL.RESTORE = 1. -/
  | loopRestore (loop : Nat)
  /-- SNAPSHOT_REQUEST (R351). A write of PERF_SNAP.GO = 1. -/
  | snapshotRequest
  /-- PERF_VAL_WRITE (R349). A 64-bit write of PERF_VAL. -/
  | perfValWrite (w : Word)
  /-- PERF_VAL_READ (R348). A 64-bit read of PERF_VAL. -/
  | perfValRead
  /-- PERF_DUMP (R352). A write of PERF_DUMP_CTRL. -/
  | perfDump (w : Word)
  /-- THRESHOLD_ENTRY_WRITE (R355). A write of PERF_THR_CFG. -/
  | thresholdEntryWrite (w : Word)
  /-- PERF_DROPS_READ (R355). A read of PERF_SMP_STAT. -/
  | perfDropsRead
  /-- CTR_READ (R360). The ring's CTR_READ starts. -/
  | ctrRead (part ring : Nat)
  /-- NOP (R367). The ring's NOP is served. -/
  | nop (part ring : Nat)
  /-- PKT_SEND (R373). The ring's PKT_SEND starts. -/
  | pktSend (part ring : Nat)
  /-- DOORBELL (R368). A write of CR_TAIL. -/
  | doorbell (part ring tail : Nat)
  /-- RING_ENABLE (R369). A write of the ring's CFG with ENABLE = 1. -/
  | ringEnable (kind : RingKind) (part ring log2 : Nat)
  /-- RING_DISABLE (R369). A write of the ring's CFG with ENABLE = 0. -/
  | ringDisable (kind : RingKind) (part ring : Nat)
  /-- IRQ_WRITE (R370). A write of the ring's IRQ register. -/
  | irqWrite (kind : RingKind) (part ring : Nat) (w : Word)
  /-- EVENT_HEAD_WRITE (R371). A write of the HEAD of an event or Spore ring. -/
  | eventHeadWrite (kind : RingKind) (part ring head : Nat)
  /-- EVENT_DROPS_READ (R371). A read of the ring's STAT. -/
  | eventDropsRead (kind : RingKind) (part ring : Nat)
  /-- VECTOR_RANGE_WRITE (R366). A write of PCI_VEC_DATA. -/
  | vectorRangeWrite (w : Word)
  /-- BOOT_RESET (R381). A write of BOOT_RESET. -/
  | bootReset (w : Word)
  /-- RECOVERY_GO (R377). A write of BOOT_REC_CTRL. -/
  | recoveryGo (w : Word)
  /-- PORT_WIDTH_WRITE (R393). A write of MAC_CFG. -/
  | portWidthWrite (lane : Nat) (w : Word)
  /-- TXTS_POP (R396). A 64-bit read of MAC_TXTS_A. -/
  | txtsPop (lane : Nat)
  /-- PRBS_ENABLE (R401). A write of PRBS_GEN or PRBS_CHK. -/
  | prbsEnable (lane : PrbsLane) (checker : Bool) (w : Word)
  /-- PARTITION_CREDIT_REFILL (R293). The partition's commit bucket is due a credit. -/
  | partitionCreditRefill (part : Nat)
  /-- SPILL_TOKEN_REFILL (R197). The cluster's spill bucket is due a token. -/
  | spillTokenRefill (cluster : Nat)
  /-- GATE_WAKE (R224). The wake moment of the port's next window comes. -/
  | gateWake (port : Nat)
  /-- TWIN_ALIVE_EDGE (R318). An edge arrives on TWIN_ALIVE_IN. -/
  | twinAliveEdge
  /-- CSL_RETRAIN_DONE (R309). The Cersa link completes its retraining, over `width` lanes. -/
  | cslRetrainDone (width : Nat)
  /-- PRBS_CHECKER_LOCK (R400). A checker has seen 128 correct bits. -/
  | prbsCheckerLock (lane : PrbsLane)
  /-- PRBS_LOCK_LOSS (R400). A locked checker has seen 16 errors in 256 bits. -/
  | prbsLockLoss (lane : PrbsLane)
  /-- PCIE_LINK_UP (R375). The PCI Express link completes training. -/
  | pcieLinkUp (speed width : Nat)
  /-- REFCLK_RESTORED (R387). A lost reference clock returns. -/
  | refclkRestored (clk : RefClk)
  /-- REGISTER_FILE_RETENTION (R36). 1 microsecond has passed since the last access to a napping slice's register file. -/
  | registerFileRetention (slice : Nat)
  deriving DecidableEq, Repr

end Sys2Proof
end

