-- ==== Sys2Proof/Decode.lean ====
section
/-! DEFINITION. Words of the table of operations and events: its rows give no bits, so no word spells a command. -/
namespace Sys2Proof

/-- The command that a word spells: none, for spec/opcode_table.json gives no row any bits. DESIGN CHOICE, log entry 3. -/
def decodeTableWord (_nbits _w : Nat) : Option Instr := none

end Sys2Proof
end

