-- ==== Sys2Proof/Machine/Store.lean ====
section
/-! DEFINITION. Bit fields of numbers and words, and sparse storage. -/
namespace Sys2Proof.Machine

/-- Bits `hi` to `lo` of a number (R13). -/
def fld (n hi lo : Nat) : Nat := (n >>> lo) % 2 ^ (hi + 1 - lo)

/-- One bit of a number. -/
def bit (n i : Nat) : Bool := (n >>> i) % 2 == 1

/-- `n` with bits `hi` to `lo` replaced by `v`, cut to their width. -/
def putFld (n hi lo v : Nat) : Nat :=
  n - (fld n hi lo) <<< lo + (v % 2 ^ (hi + 1 - lo)) <<< lo

/-- A Bool as a bit. -/
def b2n (b : Bool) : Nat := if b then 1 else 0

/-- Division rounded up. -/
def ceilDiv (a b : Nat) : Nat := (a + b - 1) / b

/-- `n` counted up by `k`, never past `top`. -/
def satAdd (top n k : Nat) : Nat := min top (n + k)

/-- The value at a key, or `dflt` when the key is not listed. -/
def SMap.get {α : Type} (dflt : α) : SMap α → Nat → α
  | [], _ => dflt
  | (k, v) :: m, i => if k = i then v else SMap.get dflt m i

/-- The map without the key. -/
def SMap.erase {α : Type} : SMap α → Nat → SMap α
  | [], _ => []
  | (k, v) :: m, i => if k = i then SMap.erase m i else (k, v) :: SMap.erase m i

/-- The map with the key listed at `v`. -/
def SMap.insert {α : Type} : SMap α → Nat → α → SMap α
  | [], i, v => [(i, v)]
  | (k, w) :: m, i, v =>
    if k = i then (i, v) :: m
    else if i < k then (i, v) :: (k, w) :: m
    else (k, w) :: SMap.insert m i v

/-- The map after storing `v` at the key; storing the default removes the key. -/
def SMap.set {α : Type} [DecidableEq α] (dflt : α) (m : SMap α) (i : Nat) (v : α) : SMap α :=
  if v = dflt then SMap.erase m i else SMap.insert m i v

/-- The map without the keys for which `p` holds. -/
def SMap.drop {α : Type} (p : Nat → Bool) (m : SMap α) : SMap α :=
  m.filter (fun e => !p e.1)

/-- Every key of the list lies above `k`, and the keys rise strictly. -/
def SMap.above {α : Type} : Nat → SMap α → Bool
  | _, [] => true
  | k, (i, _) :: m => k < i && SMap.above i m

/-- The keys of the list rise strictly. -/
def SMap.rising {α : Type} : SMap α → Bool
  | [] => true
  | (i, _) :: m => SMap.above i m

/-- The canonical form: strictly rising keys, and no key listed at its default. -/
def SMap.wf {α : Type} [DecidableEq α] (dflt : Nat → α) (m : SMap α) : Bool :=
  SMap.rising m && m.all (fun e => e.2 != dflt e.1)

/-- The first element for which `p` holds. -/
def findFirst {α : Type} (p : α → Bool) : List α → Option α
  | [] => none
  | a :: l => if p a then some a else findFirst p l

/-- The list with `f` applied to the elements for which `p` holds. -/
def mapIf {α : Type} (p : α → Bool) (f : α → α) (l : List α) : List α :=
  l.map (fun a => if p a then f a else a)

/-- The list without its first element for which `p` holds. -/
def eraseFirst {α : Type} (p : α → Bool) : List α → List α
  | [] => []
  | a :: l => if p a then l else a :: eraseFirst p l

/-- How many elements satisfy `p`. -/
def countIf {α : Type} (p : α → Bool) (l : List α) : Nat := (l.filter p).length

/-- The numbers `lo` to `lo + n - 1`. -/
def upto (lo : Nat) : Nat → List Nat
  | 0 => []
  | n + 1 => lo :: upto (lo + 1) n

/-- The positions of the set bits of `n` among its lowest `w`. -/
def setBits (n w : Nat) : List Nat := (upto 0 w).filter (bit n)

/-- Bytes as a number, first byte most significant. -/
def beNat : List Byte → Nat := List.foldl (fun a b => a * 256 + b.toNat) 0

/-- Bytes as a number, first byte least significant. -/
def leNat : List Byte → Nat
  | [] => 0
  | b :: l => b.toNat + 256 * leNat l

/-- `n` as `k` bytes, first byte most significant. -/
def toBe (k n : Nat) : List Byte :=
  (upto 0 k).map (fun i => BitVec.ofNat 8 (n >>> (8 * (k - 1 - i))))

/-- `n` as `k` bytes, first byte least significant. -/
def toLe (k n : Nat) : List Byte :=
  (upto 0 k).map (fun i => BitVec.ofNat 8 (n >>> (8 * i)))

/-- `k` bytes of the list from position `i`; bytes beyond its end read zero. -/
def bytesAt (l : List Byte) (i k : Nat) : List Byte :=
  let s := (l.drop i).take k
  s ++ List.replicate (k - s.length) 0

/-- The list with the bytes `v` written from position `i`, none beyond its end. -/
def overwrite (l : List Byte) (i : Nat) (v : List Byte) : List Byte :=
  l.take i ++ (v.take (l.length - i)) ++ l.drop (i + v.length)

/-- The bytes that words hold, lowest byte first. -/
def wordBytes (ws : List Nat) : List Byte := ws.flatMap (toLe 8)

/-- The 64-bit little-endian words of a byte list. -/
def leWords : List Byte → Nat → List Nat
  | _, 0 => []
  | l, n + 1 => leNat (l.take 8) :: leWords (l.drop 8) n

end Sys2Proof.Machine
end

