-- ==== Sys2Proof/Machine/Crc.lean ====
section
/-! DEFINITION. The cyclic redundancy checks: CRC-32C of the hashes, CRC-32 of frames. -/
namespace Sys2Proof.Machine

/-- `f n`, with `n` computed first: long folds over numbers stay shallow for a checker that evaluates them. -/
def strictly {α : Type} (n : Nat) (f : Nat → α) : α :=
  match n with
  | 0 => f 0
  | k + 1 => f (k + 1)

/-- Eight shifts of a reflected CRC with polynomial `poly`. -/
def crcShift (poly : Nat) : Nat → Nat → Nat
  | c, 0 => c
  | c, k + 1 => strictly (if c % 2 = 1 then (c / 2).xor poly else c / 2) (fun c => crcShift poly c k)

/-- A reflected CRC over bytes, without the final complement. -/
def crcBytes (poly : Nat) : Nat → List Byte → Nat
  | c, [] => c
  | c, b :: l => strictly (crcShift poly (c.xor b.toNat) 8) (fun c => crcBytes poly c l)

/-- CRC-32C: polynomial 0x1EDC6F41 reflected, complemented at the end (R68). -/
def crc32c (init : Nat) (l : List Byte) : Nat := (crcBytes 0x82F63B78 init l).xor 0xFFFFFFFF

/-- The CRC of the Ethernet frame check sequence (IEEE 802.3). -/
def crc32 (l : List Byte) : Nat := (crcBytes 0xEDB88320 0xFFFFFFFF l).xor 0xFFFFFFFF

/-- The four bytes of a frame check sequence, first sent first. -/
def fcsBytes (l : List Byte) : List Byte := toLe 4 (crc32 l)

/-- The frame with its FCS correct. DEDUCED, log entry 39. -/
def withFcs (l : List Byte) : List Byte := l ++ fcsBytes l

/-- The FCS of a whole frame is correct. -/
def fcsOk (f : List Byte) : Bool := f.drop (f.length - 4) == fcsBytes (f.take (f.length - 4))

end Sys2Proof.Machine
end

