-- ==== Sys2Proof/Machine/RegTable.lean ====
section
/-! DEFINITION. The registers of BAR0: where each stands and its fields, as the register
tables of the spec give them (Tables 1.2 to 18.12). A reset that depends on the page, the
ordering code or a strap is given beside State.reset's register default. -/
namespace Sys2Proof.Machine

/-- Table 2.4 (R37). -/
def info_pageId : RegInfo :=
  ⟨.header, 0, 0x0, 0x8, 1,
   [⟨"VERSION", 55, 48, .ro, 0xb0⟩,
    ⟨"SUB", 47, 40, .ro, 0⟩,
    ⟨"LEVEL", 39, 32, .ro, 0⟩,
    ⟨"INSTANCE", 31, 16, .ro, 0⟩,
    ⟨"TYPE", 15, 0, .ro, 0⟩]⟩

/-- Table 2.5 (R37). -/
def info_pageCaps : RegInfo :=
  ⟨.header, 0, 0x8, 0x8, 1,
   [⟨"SPAN", 63, 56, .ro, 0⟩,
    ⟨"MEMS", 55, 48, .ro, 0⟩,
    ⟨"BLOCK_CAPS", 47, 0, .ro, 0⟩]⟩

/-- Table 2.6 (R37). -/
def info_ctrl : RegInfo :=
  ⟨.header, 0, 0x10, 0x8, 1,
   [⟨"LOCK", 2, 2, .w1s, 0⟩,
    ⟨"SOFT_RESET", 1, 1, .w1s, 0⟩,
    ⟨"ENABLE", 0, 0, .rw, 0⟩]⟩

/-- Table 2.7 (R37). -/
def info_state : RegInfo :=
  ⟨.header, 0, 0x18, 0x8, 1,
   [⟨"HELD", 9, 9, .ro, 0⟩,
    ⟨"PEND_ENABLE", 8, 8, .ro, 0⟩,
    ⟨"CUR", 2, 0, .ro, 0⟩]⟩

/-- Table 2.9 (R37). -/
def info_errStatus : RegInfo :=
  ⟨.header, 0, 0x20, 0x8, 1,
   [⟨"STUCK", 63, 63, .w1c, 0⟩,
    ⟨"VIOL_SAT", 62, 62, .w1c, 0⟩,
    ⟨"BLOCK_ERR", 61, 0, .w1c, 0⟩]⟩

/-- Table 2.9 (R37). -/
def info_errMask : RegInfo :=
  ⟨.header, 0, 0x28, 0x8, 1,
   [⟨"STUCK", 63, 63, .rw, 0⟩,
    ⟨"VIOL_SAT", 62, 62, .rw, 0⟩,
    ⟨"BLOCK_ERR", 61, 0, .rw, 0⟩]⟩

/-- Table 2.10 (R37). -/
def info_errFlipD : RegInfo :=
  ⟨.header, 0, 0x30, 0x8, 1,
   [⟨"DATA", 63, 0, .rw, 0⟩]⟩

/-- Table 2.11 (R37). -/
def info_errFlipC : RegInfo :=
  ⟨.header, 0, 0x38, 0x8, 1,
   [⟨"EVT_BASE.EN", 63, 63, .rw, 0⟩,
    ⟨"EVT_BASE.VECTOR", 58, 48, .rw, 0⟩,
    ⟨"EVT_BASE.TAG", 47, 32, .rw, 0⟩,
    ⟨"ERR_FLIP_C.ARM", 31, 31, .rw, 0⟩,
    ⟨"ERR_FLIP_C.MEM_SEL", 23, 16, .rw, 0⟩,
    ⟨"ERR_FLIP_C.CHECK", 7, 0, .rw, 0⟩]⟩

/-- Table 2.16 (R37). -/
def info_violationCount : RegInfo :=
  ⟨.header, 0, 0x40, 0x8, 1,
   [⟨"LAST_KIND", 63, 60, .ro, 0⟩,
    ⟨"LAST_ADDR", 59, 32, .ro, 0⟩,
    ⟨"COUNT", 31, 0, .rc, 0⟩]⟩

/-- Table 11.6 (SEL) (R265). -/
def info_protSel : RegInfo :=
  ⟨.prot, 0, 0xfc0, 0x8, 1,
   [⟨"MEM", 7, 0, .rw, 0⟩]⟩

/-- Table 11.6 (CNT) (R265). -/
def info_protCnt : RegInfo :=
  ⟨.prot, 0, 0xfc8, 0x8, 1,
   [⟨"UE_COUNT", 63, 32, .rc, 0⟩,
    ⟨"CE_COUNT", 31, 0, .rc, 0⟩]⟩

/-- Table 11.6 (LAST) (R265). -/
def info_protLast : RegInfo :=
  ⟨.prot, 0, 0xfd0, 0x8, 1,
   [⟨"VALID", 63, 63, .w1c, 0⟩,
    ⟨"UE", 62, 62, .ro, 0⟩,
    ⟨"INJECTED", 61, 61, .ro, 0⟩,
    ⟨"BIT", 38, 32, .ro, 0⟩,
    ⟨"WORD", 31, 0, .ro, 0⟩]⟩

/-- Table 11.6 (LAP) (R265). -/
def info_scrubLap : RegInfo :=
  ⟨.prot, 0, 0xfd8, 0x8, 1,
   [⟨"LAP_US", 31, 0, .ro, 0⟩]⟩

/-- Table 11.6 (LIMIT) (R265). -/
def info_scrubLapLimit : RegInfo :=
  ⟨.prot, 0, 0xfe0, 0x8, 1,
   [⟨"LIMIT_US", 31, 0, .rwl, 0x186a0⟩]⟩

/-- Table 11.6 (INJ) (R265). -/
def info_protInj : RegInfo :=
  ⟨.prot, 0, 0xfe8, 0x8, 1,
   [⟨"VALID", 63, 63, .w1c, 0⟩,
    ⟨"WORD", 31, 0, .ro, 0⟩]⟩

/-- Table 11.6 (CTRL) (R265). -/
def info_scrubCtrl : RegInfo :=
  ⟨.prot, 0, 0xff0, 0x8, 1,
   [⟨"SCRUB_EN", 0, 0, .rwl, 1⟩]⟩

/-- Table 2.18 (R47). -/
def info_devIdent : RegInfo :=
  ⟨.block .dev, 0, 0x80, 0x8, 1,
   [⟨"VENDOR", 47, 32, .ro, 0⟩,
    ⟨"DEVICE", 31, 16, .ro, 0x9204⟩,
    ⟨"REVISION", 7, 0, .ro, 0xb0⟩]⟩

/-- Table 2.19 (R47). -/
def info_devShape : RegInfo :=
  ⟨.block .dev, 0, 0x88, 0x8, 1,
   [⟨"HBM_MASK", 63, 56, .ro, 0xff⟩,
    ⟨"CLUSTERS", 47, 40, .ro, 8⟩,
    ⟨"SLICES", 39, 32, .ro, 0x40⟩,
    ⟨"LANES", 31, 16, .ro, 0x400⟩,
    ⟨"QUEUE_LOG2", 15, 8, .ro, 0x14⟩,
    ⟨"PART_LOG2", 7, 0, .ro, 0xc⟩]⟩

/-- Table 15.5 (CTRL) (R343). -/
def info_pwrCtrl : RegInfo :=
  ⟨.block .pwr, 0, 0x80, 0x8, 1,
   [⟨"REQ", 0, 0, .rw, 0⟩]⟩

/-- Table 15.5 (STAT) (R343). -/
def info_pwrStat : RegInfo :=
  ⟨.block .pwr, 0, 0x88, 0x8, 1,
   [⟨"REFUSE", 11, 8, .ro, 0⟩,
    ⟨"DEV_STATE", 2, 0, .ro, 0⟩]⟩

/-- Table 15.5 (SLC_STATE_LO) (R343). -/
def info_pwrSlcStateLo : RegInfo :=
  ⟨.block .pwr, 0, 0x90, 0x8, 1,
   [⟨"STATE", 63, 0, .ro, 0⟩]⟩

/-- Table 15.5 (SLC_STATE_HI) (R343). -/
def info_pwrSlcStateHi : RegInfo :=
  ⟨.block .pwr, 0, 0x98, 0x8, 1,
   [⟨"STATE", 63, 0, .ro, 0⟩]⟩

/-- Table 9.10 (NOW_NS) (R231). -/
def info_timNowNs : RegInfo :=
  ⟨.block .tim, 0, 0x80, 0x8, 1,
   [⟨"FRAC", 63, 32, .ro, 0⟩,
    ⟨"NS", 31, 0, .ro, 0⟩]⟩

/-- Table 9.10 (NOW_S) (R231). -/
def info_timNowS : RegInfo :=
  ⟨.block .tim, 0, 0x88, 0x8, 1,
   [⟨"SEC", 47, 0, .ro, 0⟩]⟩

/-- Table 9.10 (STEP) (R231). -/
def info_timStep : RegInfo :=
  ⟨.block .tim, 0, 0x90, 0x8, 1,
   [⟨"OFFSET", 63, 0, .wo, 0⟩]⟩

/-- Table 9.10 (INCR) (R231). -/
def info_timIncr : RegInfo :=
  ⟨.block .tim, 0, 0x98, 0x8, 1,
   [⟨"INCR_NS", 35, 32, .rw, 0⟩,
    ⟨"INCR_FRAC", 31, 0, .rw, 0x8e38e38e⟩]⟩

/-- Table 9.10 (PPS) (R231). -/
def info_timPps : RegInfo :=
  ⟨.block .tim, 0, 0xa0, 0x8, 1,
   [⟨"WIDTH_MS", 15, 8, .rw, 0x64⟩,
    ⟨"IN_EDGE", 2, 2, .rw, 0⟩,
    ⟨"IN_EN", 1, 1, .rw, 0⟩,
    ⟨"OUT_EN", 0, 0, .rw, 0⟩]⟩

/-- Table 9.10 (CAP_NS) (R231). -/
def info_timPpsCapNs : RegInfo :=
  ⟨.block .tim, 0, 0xa8, 0x8, 1,
   [⟨"VALID", 63, 63, .w1c, 0⟩,
    ⟨"NS", 29, 0, .ro, 0⟩]⟩

/-- Table 9.10 (CAP_S) (R231). -/
def info_timPpsCapS : RegInfo :=
  ⟨.block .tim, 0, 0xb0, 0x8, 1,
   [⟨"SEC", 47, 0, .ro, 0⟩]⟩

/-- Table 12.7 (STATUS) (R282). -/
def info_fltStatus : RegInfo :=
  ⟨.block .flt, 0, 0x80, 0x8, 1,
   [⟨"CLASS", 63, 0, .w1c, 0⟩]⟩

/-- Table 12.7 (PENDING) (R282). -/
def info_fltPending : RegInfo :=
  ⟨.block .flt, 0, 0x88, 0x8, 1,
   [⟨"CLASS", 63, 0, .ro, 0⟩]⟩

/-- Table 12.7 (LEVEL) (R282). -/
def info_fltLevel : RegInfo :=
  ⟨.block .flt, 0, 0x90, 0x8, 1,
   [⟨"LEVEL", 2, 0, .ro, 0⟩]⟩

/-- Table 12.7 (ACK) (R282). -/
def info_fltAck : RegInfo :=
  ⟨.block .flt, 0, 0x98, 0x8, 1,
   [⟨"LEVEL", 10, 8, .wo, 0⟩,
    ⟨"CLASS", 5, 0, .wo, 0⟩]⟩

/-- Table 12.8 (WIN_Ln) (R267). -/
def info_fltWin : RegInfo :=
  ⟨.block .flt, 0, 0xa0, 0x8, 3,
   [⟨"WIN_US", 31, 0, .rwl, 0x186a0⟩]⟩

/-- Table 12.8 (CFG) (R282). -/
def info_fltCfg : RegInfo :=
  ⟨.block .flt, 0, 0xb8, 0x8, 1,
   [⟨"WARN_C", 15, 8, .rwl, 0x73⟩]⟩

/-- Table 12.8 (CRUST_CTRL) (R282). -/
def info_fltCrustCtrl : RegInfo :=
  ⟨.block .flt, 0, 0xc0, 0x8, 1,
   [⟨"EXIT", 63, 63, .w1s, 0⟩,
    ⟨"STATE", 1, 0, .ro, 0⟩]⟩

/-- Table 12.8 (STOP) (R282). -/
def info_fltStop : RegInfo :=
  ⟨.block .flt, 0, 0xc8, 0x8, 1,
   [⟨"VALID", 63, 63, .w1c, 0⟩,
    ⟨"CLASS", 55, 48, .ro, 0⟩,
    ⟨"AON_TICKS", 47, 0, .ro, 0⟩]⟩

/-- Table 12.8 (INJ) (R282). -/
def info_fltInj : RegInfo :=
  ⟨.block .flt, 0, 0xd0, 0x8, 1,
   [⟨"TYPE", 47, 32, .wo, 0⟩,
    ⟨"INSTANCE", 31, 16, .wo, 0⟩,
    ⟨"LEVEL", 10, 8, .wo, 0⟩,
    ⟨"CLASS", 5, 0, .wo, 0⟩]⟩

/-- Table 12.9 (A) (R282). -/
def info_fltRecA : RegInfo :=
  ⟨.block .flt, 1, 0x80, 0x20, 64,
   [⟨"VALID", 63, 63, .ro, 0⟩,
    ⟨"PENDING", 62, 62, .ro, 0⟩,
    ⟨"INJECTED", 61, 61, .ro, 0⟩,
    ⟨"LEVEL", 60, 58, .ro, 0⟩,
    ⟨"INIT", 57, 55, .ro, 0⟩,
    ⟨"COUNT", 47, 32, .ro, 0⟩,
    ⟨"TYPE", 31, 16, .ro, 0⟩,
    ⟨"INSTANCE", 15, 0, .ro, 0⟩]⟩

/-- Table 12.9 (B) (R282). -/
def info_fltRecB : RegInfo :=
  ⟨.block .flt, 1, 0x88, 0x20, 64,
   [⟨"SEC", 63, 48, .ro, 0⟩,
    ⟨"NS", 31, 0, .ro, 0⟩]⟩

/-- Table 12.9 (C) (R282). -/
def info_fltRecC : RegInfo :=
  ⟨.block .flt, 1, 0x90, 0x20, 64,
   [⟨"SRC_BIT", 63, 56, .ro, 0⟩,
    ⟨"DETAIL", 31, 0, .ro, 0⟩]⟩

/-- Table 12.9 (D) (R282). -/
def info_fltRecD : RegInfo :=
  ⟨.block .flt, 1, 0x98, 0x20, 64,
   [⟨"LAST_TYPE", 63, 48, .ro, 0⟩,
    ⟨"LAST_INSTANCE", 47, 32, .ro, 0⟩,
    ⟨"RAISE", 2, 0, .rwl, 0⟩]⟩

/-- Table 12.10 (SLC) (R282). -/
def info_fltFenceSlc : RegInfo :=
  ⟨.block .flt, 2, 0x80, 0x8, 1,
   [⟨"SLICES", 63, 0, .ro, 0⟩]⟩

/-- Table 12.10 (EDT) (R282). -/
def info_fltFenceEdt : RegInfo :=
  ⟨.block .flt, 2, 0x88, 0x8, 1,
   [⟨"ENGINES", 63, 0, .ro, 0⟩]⟩

/-- Table 12.10 (TCM) (R282). -/
def info_fltFenceTcm : RegInfo :=
  ⟨.block .flt, 2, 0x90, 0x8, 1,
   [⟨"BLOCKS", 63, 0, .ro, 0⟩]⟩

/-- Table 12.10 (D2D) (R282). -/
def info_fltFenceD2d : RegInfo :=
  ⟨.block .flt, 2, 0x98, 0x8, 1,
   [⟨"LINKS", 55, 0, .ro, 0⟩]⟩

/-- Table 12.10 (MISC) (R282). -/
def info_fltFenceMisc : RegInfo :=
  ⟨.block .flt, 2, 0xa0, 0x8, 1,
   [⟨"HUB", 27, 24, .ro, 0⟩,
    ⟨"FDH", 23, 16, .ro, 0⟩,
    ⟨"STACKS", 15, 8, .ro, 0⟩,
    ⟨"CLUSTERS", 7, 0, .ro, 0⟩]⟩

/-- Table 12.10 (UNFENCE) (R282). -/
def info_fltUnfence : RegInfo :=
  ⟨.block .flt, 2, 0xa8, 0x8, 1,
   [⟨"KIND", 18, 16, .wo, 0⟩,
    ⟨"INDEX", 5, 0, .wo, 0⟩]⟩

/-- Table 12.11 (CFG) (R282). -/
def info_fltCrustCfg : RegInfo :=
  ⟨.block .flt, 4, 0x80, 0x8, 1,
   [⟨"PORT_CELLS", 18, 0, .rwl, 0x800⟩]⟩

/-- Table 12.11 (LAG) (R282). -/
def info_fltCrustLag : RegInfo :=
  ⟨.block .flt, 4, 0x88, 0x8, 16,
   [⟨"VALID", 63, 63, .rwl, 0⟩,
    ⟨"PORT", 9, 0, .rwl, 0⟩]⟩

/-- Table 12.11 (ADDR) (R282). -/
def info_fltCrustAddr : RegInfo :=
  ⟨.block .flt, 4, 0x108, 0x8, 1,
   [⟨"PORT", 9, 0, .rw, 0⟩]⟩

/-- Table 12.11 (DATA) (R282). -/
def info_fltCrustData : RegInfo :=
  ⟨.block .flt, 4, 0x110, 0x8, 1,
   [⟨"MODE", 63, 62, .rwl, 0⟩,
    ⟨"EG_PORT", 9, 0, .rwl, 0⟩]⟩

/-- Table 17.11 (STATUS) (R381). -/
def info_bootStatus : RegInfo :=
  ⟨.block .boot, 0, 0x80, 0x8, 1,
   [⟨"DEVICE_READY", 63, 63, .ro, 0⟩,
    ⟨"RECOVERY", 62, 62, .ro, 0⟩,
    ⟨"ALT_USED", 61, 61, .ro, 0⟩,
    ⟨"STEP", 58, 56, .ro, 1⟩,
    ⟨"ERR", 55, 52, .ro, 0⟩,
    ⟨"ERR_SECTION", 51, 48, .ro, 0⟩,
    ⟨"READY_MS", 31, 0, .ro, 0⟩]⟩

/-- Table 17.11 (STRAP) (R381). -/
def info_bootStrap : RegInfo :=
  ⟨.block .boot, 0, 0x88, 0x8, 1,
   [⟨"TEST_EN", 3, 3, .ro, 0⟩,
    ⟨"TWIN_ROLE", 2, 2, .ro, 0⟩,
    ⟨"BOOT_SRC", 1, 0, .ro, 0⟩]⟩

/-- Table 17.11 (RESET) (R381). -/
def info_bootReset : RegInfo :=
  ⟨.block .boot, 0, 0x90, 0x8, 1,
   [⟨"KEY", 31, 0, .wo, 0⟩]⟩

/-- Table 17.11 (REC_ADDR) (R381). -/
def info_bootRecAddr : RegInfo :=
  ⟨.block .boot, 0, 0x98, 0x8, 1,
   [⟨"ADDR", 63, 6, .rw, 0⟩]⟩

/-- Table 17.11 (REC_CTRL) (R381). -/
def info_bootRecCtrl : RegInfo :=
  ⟨.block .boot, 0, 0xa0, 0x8, 1,
   [⟨"GO", 63, 63, .w1s, 0⟩,
    ⟨"FAIL", 62, 62, .ro, 0⟩,
    ⟨"LEN", 25, 0, .rw, 0⟩]⟩

/-- Table 17.12 (STAT) (R381). -/
def info_pciStat : RegInfo :=
  ⟨.block .pci, 0, 0x80, 0x8, 1,
   [⟨"LINK_UP", 63, 63, .ro, 0⟩,
    ⟨"SPEED", 35, 32, .ro, 0⟩,
    ⟨"WIDTH", 31, 28, .ro, 0⟩,
    ⟨"LINK_DOWNS", 15, 0, .ro, 0⟩]⟩

/-- Table 17.12 (EVT) (R381). -/
def info_pciEvt : RegInfo :=
  ⟨.block .pci, 0, 0x88, 0x8, 1,
   [⟨"MGR_RING", 1, 0, .rw, 0⟩]⟩

/-- Table 17.12 (VEC_ADDR) (R381). -/
def info_pciVecAddr : RegInfo :=
  ⟨.block .pci, 0, 0x90, 0x8, 1,
   [⟨"PARTITION", 11, 0, .rw, 0⟩]⟩

/-- Table 17.12 (VEC_DATA) (R381). -/
def info_pciVecData : RegInfo :=
  ⟨.block .pci, 0, 0x98, 0x8, 1,
   [⟨"COUNT", 43, 32, .rw, 0⟩,
    ⟨"BASE", 10, 0, .rw, 0⟩]⟩

/-- Table 15.8 (CFG) (R345). -/
def info_limCfg : RegInfo :=
  ⟨.block .lim, 0, 0x80, 0x8, 1,
   [⟨"WDOG_US", 31, 0, .rwl, 0x3e8⟩]⟩

/-- Table 15.8 (STAT) (R345). -/
def info_limStat : RegInfo :=
  ⟨.block .lim, 0, 0x88, 0x8, 1,
   [⟨"RUNNING", 63, 63, .ro, 0⟩,
    ⟨"RESTARTS", 47, 32, .ro, 0⟩,
    ⟨"GATE_REJECT", 31, 0, .ro, 0⟩]⟩

/-- Table 15.8 (CTRL) (R345). -/
def info_limLoopCtrl : RegInfo :=
  ⟨.block .lim, 0, 0x100, 0x20, 6,
   [⟨"RESTORE", 63, 63, .w1s, 0⟩,
    ⟨"PERIOD_US", 47, 16, .rw, 0⟩,
    ⟨"CONSEC", 11, 8, .rw, 3⟩,
    ⟨"MODE", 1, 0, .rw, 0⟩]⟩

/-- Table 15.8 (TH) (R345). -/
def info_limLoopTh : RegInfo :=
  ⟨.block .lim, 0, 0x108, 0x20, 6,
   [⟨"TH_HIGH", 63, 32, .rw, 0⟩,
    ⟨"TH_LOW", 31, 0, .rw, 0⟩]⟩

/-- Table 15.8 (BND) (R345). -/
def info_limLoopBnd : RegInfo :=
  ⟨.block .lim, 0, 0x110, 0x20, 6,
   [⟨"BND_C", 63, 48, .rwl, 0⟩,
    ⟨"BND_B", 47, 32, .rwl, 0⟩,
    ⟨"BND_A", 31, 0, .rwl, 0⟩]⟩

/-- Table 15.8 (LOG_PTR) (R345). -/
def info_limLogPtr : RegInfo :=
  ⟨.block .lim, 0, 0x118, 0x20, 6,
   [⟨"NEXT_SEQ", 31, 0, .ro, 0⟩]⟩

/-- Table 15.8 (LOG_ADDR) (R345). -/
def info_limLogAddr : RegInfo :=
  ⟨.block .lim, 1, 0x80, 0x8, 1,
   [⟨"AUTO_INC", 63, 63, .rw, 0⟩,
    ⟨"LOOP", 14, 12, .rw, 0⟩,
    ⟨"SLOT", 11, 2, .rw, 0⟩,
    ⟨"WORD", 1, 0, .rw, 0⟩]⟩

/-- Table 15.8 (LOG_DATA) (R345). -/
def info_limLogData : RegInfo :=
  ⟨.block .lim, 1, 0x88, 0x8, 1,
   [⟨"RECORD_WORD", 63, 0, .ro, 0⟩]⟩

/-- Table 15.8 (VBND) (R345). -/
def info_limVbnd : RegInfo :=
  ⟨.block .lim, 1, 0x100, 0x8, 8,
   [⟨"VMAX_MV", 47, 32, .rwl, 0x320⟩,
    ⟨"VMIN_MV", 15, 0, .rwl, 0x28a⟩]⟩

/-- Table 5.9 (R127). -/
def info_cmtCfg : RegInfo :=
  ⟨.block .cmt, 0, 0x80, 0x8, 1,
   [⟨"DRAIN_LIMIT", 47, 32, .rwl, 0x64⟩,
    ⟨"BURST", 31, 28, .rwl, 8⟩,
    ⟨"MAX_BATCH", 16, 0, .rwl, 0x10000⟩]⟩

/-- Table 5.10 (R127). -/
def info_verCurrent : RegInfo :=
  ⟨.block .cmt, 0, 0x88, 0x8, 1,
   [⟨"VERSION", 31, 0, .ro, 0⟩]⟩

/-- Table 5.11 (R127). -/
def info_verLive : RegInfo :=
  ⟨.block .cmt, 0, 0x90, 0x8, 1,
   [⟨"OLDEST", 63, 32, .ro, 0⟩,
    ⟨"LIVE", 27, 24, .ro, 1⟩,
    ⟨"TAGS_USED", 14, 8, .ro, 0⟩,
    ⟨"OPEN", 6, 0, .ro, 0⟩]⟩

/-- Table 5.12 (STALL) (R127). -/
def info_commitStall : RegInfo :=
  ⟨.block .cmt, 0, 0xa0, 0x8, 1,
   [⟨"LAST_REASON", 63, 60, .ro, 0⟩,
    ⟨"WRAP", 48, 48, .w1c, 0⟩,
    ⟨"COUNT", 47, 0, .ro, 0⟩]⟩

/-- Table 5.12 (TIME) (R127). -/
def info_commitStallTime : RegInfo :=
  ⟨.block .cmt, 0, 0xa8, 0x8, 1,
   [⟨"WRAP", 48, 48, .w1c, 0⟩,
    ⟨"TOTAL", 47, 0, .ro, 0⟩]⟩

/-- Table 5.13 (COUNT) (R127). -/
def info_cmtCount : RegInfo :=
  ⟨.block .cmt, 0, 0xb0, 0x8, 1,
   [⟨"WRAP", 48, 48, .w1c, 0⟩,
    ⟨"COMMITS", 47, 0, .ro, 0⟩]⟩

/-- Table 5.13 (DRAIN_MAX) (R127). -/
def info_cmtDrainMax : RegInfo :=
  ⟨.block .cmt, 0, 0xb8, 0x8, 1,
   [⟨"HUB_CLOCKS", 31, 0, .ro, 0⟩]⟩

/-- Table 5.14 (R127). -/
def info_cmtBatch : RegInfo :=
  ⟨.block .cmt, 1, 0x80, 0x8, 64,
   [⟨"STATE", 63, 62, .ro, 0⟩,
    ⟨"PARTITION", 61, 50, .ro, 0⟩,
    ⟨"CHANGES", 49, 32, .ro, 0⟩,
    ⟨"VERSION", 31, 0, .ro, 0⟩]⟩

/-- Table 14.4 (CFG) (R323). -/
def info_cslCfg : RegInfo :=
  ⟨.block .csl, 0, 0x80, 0x8, 1,
   [⟨"PAIR_ID", 63, 32, .rwl, 0⟩,
    ⟨"IMG_GBPS", 25, 16, .rwl, 0x2e0⟩,
    ⟨"SYNC_SRC", 0, 0, .rwl, 0⟩]⟩

/-- Table 14.4 (STATE) (R323). -/
def info_cslState : RegInfo :=
  ⟨.block .csl, 0, 0x88, 0x8, 1,
   [⟨"ROLE", 63, 63, .ro, 0⟩,
    ⟨"WIDTH", 19, 16, .ro, 0⟩,
    ⟨"CAUSE", 11, 8, .ro, 0⟩,
    ⟨"STATE", 2, 0, .ro, 0⟩]⟩

/-- Table 14.5 (HB) (R323). -/
def info_cslHb : RegInfo :=
  ⟨.block .csl, 0, 0x90, 0x8, 1,
   [⟨"TIMEOUT_US", 29, 16, .rwl, 0x1388⟩,
    ⟨"PERIOD_US", 7, 0, .rwl, 0xa⟩]⟩

/-- Table 14.5 (CMD) (R323). -/
def info_cslCmd : RegInfo :=
  ⟨.block .csl, 0, 0x98, 0x8, 1,
   [⟨"BUSY", 63, 63, .ro, 0⟩,
    ⟨"PARTITION", 27, 16, .rw, 0⟩,
    ⟨"OP", 3, 0, .rw, 0⟩]⟩

/-- Table 14.6 (XFER) (R323). -/
def info_cslXfer : RegInfo :=
  ⟨.block .csl, 0, 0xa0, 0x8, 1,
   [⟨"SRC_CLUSTER", 58, 56, .rw, 0⟩,
    ⟨"DST_CLUSTER", 50, 48, .rw, 0⟩,
    ⟨"LEN_KIB", 31, 0, .rw, 0⟩]⟩

/-- Table 14.6 (STAT) (R323). -/
def info_cslXferStat : RegInfo :=
  ⟨.block .csl, 0, 0xa8, 0x8, 1,
   [⟨"DONE", 63, 63, .w1c, 0⟩,
    ⟨"FAULT", 62, 62, .w1c, 0⟩,
    ⟨"SENT_KIB", 31, 0, .ro, 0⟩]⟩

/-- Table 14.7 (ADDR) (R323). -/
def info_cslPreplAddr : RegInfo :=
  ⟨.block .csl, 1, 0x80, 0x8, 1,
   [⟨"PARTITION", 11, 0, .rw, 0⟩]⟩

/-- Table 14.7 (DATA) (R323). -/
def info_cslPreplData : RegInfo :=
  ⟨.block .csl, 1, 0x88, 0x8, 1,
   [⟨"UNSYNCED", 17, 17, .ro, 0⟩,
    ⟨"DIVERGED", 16, 16, .ro, 0⟩,
    ⟨"SYNC", 8, 8, .rw, 0⟩,
    ⟨"DEFAULT", 1, 0, .rw, 1⟩]⟩

/-- Table 14.8 (R323). -/
def info_cslRetry : RegInfo :=
  ⟨.block .csl, 1, 0x90, 0x8, 1,
   [⟨"WRAP", 48, 48, .w1c, 0⟩,
    ⟨"COUNT", 47, 0, .ro, 0⟩]⟩

/-- Table 14.8 (R323). -/
def info_cslReplDrop : RegInfo :=
  ⟨.block .csl, 1, 0x98, 0x8, 1,
   [⟨"WRAP", 48, 48, .w1c, 0⟩,
    ⟨"COUNT", 47, 0, .ro, 0⟩]⟩

/-- Table 16.5 (SNAP) (R361). -/
def info_perfSnap : RegInfo :=
  ⟨.block .perf, 0, 0x80, 0x8, 1,
   [⟨"GO", 63, 63, .w1s, 0⟩]⟩

/-- Table 16.5 (SNAP_TIME) (R361). -/
def info_perfSnapTime : RegInfo :=
  ⟨.block .perf, 0, 0x88, 0x8, 1,
   [⟨"SEC", 63, 48, .ro, 0⟩,
    ⟨"NS", 31, 0, .ro, 0⟩]⟩

/-- Table 16.5 (SEL) (R361). -/
def info_perfSel : RegInfo :=
  ⟨.block .perf, 0, 0x90, 0x8, 1,
   [⟨"AUTO_INC", 63, 63, .rw, 0⟩,
    ⟨"SHADOW", 62, 62, .rw, 0⟩,
    ⟨"GONE", 61, 61, .ro, 0⟩,
    ⟨"EVENT", 55, 48, .rw, 0⟩,
    ⟨"TYPE", 47, 32, .rw, 0⟩,
    ⟨"INSTANCE", 31, 16, .rw, 0⟩,
    ⟨"INDEX", 13, 0, .rw, 0⟩]⟩

/-- Table 16.5 (VAL) (R361). -/
def info_perfVal : RegInfo :=
  ⟨.block .perf, 0, 0x98, 0x8, 1,
   [⟨"WRAP", 48, 48, .rw, 0⟩,
    ⟨"COUNT", 47, 0, .rw, 0⟩]⟩

/-- Table 16.5 (DUMP_ADDR) (R361). -/
def info_perfDumpAddr : RegInfo :=
  ⟨.block .perf, 0, 0xa0, 0x8, 1,
   [⟨"ADDR", 63, 3, .rw, 0⟩]⟩

/-- Table 16.5 (DUMP_CTRL) (R361). -/
def info_perfDumpCtrl : RegInfo :=
  ⟨.block .perf, 0, 0xa8, 0x8, 1,
   [⟨"GO", 63, 63, .w1s, 0⟩,
    ⟨"SHADOW", 62, 62, .rw, 0⟩,
    ⟨"TYPE", 47, 32, .rw, 0⟩,
    ⟨"LAST", 31, 16, .rw, 0⟩,
    ⟨"FIRST", 15, 0, .rw, 0⟩]⟩

/-- Table 16.5 (THR_SEL) (R361). -/
def info_perfThrSel : RegInfo :=
  ⟨.block .perf, 0, 0xb0, 0x8, 1,
   [⟨"ENTRY", 5, 0, .rw, 0⟩]⟩

/-- Table 16.5 (THR_CTR) (R361). -/
def info_perfThrCtr : RegInfo :=
  ⟨.block .perf, 0, 0xb8, 0x8, 1,
   [⟨"COUNTER", 63, 0, .rw, 0⟩]⟩

/-- Table 16.5 (THR_CFG) (R361). -/
def info_perfThrCfg : RegInfo :=
  ⟨.block .perf, 0, 0xc0, 0x8, 1,
   [⟨"VALID", 63, 63, .rw, 0⟩,
    ⟨"PARTITION", 59, 48, .rw, 0⟩,
    ⟨"RING", 47, 46, .rw, 0⟩,
    ⟨"MIN_GAP_US", 45, 32, .rw, 1⟩,
    ⟨"EVERY", 31, 0, .rw, 0⟩]⟩

/-- Table 16.5 (SMP_STAT) (R361). -/
def info_perfSmpStat : RegInfo :=
  ⟨.block .perf, 0, 0xc8, 0x8, 1,
   [⟨"DROPS", 31, 0, .rc, 0⟩]⟩

/-- Table 16.5 (USER_EN[k]) (R361). -/
def info_perfUserEn : RegInfo :=
  ⟨.block .perf, 0, 0x100, 0x8, 64,
   [⟨"EN", 63, 0, .rw, 0⟩]⟩

/-- Table 13.10 (CMD) (R306). -/
def info_partCmd : RegInfo :=
  ⟨.block .part, 0, 0x80, 0x8, 1,
   [⟨"BUSY", 63, 63, .ro, 0⟩,
    ⟨"MODE", 28, 28, .rw, 0⟩,
    ⟨"PARTITION", 27, 16, .rw, 0⟩,
    ⟨"OP", 3, 0, .rw, 0⟩]⟩

/-- Table 13.10 (RES) (R306). -/
def info_partCmdRes : RegInfo :=
  ⟨.block .part, 0, 0x88, 0x8, 1,
   [⟨"VALID", 63, 63, .w1c, 0⟩,
    ⟨"FINAL", 62, 62, .ro, 0⟩,
    ⟨"STATUS", 59, 56, .ro, 0⟩,
    ⟨"OP", 19, 16, .ro, 0⟩,
    ⟨"PARTITION", 11, 0, .ro, 0⟩]⟩

/-- Table 13.10 (SEL) (R306). -/
def info_partSel : RegInfo :=
  ⟨.block .part, 0, 0x90, 0x8, 1,
   [⟨"PARTITION", 11, 0, .rw, 0⟩]⟩

/-- Table 13.10 (STATE) (R306). -/
def info_partState : RegInfo :=
  ⟨.block .part, 0, 0x98, 0x8, 1,
   [⟨"FROZEN_VERSION", 63, 32, .ro, 0⟩,
    ⟨"MODE", 11, 11, .ro, 0⟩,
    ⟨"TRANS", 10, 10, .ro, 0⟩,
    ⟨"SAVING", 9, 9, .ro, 0⟩,
    ⟨"FOLDING", 8, 8, .ro, 0⟩,
    ⟨"STATE", 2, 0, .ro, 0⟩]⟩

/-- Table 13.10 (PASID) (R306). -/
def info_partPasid : RegInfo :=
  ⟨.block .part, 0, 0xa0, 0x8, 1,
   [⟨"EN", 63, 63, .rw, 0⟩,
    ⟨"PASID", 19, 0, .rw, 0⟩]⟩

/-- Table 13.10 (RESET) (R306). -/
def info_partReset : RegInfo :=
  ⟨.block .part, 0, 0xa8, 0x8, 1,
   [⟨"DRAIN_US", 63, 32, .rw, 0x3e8⟩,
    ⟨"MODE", 0, 0, .rw, 0⟩]⟩

/-- Table 13.10 (BUDGET) (R306). -/
def info_partBudget : RegInfo :=
  ⟨.block .part, 0, 0xb0, 0x8, 1,
   [⟨"BURST", 23, 20, .rw, 4⟩,
    ⟨"COMMIT_RATE", 15, 0, .rw, 0⟩]⟩

/-- Table 13.10 (RINGS) (R306). -/
def info_partRings : RegInfo :=
  ⟨.block .part, 0, 0xb8, 0x8, 1,
   [⟨"CMD", 20, 16, .rw, 0⟩,
    ⟨"EVT", 10, 8, .rw, 0⟩,
    ⟨"SPORE", 4, 0, .rw, 0⟩]⟩

/-- Table 13.10 (HOST) (R306). -/
def info_partHost : RegInfo :=
  ⟨.block .part, 0, 0xc0, 0x8, 1,
   [⟨"EN", 4, 4, .rw, 0⟩,
    ⟨"RING", 3, 0, .rw, 0⟩]⟩

/-- Table 13.10 (RANGE_ACT) (R306). -/
def info_partRangeAct : RegInfo :=
  ⟨.block .part, 0, 0xc8, 0x8, 1,
   [⟨"COUNT", 50, 32, .rw, 0⟩,
    ⟨"BASE", 17, 0, .rw, 0⟩]⟩

/-- Table 13.10 (RANGE_GRP) (R306). -/
def info_partRangeGrp : RegInfo :=
  ⟨.block .part, 0, 0xd0, 0x8, 1,
   [⟨"COUNT", 48, 32, .rw, 0⟩,
    ⟨"BASE", 15, 0, .rw, 0⟩]⟩

/-- Table 13.10 (RANGE_MBR) (R306). -/
def info_partRangeMbr : RegInfo :=
  ⟨.block .part, 0, 0xd8, 0x8, 1,
   [⟨"COUNT", 51, 32, .rw, 0⟩,
    ⟨"BASE", 18, 0, .rw, 0⟩]⟩

/-- Table 13.10 (RANGE_CTR) (R306). -/
def info_partRangeCtr : RegInfo :=
  ⟨.block .part, 0, 0xe0, 0x8, 1,
   [⟨"COUNT", 56, 32, .rw, 0⟩,
    ⟨"BASE", 23, 0, .rw, 0⟩]⟩

/-- Table 13.10 (RANGE_PRG) (R306). -/
def info_partRangePrg : RegInfo :=
  ⟨.block .part, 0, 0xe8, 0x8, 1,
   [⟨"COUNT", 44, 32, .rw, 0⟩,
    ⟨"BASE", 11, 0, .rw, 0⟩]⟩

/-- Table 13.10 (RANGE_MCG) (R306). -/
def info_partRangeMcg : RegInfo :=
  ⟨.block .part, 0, 0xf0, 0x8, 1,
   [⟨"COUNT", 48, 32, .rw, 0⟩,
    ⟨"BASE", 15, 0, .rw, 0⟩]⟩

/-- Table 13.10 (POOL) (R306). -/
def info_partPool : RegInfo :=
  ⟨.block .part, 0, 0xf8, 0x8, 1,
   [⟨"CMD_FREE", 46, 32, .ro, 0x3ff0⟩,
    ⟨"EVT_FREE", 28, 16, .ro, 0xffc⟩,
    ⟨"SPORE_FREE", 14, 0, .ro, 0x3ff0⟩]⟩

/-- Table 13.10 (IMG_ADDR) (R306). -/
def info_partImgAddr : RegInfo :=
  ⟨.block .part, 0, 0x100, 0x8, 1,
   [⟨"ADDR", 63, 6, .rw, 0⟩]⟩

/-- Table 13.10 (IMG_CTRL) (R306). -/
def info_partImgCtrl : RegInfo :=
  ⟨.block .part, 0, 0x108, 0x8, 1,
   [⟨"AREA", 63, 63, .rw, 0⟩,
    ⟨"CLUSTER", 58, 56, .rw, 0⟩,
    ⟨"KIND", 49, 48, .rw, 0⟩,
    ⟨"LEN_KIB", 31, 0, .ro, 0⟩]⟩

/-- Table 13.11 (PORT_ADDR) (R306). -/
def info_partPortAddr : RegInfo :=
  ⟨.block .part, 1, 0x80, 0x8, 1,
   [⟨"PORT", 9, 0, .rw, 0⟩]⟩

/-- Table 13.11 (PORT_DATA) (R306). -/
def info_partPortData : RegInfo :=
  ⟨.block .part, 1, 0x88, 0x8, 1,
   [⟨"OWNER", 11, 0, .rw, 0⟩]⟩

/-- Table 13.11 (QOWN_ADDR) (R306). -/
def info_partQownAddr : RegInfo :=
  ⟨.block .part, 1, 0x90, 0x8, 1,
   [⟨"BLOCK", 13, 0, .rw, 0⟩]⟩

/-- Table 13.11 (QOWN_DATA) (R306). -/
def info_partQownData : RegInfo :=
  ⟨.block .part, 1, 0x98, 0x8, 1,
   [⟨"OWNER", 11, 0, .rw, 0⟩]⟩

/-- Table 15.7 (THERM) (R344). -/
def info_cluTherm : RegInfo :=
  ⟨.block .clu, 0, 0x80, 0x8, 1,
   [⟨"THROTTLED", 32, 32, .ro, 0⟩,
    ⟨"TJ_MAX_C", 23, 16, .ro, 0⟩,
    ⟨"SENSOR", 15, 8, .ro, 0⟩,
    ⟨"TJ_C", 7, 0, .ro, 0⟩]⟩

/-- Table 15.7 (AVS) (R344). -/
def info_cluAvs : RegInfo :=
  ⟨.block .clu, 0, 0x88, 0x8, 1,
   [⟨"VOLT_MV", 63, 48, .ro, 0x320⟩,
    ⟨"MARGIN_PS", 39, 32, .ro, 0⟩,
    ⟨"AGE_PS", 15, 0, .ro, 0⟩]⟩

/-- Table 10.12 (REGION) (R251). -/
def info_hbmRegion : RegInfo :=
  ⟨.block .hbm, 0, 0x80, 0x8, 1,
   [⟨"TABLE_GIB", 3, 0, .rwl, 4⟩]⟩

/-- Table 10.12 (STATUS) (R251). -/
def info_hbmStatus : RegInfo :=
  ⟨.block .hbm, 0, 0x88, 0x8, 1,
   [⟨"ROWS_REPAIRED", 63, 48, .ro, 0⟩,
    ⟨"SELF_REFRESH", 47, 47, .ro, 0⟩,
    ⟨"N_T", 29, 23, .ro, 0x11⟩,
    ⟨"SPILL_BLOCKS", 22, 0, .ro, 0x440000⟩]⟩

/-- Table 10.13 (TEMP) (R251). -/
def info_hbmTemp : RegInfo :=
  ⟨.block .hbm, 0, 0x90, 0x8, 1,
   [⟨"REFRESH", 33, 32, .ro, 0⟩,
    ⟨"WARN_C", 31, 24, .rwl, 0x73⟩,
    ⟨"MAX_C", 23, 16, .ro, 0⟩,
    ⟨"CASE_C", 7, 0, .ro, 0⟩]⟩

/-- Table 10.13 (RETRAIN) (R251). -/
def info_hbmRetrain : RegInfo :=
  ⟨.block .hbm, 0, 0x98, 0x8, 1,
   [⟨"LOW_CH", 63, 32, .w1c, 0⟩,
    ⟨"MIN_MARGIN", 31, 24, .rwl, 0x10⟩,
    ⟨"DELTA_C", 23, 16, .rwl, 8⟩,
    ⟨"PERIOD_MS", 15, 0, .rwl, 0x32⟩]⟩

/-- Table 10.14 (R251). -/
def info_hbmRaw : RegInfo :=
  ⟨.block .hbm, 0, 0xa0, 0x8, 1,
   [⟨"WRAP", 48, 48, .w1c, 0⟩,
    ⟨"COUNT", 47, 0, .ro, 0⟩]⟩

/-- Table 10.16 (LAP) (R251). -/
def info_hbmScrubLap : RegInfo :=
  ⟨.block .hbm, 0, 0xa8, 0x8, 1,
   [⟨"LAP_MS", 31, 0, .ro, 0⟩]⟩

/-- Table 10.16 (LIMIT) (R251). -/
def info_hbmScrubLapLimit : RegInfo :=
  ⟨.block .hbm, 0, 0xb0, 0x8, 1,
   [⟨"LIMIT_MS", 31, 0, .rwl, 0xea60⟩]⟩

/-- Table 10.15 (CTRL) (R251). -/
def info_hbmTrainCtrl : RegInfo :=
  ⟨.block .hbm, 1, 0x80, 0x8, 1,
   [⟨"GO", 63, 63, .w1s, 0⟩,
    ⟨"DELAY", 39, 32, .rw, 0⟩,
    ⟨"PATTERN", 31, 28, .rw, 0⟩,
    ⟨"MODE", 27, 26, .rw, 0⟩,
    ⟨"PC", 25, 20, .rw, 0⟩,
    ⟨"BEATS", 19, 0, .rw, 0x10000⟩]⟩

/-- Table 10.15 (PAT) (R251). -/
def info_hbmTrainPat : RegInfo :=
  ⟨.block .hbm, 1, 0x88, 0x8, 1,
   [⟨"PATTERN", 63, 0, .rw, 0⟩]⟩

/-- Table 10.15 (RES) (R251). -/
def info_hbmTrainRes : RegInfo :=
  ⟨.block .hbm, 1, 0x90, 0x8, 1,
   [⟨"DONE", 63, 63, .ro, 0⟩,
    ⟨"PASS", 62, 62, .ro, 0⟩,
    ⟨"ERRORS", 47, 37, .ro, 0⟩,
    ⟨"LANES", 36, 0, .ro, 0⟩]⟩

/-- Table 8.6 (CFG) (R203). -/
def info_bpmCfg : RegInfo :=
  ⟨.block .bpm, 0, 0x80, 0x8, 1,
   [⟨"AUD_EN", 48, 48, .rwl, 1⟩,
    ⟨"SPILL_RSV", 47, 32, .rwl, 0x1000⟩,
    ⟨"TAIL_RSV", 31, 16, .rwl, 0x800⟩]⟩

/-- Table 8.6 (OCC) (R203). -/
def info_bpmOcc : RegInfo :=
  ⟨.block .bpm, 0, 0x88, 0x8, 1,
   [⟨"RESERVED", 50, 32, .ro, 0⟩,
    ⟨"FREE", 18, 0, .ro, 0x40000⟩]⟩

/-- Table 8.7 (ARB) (R203). -/
def info_bpmArb : RegInfo :=
  ⟨.block .bpm, 0, 0x90, 0x8, 1,
   [⟨"PTR", 5, 0, .ro, 0⟩]⟩

/-- Table 8.7 (COPY) (R203). -/
def info_bpmCopyCfg : RegInfo :=
  ⟨.block .bpm, 0, 0x98, 0x8, 1,
   [⟨"SPORE_LIMIT", 50, 32, .rw, 0x1000⟩,
    ⟨"HOST_LIMIT", 18, 0, .rw, 0x2000⟩]⟩

/-- Table 8.8 (CFG) (R203). -/
def info_bpmSpillCfg : RegInfo :=
  ⟨.block .bpm, 0, 0xa0, 0x8, 1,
   [⟨"WR_CAP", 63, 48, .rw, 0x1770⟩,
    ⟨"REFILL", 47, 32, .rwl, 0x100⟩,
    ⟨"FLUSH_NS", 31, 16, .rwl, 0x1f4⟩]⟩

/-- Table 8.8 (OCC) (R203). -/
def info_bpmSpillOcc : RegInfo :=
  ⟨.block .bpm, 0, 0xa8, 0x8, 1,
   [⟨"BLOCKS_USED", 55, 32, .ro, 0⟩,
    ⟨"STAGING_FREE", 12, 0, .ro, 0x1000⟩]⟩

/-- Table 8.9 (AUDIT) (R203). -/
def info_bpmAudit : RegInfo :=
  ⟨.block .bpm, 0, 0xb0, 0x8, 1,
   [⟨"PASS_US", 63, 32, .ro, 0⟩,
    ⟨"LEAKS", 31, 0, .ro, 0⟩]⟩

/-- Table 8.9 (FENCE) (R203). -/
def info_bpmReplFence : RegInfo :=
  ⟨.block .bpm, 0, 0xb8, 0x8, 1,
   [⟨"GO", 63, 63, .w1s, 0⟩]⟩

/-- Table 8.10 (ADDR) (R203). -/
def info_bpmLimAddr : RegInfo :=
  ⟨.block .bpm, 1, 0x80, 0x8, 1,
   [⟨"KIND", 13, 12, .rw, 0⟩,
    ⟨"INDEX", 11, 0, .rw, 0⟩]⟩

/-- Table 8.10 (DATA) (R203). -/
def info_bpmLimData : RegInfo :=
  ⟨.block .bpm, 1, 0x88, 0x8, 1,
   [⟨"DATA", 63, 0, .rw, 0⟩]⟩

/-- Table 8.10 (OCC) (R203). -/
def info_bpmLimOcc : RegInfo :=
  ⟨.block .bpm, 1, 0x90, 0x8, 1,
   [⟨"BLOCKS", 42, 19, .ro, 0⟩,
    ⟨"CELLS", 18, 0, .ro, 0⟩]⟩

/-- Table 8.11 (R203). -/
def info_bpmPort : RegInfo :=
  ⟨.block .bpm, 1, 0x100, 0x8, 128,
   [⟨"CT_EN", 0, 0, .rw, 1⟩]⟩

/-- Table 8.12 (ADDR) (R203). -/
def info_bpmQAddr : RegInfo :=
  ⟨.block .bpm, 2, 0x80, 0x8, 1,
   [⟨"QLOCAL", 16, 0, .rw, 0⟩]⟩

/-- Table 8.12 (DATA) (R203). -/
def info_bpmQData : RegInfo :=
  ⟨.block .bpm, 2, 0x88, 0x8, 1,
   [⟨"SPILL_EN", 63, 63, .rw, 0⟩,
    ⟨"REGION", 59, 56, .rw, 0⟩,
    ⟨"SPILL_THRESH", 50, 32, .rw, 0x40000⟩,
    ⟨"SPILLING", 31, 31, .ro, 0⟩,
    ⟨"ON_DIE", 18, 0, .ro, 0⟩]⟩

/-- Table 8.12 (SPILL) (R203). -/
def info_bpmQSpill : RegInfo :=
  ⟨.block .bpm, 2, 0x90, 0x8, 1,
   [⟨"BLOCKS", 23, 0, .ro, 0⟩]⟩

/-- Table 8.13 (MCG_ADDR) (R203). -/
def info_bpmMcgAddr : RegInfo :=
  ⟨.block .bpm, 3, 0x80, 0x8, 1,
   [⟨"BCAST", 63, 63, .rw, 0⟩,
    ⟨"GROUP", 15, 0, .rw, 0⟩]⟩

/-- Table 8.13 (MCG_DATA) (R203). -/
def info_bpmMcgData : RegInfo :=
  ⟨.block .bpm, 3, 0x88, 0x8, 1,
   [⟨"CMASK", 63, 56, .rw, 0⟩,
    ⟨"LIST_BASE", 55, 39, .rw, 0⟩,
    ⟨"LIST_LEN", 38, 25, .rw, 0⟩]⟩

/-- Table 8.13 (MCL_ADDR) (R203). -/
def info_bpmMclAddr : RegInfo :=
  ⟨.block .bpm, 3, 0x90, 0x8, 1,
   [⟨"ENTRY", 16, 0, .rw, 0⟩]⟩

/-- Table 8.13 (MCL_DATA) (R203). -/
def info_bpmMclData : RegInfo :=
  ⟨.block .bpm, 3, 0x98, 0x8, 1,
   [⟨"QUEUE", 63, 44, .rw, 0⟩,
    ⟨"PROG", 43, 32, .rw, 0⟩,
    ⟨"SRC_PRUNE", 31, 31, .rw, 0⟩]⟩

/-- Table 8.14 (MIR_ADDR) (R203). -/
def info_bpmMirAddr : RegInfo :=
  ⟨.block .bpm, 3, 0xa0, 0x8, 1,
   [⟨"BCAST", 63, 63, .rw, 0⟩,
    ⟨"SESSION", 5, 0, .rw, 0⟩]⟩

/-- Table 8.14 (MIR_DATA) (R203). -/
def info_bpmMirData : RegInfo :=
  ⟨.block .bpm, 3, 0xa8, 0x8, 1,
   [⟨"VALID", 63, 63, .rw, 0⟩,
    ⟨"OWNER", 62, 51, .rw, 0⟩,
    ⟨"QUEUE", 50, 31, .rw, 0⟩,
    ⟨"PROG", 30, 19, .rw, 0⟩]⟩

/-- Table 8.14 (SMP_ADDR) (R203). -/
def info_bpmSmpAddr : RegInfo :=
  ⟨.block .bpm, 3, 0xb0, 0x8, 1,
   [⟨"BCAST", 63, 63, .rw, 0⟩,
    ⟨"PARTITION", 17, 6, .rw, 0⟩,
    ⟨"SAMPLER", 5, 0, .rw, 0⟩]⟩

/-- Table 8.14 (SMP_DATA) (R203). -/
def info_bpmSmpData : RegInfo :=
  ⟨.block .bpm, 3, 0xb8, 0x8, 1,
   [⟨"VALID", 63, 63, .rw, 0⟩,
    ⟨"MODE", 62, 62, .rw, 0⟩,
    ⟨"RING", 61, 58, .rw, 0⟩,
    ⟨"TRUNC", 57, 55, .rw, 0⟩,
    ⟨"DIV_M1", 23, 0, .rw, 0⟩]⟩

/-- Table 4.13 (R107). -/
def info_exmCfg : RegInfo :=
  ⟨.block .exm, 0, 0x80, 0x8, 1,
   [⟨"STASH_EN", 16, 16, .rwl, 1⟩,
    ⟨"FLOW_MOVE_LIMIT", 13, 8, .rwl, 4⟩,
    ⟨"MOVE_LIMIT", 5, 0, .rwl, 8⟩]⟩

/-- Table 4.14 (R107). -/
def info_exmFlowCfg : RegInfo :=
  ⟨.block .exm, 0, 0x88, 0x8, 1,
   [⟨"FLOW_EN", 32, 32, .rwl, 0⟩,
    ⟨"LOG2_BUCKETS", 4, 0, .rwl, 0x16⟩]⟩

/-- Table 4.15 (R107). -/
def info_exmOcc : RegInfo :=
  ⟨.block .exm, 0, 0x90, 0x8, 1,
   [⟨"FLOW_USED", 55, 32, .ro, 0⟩,
    ⟨"STASH_USED", 30, 22, .ro, 0⟩,
    ⟨"EM_USED", 21, 0, .ro, 0⟩]⟩

/-- Table 4.16 (ADDR) (R107). -/
def info_exmDirAddr : RegInfo :=
  ⟨.block .exm, 0, 0xa0, 0x8, 1,
   [⟨"TABLE_ID", 7, 0, .rw, 0⟩]⟩

/-- Table 4.16 (DATA) (R107). -/
def info_exmDirData : RegInfo :=
  ⟨.block .exm, 0, 0xa8, 0x8, 1,
   [⟨"VALID", 63, 63, .rw, 0⟩,
    ⟨"KIND", 62, 60, .rw, 0⟩,
    ⟨"LOCAL", 59, 59, .rw, 0⟩,
    ⟨"COUNT_EN", 58, 58, .rw, 0⟩,
    ⟨"TBLK_FIRST", 51, 49, .rw, 0⟩,
    ⟨"TBLK_COUNT", 48, 45, .rw, 0⟩,
    ⟨"MAX_ENTRIES", 21, 0, .rw, 0⟩]⟩

/-- Table 4.17 (ADDR) (R107). -/
def info_exmChainAddr : RegInfo :=
  ⟨.block .exm, 0, 0xb0, 0x8, 1,
   [⟨"AUTO_INC", 63, 63, .rw, 0⟩,
    ⟨"PROFILE", 10, 5, .rw, 0⟩,
    ⟨"WORD", 4, 0, .rw, 0⟩]⟩

/-- Table 4.17 (DATA) (R107). -/
def info_exmChainData : RegInfo :=
  ⟨.block .exm, 0, 0xb8, 0x8, 1,
   [⟨"CHAIN_WORD", 63, 0, .rw, 0⟩]⟩

/-- Table 4.18 (ADDR) (R107). -/
def info_exmWgtAddr : RegInfo :=
  ⟨.block .exm, 0, 0xc0, 0x8, 1,
   [⟨"BCAST", 63, 63, .rw, 0⟩,
    ⟨"MEMBER", 18, 0, .rw, 0⟩]⟩

/-- Table 4.18 (DATA) (R107). -/
def info_exmWgtData : RegInfo :=
  ⟨.block .exm, 0, 0xc8, 0x8, 1,
   [⟨"WEIGHT", 7, 0, .rw, 0⟩]⟩

/-- Table 4.19 (R107). -/
def info_exmHbmq : RegInfo :=
  ⟨.block .exm, 0, 0xd0, 0x8, 1,
   [⟨"HIGH_WATER", 44, 32, .ro, 0⟩,
    ⟨"DEPTH", 12, 0, .ro, 0⟩]⟩

/-- Table 4.20 (R107). -/
def info_lpmOcc : RegInfo :=
  ⟨.block .lpm, 0, 0x80, 0x8, 1,
   [⟨"V6_USED", 52, 32, .ro, 0⟩,
    ⟨"V4_USED", 21, 0, .ro, 0⟩]⟩

/-- Table 4.21 (R107). -/
def info_tcmCfg : RegInfo :=
  ⟨.block .tcm, 0, 0x80, 0x8, 1,
   [⟨"COMPACT_LIMIT", 15, 8, .rwl, 0x40⟩,
    ⟨"CHK_EN", 7, 7, .rwl, 1⟩,
    ⟨"LOG2_SPACING", 3, 0, .rwl, 6⟩]⟩

/-- Table 4.22 (R107). -/
def info_tcmOcc : RegInfo :=
  ⟨.block .tcm, 0, 0x88, 0x8, 1,
   [⟨"TABLE_ID", 39, 32, .ro, 0⟩,
    ⟨"OWNED", 31, 31, .ro, 0⟩,
    ⟨"CHK_PTR", 26, 14, .ro, 0⟩,
    ⟨"USED", 13, 0, .ro, 0⟩]⟩

/-- Table 4.23 (CTRL) (R107). -/
def info_tcmSrchCtrl : RegInfo :=
  ⟨.block .tcm, 0, 0xa0, 0x8, 1,
   [⟨"GO", 63, 63, .w1s, 0⟩,
    ⟨"PARTITION", 59, 48, .rw, 0⟩,
    ⟨"STEP", 32, 32, .rw, 0⟩,
    ⟨"START", 31, 16, .rw, 0⟩]⟩

/-- Table 4.23 (RES) (R107). -/
def info_tcmSrchRes : RegInfo :=
  ⟨.block .tcm, 0, 0xa8, 0x8, 1,
   [⟨"DONE", 63, 63, .ro, 0⟩,
    ⟨"HIT", 62, 62, .ro, 0⟩,
    ⟨"MULTI_MATCH", 61, 61, .ro, 0⟩,
    ⟨"INDEX", 31, 16, .ro, 0⟩,
    ⟨"PRIORITY", 15, 0, .ro, 0⟩]⟩

/-- Table 4.23 (KEY[k]) (R107). -/
def info_tcmSrchKey : RegInfo :=
  ⟨.block .tcm, 0, 0xb0, 0x8, 10,
   [⟨"KEY", 63, 0, .rw, 0⟩]⟩

/-- Table 6.7 (R153). -/
def info_fdhCfg : RegInfo :=
  ⟨.block .fdh, 0, 0x80, 0x8, 1,
   [⟨"SAFE_EN", 2, 2, .rwl, 0⟩,
    ⟨"FILL_EN", 1, 1, .rwl, 1⟩,
    ⟨"LAUNCH_EN", 0, 0, .rwl, 1⟩]⟩

/-- Table 6.8 (R153). -/
def info_fdhOcc : RegInfo :=
  ⟨.block .fdh, 0, 0x88, 0x8, 1,
   [⟨"GUARD_HIGH", 42, 32, .ro, 0⟩,
    ⟨"VALID", 18, 0, .ro, 0⟩]⟩

/-- Table 6.9 (R153). -/
def info_fdhFlush : RegInfo :=
  ⟨.block .fdh, 0, 0x90, 0x8, 1,
   [⟨"GO", 63, 63, .w1s, 0⟩,
    ⟨"ALL", 62, 62, .rw, 0⟩,
    ⟨"PARTITION", 11, 0, .rw, 0⟩]⟩

/-- Table 6.10 (R153). -/
def info_fdhRobCfg : RegInfo :=
  ⟨.block .fdh, 0, 0x98, 0x8, 1,
   [⟨"PORT_CAP", 9, 0, .rwl, 0x200⟩]⟩

/-- Table 6.11 (ADDR) (R153). -/
def info_fdhPstatAddr : RegInfo :=
  ⟨.block .fdh, 0, 0xa0, 0x8, 1,
   [⟨"PARTITION", 27, 16, .rw, 0⟩,
    ⟨"SEL", 3, 0, .rw, 0⟩]⟩

/-- Table 6.11 (DATA) (R153). -/
def info_fdhPstatData : RegInfo :=
  ⟨.block .fdh, 0, 0xa8, 0x8, 1,
   [⟨"WRAP", 48, 48, .w1c, 0⟩,
    ⟨"COUNT", 47, 0, .ro, 0⟩]⟩

/-- Table 6.12 (ADDR) (R153). -/
def info_fdhDiagAddr : RegInfo :=
  ⟨.block .fdh, 0, 0xb0, 0x8, 1,
   [⟨"SET", 21, 7, .rw, 0⟩,
    ⟨"WAY", 6, 4, .rw, 0⟩,
    ⟨"WORD", 3, 0, .rw, 0⟩]⟩

/-- Table 6.12 (DATA) (R153). -/
def info_fdhDiagData : RegInfo :=
  ⟨.block .fdh, 0, 0xb8, 0x8, 1,
   [⟨"ENTRY_WORD", 63, 0, .ro, 0⟩]⟩

/-- Table 6.13 (R153). -/
def info_fdhSafe : RegInfo :=
  ⟨.block .fdh, 0, 0x100, 0x8, 16,
   [⟨"SAFE", 63, 0, .rw, 0⟩]⟩

/-- Table 15.6 (PWR) (R344). -/
def info_slcPwr : RegInfo :=
  ⟨.block .slc, 0, 0x80, 0x8, 1,
   [⟨"REQ", 63, 62, .rw, 0⟩,
    ⟨"DOZE_EN", 32, 32, .rw, 1⟩,
    ⟨"IDLE_CLK", 23, 0, .rw, 0x708⟩]⟩

/-- Table 15.6 (STAT) (R344). -/
def info_slcPwrStat : RegInfo :=
  ⟨.block .slc, 0, 0x88, 0x8, 1,
   [⟨"STATE", 63, 62, .ro, 0⟩,
    ⟨"INHIBIT", 61, 61, .ro, 0⟩,
    ⟨"WAKE_LATE", 60, 60, .w1c, 0⟩,
    ⟨"WAKE_CAUSE", 3, 0, .ro, 0⟩]⟩

/-- Table 15.6 (WAKES) (R344). -/
def info_slcWakes : RegInfo :=
  ⟨.block .slc, 0, 0x90, 0x8, 1,
   [⟨"WRAP", 48, 48, .w1c, 0⟩,
    ⟨"COUNT", 47, 0, .ro, 0⟩]⟩

/-- Table 15.6 (DOZE_CLK) (R344). -/
def info_slcDozeClk : RegInfo :=
  ⟨.block .slc, 0, 0x98, 0x8, 1,
   [⟨"WRAP", 48, 48, .w1c, 0⟩,
    ⟨"COUNT", 47, 0, .ro, 0⟩]⟩

/-- Table 18.10 (CFG) (R403). -/
def info_macCfg : RegInfo :=
  ⟨.block .mac, 0, 0x80, 0x8, 1,
   [⟨"WIDTH", 59, 56, .rw, 1⟩,
    ⟨"RATE100", 55, 55, .rw, 0⟩,
    ⟨"AN_EN", 54, 54, .rw, 1⟩,
    ⟨"LT_EN", 53, 53, .rw, 1⟩,
    ⟨"TS_MODE", 51, 50, .rw, 0⟩,
    ⟨"TC_EN", 49, 49, .rw, 0⟩,
    ⟨"MTU", 45, 32, .rw, 0x5f2⟩]⟩

/-- Table 18.10 (STAT) (R403). -/
def info_macStat : RegInfo :=
  ⟨.block .mac, 0, 0x88, 0x8, 1,
   [⟨"LINK_UP", 63, 63, .ro, 0⟩,
    ⟨"ALIGNED", 62, 62, .ro, 0⟩,
    ⟨"FEC_LOCK", 61, 61, .ro, 0⟩,
    ⟨"AN_DONE", 60, 60, .ro, 0⟩,
    ⟨"LINK_DOWNS", 15, 0, .ro, 0⟩]⟩

/-- Table 18.10 (TS_ADJ) (R403). -/
def info_macTsAdj : RegInfo :=
  ⟨.block .mac, 0, 0x90, 0x8, 1,
   [⟨"TX_PS", 47, 32, .rw, 0⟩,
    ⟨"RX_PS", 15, 0, .rw, 0⟩]⟩

/-- Table 18.10 (TXTS_A) (R403). -/
def info_macTxtsA : RegInfo :=
  ⟨.block .mac, 0, 0x98, 0x8, 1,
   [⟨"VALID", 63, 63, .rc, 0⟩,
    ⟨"OVF", 62, 62, .rc, 0⟩,
    ⟨"MSGTYPE", 59, 56, .rc, 0⟩,
    ⟨"SEQID", 55, 40, .rc, 0⟩,
    ⟨"DOMAIN", 39, 32, .rc, 0⟩,
    ⟨"SEC", 31, 0, .rc, 0⟩]⟩

/-- Table 18.10 (TXTS_B) (R403). -/
def info_macTxtsB : RegInfo :=
  ⟨.block .mac, 0, 0xa0, 0x8, 1,
   [⟨"NS", 31, 0, .ro, 0⟩]⟩

/-- Table 3.10 (R73). -/
def info_prsCfg : RegInfo :=
  ⟨.block .prs, 0, 0x80, 0x8, 1,
   [⟨"DEF_PROFILE", 21, 16, .rwl, 0⟩,
    ⟨"FAB_VERSION", 15, 12, .rwl, 1⟩,
    ⟨"HOP0_DROP", 5, 5, .rwl, 1⟩,
    ⟨"CSUM_DROP", 4, 4, .rwl, 0⟩,
    ⟨"MAL_ACT", 1, 0, .rwl, 0⟩]⟩

/-- Table 3.11 (R73). -/
def info_prsEtype : RegInfo :=
  ⟨.block .prs, 0, 0x88, 0x8, 1,
   [⟨"TPID_X", 47, 32, .rwl, 0x9100⟩,
    ⟨"FABRIC", 31, 16, .rwl, 0⟩]⟩

/-- Table 3.12 (R73). -/
def info_prsUdp : RegInfo :=
  ⟨.block .prs, 0, 0x90, 0x8, 1,
   [⟨"VXLAN", 47, 32, .rwl, 0x12b5⟩,
    ⟨"GENEVE", 31, 16, .rwl, 0x17c1⟩,
    ⟨"PTP_EVENT", 15, 0, .rwl, 0x13f⟩]⟩

/-- Table 3.13 (R73). -/
def info_prsSeed : RegInfo :=
  ⟨.block .prs, 0, 0x98, 0x8, 1,
   [⟨"LS_SEED", 31, 0, .rwl, 0⟩]⟩

/-- Table 3.14 (A) (R73). -/
def info_prsPselA : RegInfo :=
  ⟨.block .prs, 0, 0x100, 0x10, 32,
   [⟨"HDR_MASK", 63, 32, .rw, 0⟩,
    ⟨"HDR_VAL", 31, 0, .rw, 0⟩]⟩

/-- Table 3.14 (B) (R73). -/
def info_prsPselB : RegInfo :=
  ⟨.block .prs, 0, 0x108, 0x10, 32,
   [⟨"VALID", 63, 63, .rw, 0⟩,
    ⟨"PORT_MAP", 47, 32, .rw, 0⟩,
    ⟨"END_VAL", 23, 20, .rw, 0⟩,
    ⟨"END_MASK", 19, 16, .rw, 0⟩,
    ⟨"PROFILE", 5, 0, .rw, 0⟩]⟩

/-- Table 3.15 (ADDR) (R75). -/
def info_prsKbAddr : RegInfo :=
  ⟨.block .prs, 0, 0x300, 0x8, 1,
   [⟨"AUTO_INC", 63, 63, .rw, 0⟩,
    ⟨"PROFILE", 13, 8, .rw, 0⟩,
    ⟨"KEY", 7, 4, .rw, 0⟩,
    ⟨"INSTR", 3, 0, .rw, 0⟩]⟩

/-- Table 3.15 (DATA) (R75). -/
def info_prsKbData : RegInfo :=
  ⟨.block .prs, 0, 0x308, 0x8, 1,
   [⟨"INSTR_WORD", 63, 0, .rw, 0⟩]⟩

/-- Table 3.16 (R73). -/
def info_prsPort : RegInfo :=
  ⟨.block .prs, 0, 0x380, 0x8, 16,
   [⟨"FAB_EN", 7, 7, .rw, 0⟩,
    ⟨"FAB_PART", 6, 6, .rw, 0⟩,
    ⟨"DEF_TC", 2, 0, .rw, 0⟩]⟩

/-- Table 1.2 (R24). -/
def info_voqCfg : RegInfo :=
  ⟨.block .voq, 0, 0x80, 0x8, 1,
   [⟨"SRC_CAP", 43, 32, .rw, 0x100⟩,
    ⟨"WINDOW", 27, 16, .rw, 0x100⟩]⟩

/-- Table 7.15 (R176). -/
def info_edtCfg : RegInfo :=
  ⟨.block .edt, 0, 0x80, 0x8, 1,
   [⟨"FAB_DEV", 49, 32, .rwl, 0⟩,
    ⟨"SKIP_DROP", 0, 0, .rwl, 1⟩]⟩

/-- Table 7.16 (ADDR) (R176). -/
def info_edtProgAddr : RegInfo :=
  ⟨.block .edt, 0, 0x88, 0x8, 1,
   [⟨"PROG", 11, 0, .rw, 0⟩]⟩

/-- Table 7.16 (DATA) (R176). -/
def info_edtProgData : RegInfo :=
  ⟨.block .edt, 0, 0x90, 0x8, 1,
   [⟨"STATE", 63, 62, .ro, 0⟩,
    ⟨"NEEDS_LEN", 61, 61, .ro, 0⟩,
    ⟨"LEN", 45, 32, .ro, 0⟩,
    ⟨"START", 12, 0, .ro, 0⟩]⟩

/-- Table 7.17 (R176). -/
def info_edtRef : RegInfo :=
  ⟨.block .edt, 0, 0x98, 0x8, 1,
   [⟨"UNKNOWN", 32, 32, .ro, 0⟩,
    ⟨"COUNT", 31, 0, .ro, 0⟩]⟩

/-- Table 7.18 (R176). -/
def info_edtMcLog : RegInfo :=
  ⟨.block .edt, 0, 0xa0, 0x8, 1,
   [⟨"VALID", 63, 63, .w1c, 0⟩,
    ⟨"FENCED", 62, 62, .ro, 0⟩,
    ⟨"MC_COUNT", 47, 32, .ro, 0⟩,
    ⟨"QUARTERS", 31, 28, .ro, 0⟩,
    ⟨"ADDR", 12, 0, .ro, 0⟩]⟩

/-- Table 7.19 (ADDR) (R176). -/
def info_edtStoreAddr : RegInfo :=
  ⟨.block .edt, 0, 0xb0, 0x8, 1,
   [⟨"PERR", 63, 63, .ro, 0⟩,
    ⟨"WORD", 14, 2, .rw, 0⟩,
    ⟨"QUARTER", 1, 0, .rw, 0⟩]⟩

/-- Table 7.19 (DATA) (R176). -/
def info_edtStoreData : RegInfo :=
  ⟨.block .edt, 0, 0xb8, 0x8, 1,
   [⟨"QUARTER_DATA", 63, 0, .ro, 0⟩]⟩

/-- Table 9.3 (ADDR) (R229). -/
def info_schQAddr : RegInfo :=
  ⟨.block .sch, 0, 0x80, 0x8, 1,
   [⟨"QUEUE", 13, 0, .rw, 0⟩]⟩

/-- Table 9.3 (DATA) (R229). -/
def info_schQData : RegInfo :=
  ⟨.block .sch, 0, 0x88, 0x8, 1,
   [⟨"VALID", 63, 63, .rw, 0⟩,
    ⟨"PORT", 59, 56, .rw, 0⟩,
    ⟨"TC", 55, 53, .rw, 0⟩,
    ⟨"GROUP", 52, 45, .rw, 0⟩,
    ⟨"WEIGHT", 7, 0, .rw, 1⟩]⟩

/-- Table 9.4 (PORT) (R229). -/
def info_schPort : RegInfo :=
  ⟨.block .sch, 0, 0x100, 0x8, 16,
   [⟨"GUARD_ADD", 47, 40, .rw, 0⟩,
    ⟨"GATE_WAKE", 32, 32, .rw, 0⟩,
    ⟨"BAND", 23, 0, .rw, 0⟩]⟩

/-- Table 9.4 (CWGT) (R229). -/
def info_schCwgt : RegInfo :=
  ⟨.block .sch, 0, 0x180, 0x8, 16,
   [⟨"WEIGHT", 63, 0, .rw, 0x101010101010101⟩]⟩

/-- Table 9.5 (ADDR) (R229). -/
def info_schGAddr : RegInfo :=
  ⟨.block .sch, 1, 0x80, 0x8, 1,
   [⟨"NODE", 14, 0, .rw, 0⟩]⟩

/-- Table 9.5 (DATA) (R229). -/
def info_schGData : RegInfo :=
  ⟨.block .sch, 1, 0x88, 0x8, 1,
   [⟨"SHAPE_RATE", 55, 32, .rw, 0⟩,
    ⟨"SHAPE_BURST", 23, 8, .rw, 0⟩,
    ⟨"WEIGHT", 7, 0, .rw, 1⟩]⟩

/-- Table 9.6 (ADDR) (R229). -/
def info_schGateAddr : RegInfo :=
  ⟨.block .sch, 2, 0x80, 0x8, 1,
   [⟨"LIST", 16, 16, .rw, 0⟩,
    ⟨"ENTRY", 15, 8, .rw, 0⟩,
    ⟨"PORT", 3, 0, .rw, 0⟩]⟩

/-- Table 9.6 (ENTRY) (R229). -/
def info_schGateEntry : RegInfo :=
  ⟨.block .sch, 2, 0x88, 0x8, 1,
   [⟨"STATES", 39, 32, .rw, 0xff⟩,
    ⟨"INTERVAL", 29, 0, .rw, 0⟩]⟩

/-- Table 9.6 (CYCLE) (R229). -/
def info_schGateCycle : RegInfo :=
  ⟨.block .sch, 2, 0x90, 0x8, 1,
   [⟨"LEN", 40, 32, .rw, 0⟩,
    ⟨"CYCLE_NS", 29, 0, .rw, 0⟩]⟩

/-- Table 9.6 (BASE_S) (R229). -/
def info_schGateBaseS : RegInfo :=
  ⟨.block .sch, 2, 0x98, 0x8, 1,
   [⟨"SEC", 47, 0, .rw, 0⟩]⟩

/-- Table 9.6 (BASE_NS) (R229). -/
def info_schGateBaseNs : RegInfo :=
  ⟨.block .sch, 2, 0xa0, 0x8, 1,
   [⟨"NS", 29, 0, .rw, 0⟩]⟩

/-- Table 9.6 (CTRL) (R229). -/
def info_schGateCtrl : RegInfo :=
  ⟨.block .sch, 2, 0xa8, 0x8, 1,
   [⟨"GO", 63, 63, .w1s, 0⟩,
    ⟨"PEND", 62, 62, .ro, 0⟩,
    ⟨"OPER", 61, 61, .ro, 0⟩,
    ⟨"ENABLE", 0, 0, .rw, 0⟩]⟩

/-- Table 9.7 (ADDR) (R229). -/
def info_schPfcThAddr : RegInfo :=
  ⟨.block .sch, 3, 0x80, 0x8, 1,
   [⟨"INDEX", 6, 0, .rw, 0⟩]⟩

/-- Table 9.7 (DATA) (R229). -/
def info_schPfcThData : RegInfo :=
  ⟨.block .sch, 3, 0x88, 0x8, 1,
   [⟨"XON", 50, 32, .rw, 0x40000⟩,
    ⟨"XOFF", 18, 0, .rw, 0x40000⟩]⟩

/-- Table 9.7 (OCC) (R229). -/
def info_schPfcOcc : RegInfo :=
  ⟨.block .sch, 3, 0x90, 0x8, 1,
   [⟨"XOFF_STATE", 63, 63, .ro, 0⟩,
    ⟨"CELLS", 18, 0, .ro, 0⟩]⟩

/-- Table 9.8 (R229). -/
def info_schPfc : RegInfo :=
  ⟨.block .sch, 3, 0x100, 0x8, 16,
   [⟨"WD_ACT", 60, 60, .rw, 0⟩,
    ⟨"WD_MS", 59, 48, .rw, 0⟩,
    ⟨"QUANTA", 47, 32, .rw, 0xffff⟩,
    ⟨"PAUSED", 31, 24, .ro, 0⟩,
    ⟨"TX_EN", 23, 16, .rw, 0⟩,
    ⟨"RX_EN", 15, 8, .rw, 0⟩,
    ⟨"MODE", 1, 0, .rw, 0⟩]⟩

/-- Table 9.9 (ADDR) (R230). -/
def info_mtrAddr : RegInfo :=
  ⟨.block .mtr, 0, 0x80, 0x8, 1,
   [⟨"CNT_SEL", 17, 16, .rw, 0⟩,
    ⟨"ENTRY", 13, 0, .rw, 0⟩]⟩

/-- Table 9.9 (RATE) (R230). -/
def info_mtrRate : RegInfo :=
  ⟨.block .mtr, 0, 0x88, 0x8, 1,
   [⟨"PIR", 55, 32, .rw, 0⟩,
    ⟨"CIR", 23, 0, .rw, 0⟩]⟩

/-- Table 9.9 (BURST) (R230). -/
def info_mtrBurst : RegInfo :=
  ⟨.block .mtr, 0, 0x90, 0x8, 1,
   [⟨"PBS", 55, 32, .rw, 0⟩,
    ⟨"CBS", 23, 0, .rw, 0⟩]⟩

/-- Table 9.9 (PROF) (R230). -/
def info_mtrProf : RegInfo :=
  ⟨.block .mtr, 0, 0x98, 0x8, 1,
   [⟨"VALID", 63, 63, .rw, 0⟩,
    ⟨"MODE", 62, 62, .rw, 0⟩,
    ⟨"AWARE", 61, 61, .rw, 0⟩,
    ⟨"COUPLED", 60, 60, .rw, 0⟩,
    ⟨"RED_DROP", 59, 59, .rw, 0⟩,
    ⟨"OWNER", 55, 44, .rw, 0⟩]⟩

/-- Table 9.9 (CNT) (R230). -/
def info_mtrCnt : RegInfo :=
  ⟨.block .mtr, 0, 0xa0, 0x8, 1,
   [⟨"WRAP", 48, 48, .w1c, 0⟩,
    ⟨"COUNT", 47, 0, .ro, 0⟩]⟩

/-- Table 18.12 (GEN) (R400). -/
def info_sdsPrbsGen : RegInfo :=
  ⟨.block .sds, 0, 0x100, 0x40, 1,
   [⟨"EN", 63, 63, .rw, 0⟩,
    ⟨"INV", 62, 62, .rw, 0⟩,
    ⟨"PATTERN", 55, 52, .rw, 0⟩]⟩

/-- Table 18.12 (CHK) (R400). -/
def info_sdsPrbsChk : RegInfo :=
  ⟨.block .sds, 0, 0x108, 0x40, 1,
   [⟨"EN", 63, 63, .rw, 0⟩,
    ⟨"INV", 62, 62, .rw, 0⟩,
    ⟨"PATTERN", 55, 52, .rw, 0⟩]⟩

/-- Table 18.12 (USER) (R400). -/
def info_sdsPrbsUser : RegInfo :=
  ⟨.block .sds, 0, 0x110, 0x40, 1,
   [⟨"PATTERN", 63, 0, .rw, 0⟩]⟩

/-- Table 18.12 (STAT) (R400). -/
def info_sdsPrbsStat : RegInfo :=
  ⟨.block .sds, 0, 0x118, 0x40, 1,
   [⟨"LOCK", 63, 63, .ro, 0⟩,
    ⟨"LOST", 62, 62, .w1c, 0⟩,
    ⟨"LOSS", 15, 0, .ro, 0⟩]⟩

/-- Table 18.12 (ERR) (R400). -/
def info_sdsPrbsErr : RegInfo :=
  ⟨.block .sds, 0, 0x120, 0x40, 1,
   [⟨"WRAP", 48, 48, .rw, 0⟩,
    ⟨"COUNT", 47, 0, .rw, 0⟩]⟩

/-- Table 18.12 (BITS) (R400). -/
def info_sdsPrbsBits : RegInfo :=
  ⟨.block .sds, 0, 0x128, 0x40, 1,
   [⟨"WRAP", 48, 48, .rw, 0⟩,
    ⟨"COUNT", 47, 0, .rw, 0⟩]⟩

/-- Table 18.12 (CTL) (R400). -/
def info_sdsPrbsCtl : RegInfo :=
  ⟨.block .sds, 0, 0x130, 0x40, 1,
   [⟨"SEL", 23, 16, .rw, 0⟩,
    ⟨"LOOP", 1, 0, .rw, 0⟩]⟩

/-- Table 18.12 (GEN) (R400). -/
def info_cslPrbsGen : RegInfo :=
  ⟨.block .csl, 1, 0x100, 0x40, 8,
   [⟨"EN", 63, 63, .rw, 0⟩,
    ⟨"INV", 62, 62, .rw, 0⟩,
    ⟨"PATTERN", 55, 52, .rw, 0⟩]⟩

/-- Table 18.12 (CHK) (R400). -/
def info_cslPrbsChk : RegInfo :=
  ⟨.block .csl, 1, 0x108, 0x40, 8,
   [⟨"EN", 63, 63, .rw, 0⟩,
    ⟨"INV", 62, 62, .rw, 0⟩,
    ⟨"PATTERN", 55, 52, .rw, 0⟩]⟩

/-- Table 18.12 (USER) (R400). -/
def info_cslPrbsUser : RegInfo :=
  ⟨.block .csl, 1, 0x110, 0x40, 8,
   [⟨"PATTERN", 63, 0, .rw, 0⟩]⟩

/-- Table 18.12 (STAT) (R400). -/
def info_cslPrbsStat : RegInfo :=
  ⟨.block .csl, 1, 0x118, 0x40, 8,
   [⟨"LOCK", 63, 63, .ro, 0⟩,
    ⟨"LOST", 62, 62, .w1c, 0⟩,
    ⟨"LOSS", 15, 0, .ro, 0⟩]⟩

/-- Table 18.12 (ERR) (R400). -/
def info_cslPrbsErr : RegInfo :=
  ⟨.block .csl, 1, 0x120, 0x40, 8,
   [⟨"WRAP", 48, 48, .rw, 0⟩,
    ⟨"COUNT", 47, 0, .rw, 0⟩]⟩

/-- Table 18.12 (BITS) (R400). -/
def info_cslPrbsBits : RegInfo :=
  ⟨.block .csl, 1, 0x128, 0x40, 8,
   [⟨"WRAP", 48, 48, .rw, 0⟩,
    ⟨"COUNT", 47, 0, .rw, 0⟩]⟩

/-- Table 18.12 (CTL) (R400). -/
def info_cslPrbsCtl : RegInfo :=
  ⟨.block .csl, 1, 0x130, 0x40, 8,
   [⟨"SEL", 23, 16, .rw, 0⟩,
    ⟨"LOOP", 1, 0, .rw, 0⟩]⟩

/-- Table 18.12 (GEN) (R400). -/
def info_pciPrbsGen : RegInfo :=
  ⟨.block .pci, 0, 0x100, 0x40, 4,
   [⟨"EN", 63, 63, .rw, 0⟩,
    ⟨"INV", 62, 62, .rw, 0⟩,
    ⟨"PATTERN", 55, 52, .rw, 0⟩]⟩

/-- Table 18.12 (CHK) (R400). -/
def info_pciPrbsChk : RegInfo :=
  ⟨.block .pci, 0, 0x108, 0x40, 4,
   [⟨"EN", 63, 63, .rw, 0⟩,
    ⟨"INV", 62, 62, .rw, 0⟩,
    ⟨"PATTERN", 55, 52, .rw, 0⟩]⟩

/-- Table 18.12 (USER) (R400). -/
def info_pciPrbsUser : RegInfo :=
  ⟨.block .pci, 0, 0x110, 0x40, 4,
   [⟨"PATTERN", 63, 0, .rw, 0⟩]⟩

/-- Table 18.12 (STAT) (R400). -/
def info_pciPrbsStat : RegInfo :=
  ⟨.block .pci, 0, 0x118, 0x40, 4,
   [⟨"LOCK", 63, 63, .ro, 0⟩,
    ⟨"LOST", 62, 62, .w1c, 0⟩,
    ⟨"LOSS", 15, 0, .ro, 0⟩]⟩

/-- Table 18.12 (ERR) (R400). -/
def info_pciPrbsErr : RegInfo :=
  ⟨.block .pci, 0, 0x120, 0x40, 4,
   [⟨"WRAP", 48, 48, .rw, 0⟩,
    ⟨"COUNT", 47, 0, .rw, 0⟩]⟩

/-- Table 18.12 (BITS) (R400). -/
def info_pciPrbsBits : RegInfo :=
  ⟨.block .pci, 0, 0x128, 0x40, 4,
   [⟨"WRAP", 48, 48, .rw, 0⟩,
    ⟨"COUNT", 47, 0, .rw, 0⟩]⟩

/-- Table 18.12 (CTL) (R400). -/
def info_pciPrbsCtl : RegInfo :=
  ⟨.block .pci, 0, 0x130, 0x40, 4,
   [⟨"SEL", 23, 16, .rw, 0⟩,
    ⟨"LOOP", 1, 0, .rw, 0⟩]⟩

/-- Table 18.12 (GEN) (R400). -/
def info_d2dPrbsGen : RegInfo :=
  ⟨.block .d2d, 0, 0x100, 0x40, 1,
   [⟨"EN", 63, 63, .rw, 0⟩,
    ⟨"INV", 62, 62, .rw, 0⟩,
    ⟨"PATTERN", 55, 52, .rw, 0⟩]⟩

/-- Table 18.12 (CHK) (R400). -/
def info_d2dPrbsChk : RegInfo :=
  ⟨.block .d2d, 0, 0x108, 0x40, 1,
   [⟨"EN", 63, 63, .rw, 0⟩,
    ⟨"INV", 62, 62, .rw, 0⟩,
    ⟨"PATTERN", 55, 52, .rw, 0⟩]⟩

/-- Table 18.12 (USER) (R400). -/
def info_d2dPrbsUser : RegInfo :=
  ⟨.block .d2d, 0, 0x110, 0x40, 1,
   [⟨"PATTERN", 63, 0, .rw, 0⟩]⟩

/-- Table 18.12 (STAT) (R400). -/
def info_d2dPrbsStat : RegInfo :=
  ⟨.block .d2d, 0, 0x118, 0x40, 1,
   [⟨"LOCK", 63, 63, .ro, 0⟩,
    ⟨"LOST", 62, 62, .w1c, 0⟩,
    ⟨"LOSS", 15, 0, .ro, 0⟩]⟩

/-- Table 18.12 (ERR) (R400). -/
def info_d2dPrbsErr : RegInfo :=
  ⟨.block .d2d, 0, 0x120, 0x40, 1,
   [⟨"WRAP", 48, 48, .rw, 0⟩,
    ⟨"COUNT", 47, 0, .rw, 0⟩]⟩

/-- Table 18.12 (BITS) (R400). -/
def info_d2dPrbsBits : RegInfo :=
  ⟨.block .d2d, 0, 0x128, 0x40, 1,
   [⟨"WRAP", 48, 48, .rw, 0⟩,
    ⟨"COUNT", 47, 0, .rw, 0⟩]⟩

/-- Table 18.12 (CTL) (R400). -/
def info_d2dPrbsCtl : RegInfo :=
  ⟨.block .d2d, 0, 0x130, 0x40, 1,
   [⟨"SEL", 23, 16, .rw, 0⟩,
    ⟨"LOOP", 1, 0, .rw, 0⟩]⟩

/-- Every register's place and fields. -/
def regInfo : Reg → RegInfo
  | .pageId => info_pageId
  | .pageCaps => info_pageCaps
  | .ctrl => info_ctrl
  | .state => info_state
  | .errStatus => info_errStatus
  | .errMask => info_errMask
  | .errFlipD => info_errFlipD
  | .errFlipC => info_errFlipC
  | .violationCount => info_violationCount
  | .protSel => info_protSel
  | .protCnt => info_protCnt
  | .protLast => info_protLast
  | .scrubLap => info_scrubLap
  | .scrubLapLimit => info_scrubLapLimit
  | .protInj => info_protInj
  | .scrubCtrl => info_scrubCtrl
  | .devIdent => info_devIdent
  | .devShape => info_devShape
  | .pwrCtrl => info_pwrCtrl
  | .pwrStat => info_pwrStat
  | .pwrSlcStateLo => info_pwrSlcStateLo
  | .pwrSlcStateHi => info_pwrSlcStateHi
  | .timNowNs => info_timNowNs
  | .timNowS => info_timNowS
  | .timStep => info_timStep
  | .timIncr => info_timIncr
  | .timPps => info_timPps
  | .timPpsCapNs => info_timPpsCapNs
  | .timPpsCapS => info_timPpsCapS
  | .fltStatus => info_fltStatus
  | .fltPending => info_fltPending
  | .fltLevel => info_fltLevel
  | .fltAck => info_fltAck
  | .fltWin => info_fltWin
  | .fltCfg => info_fltCfg
  | .fltCrustCtrl => info_fltCrustCtrl
  | .fltStop => info_fltStop
  | .fltInj => info_fltInj
  | .fltRecA => info_fltRecA
  | .fltRecB => info_fltRecB
  | .fltRecC => info_fltRecC
  | .fltRecD => info_fltRecD
  | .fltFenceSlc => info_fltFenceSlc
  | .fltFenceEdt => info_fltFenceEdt
  | .fltFenceTcm => info_fltFenceTcm
  | .fltFenceD2d => info_fltFenceD2d
  | .fltFenceMisc => info_fltFenceMisc
  | .fltUnfence => info_fltUnfence
  | .fltCrustCfg => info_fltCrustCfg
  | .fltCrustLag => info_fltCrustLag
  | .fltCrustAddr => info_fltCrustAddr
  | .fltCrustData => info_fltCrustData
  | .bootStatus => info_bootStatus
  | .bootStrap => info_bootStrap
  | .bootReset => info_bootReset
  | .bootRecAddr => info_bootRecAddr
  | .bootRecCtrl => info_bootRecCtrl
  | .pciStat => info_pciStat
  | .pciEvt => info_pciEvt
  | .pciVecAddr => info_pciVecAddr
  | .pciVecData => info_pciVecData
  | .limCfg => info_limCfg
  | .limStat => info_limStat
  | .limLoopCtrl => info_limLoopCtrl
  | .limLoopTh => info_limLoopTh
  | .limLoopBnd => info_limLoopBnd
  | .limLogPtr => info_limLogPtr
  | .limLogAddr => info_limLogAddr
  | .limLogData => info_limLogData
  | .limVbnd => info_limVbnd
  | .cmtCfg => info_cmtCfg
  | .verCurrent => info_verCurrent
  | .verLive => info_verLive
  | .commitStall => info_commitStall
  | .commitStallTime => info_commitStallTime
  | .cmtCount => info_cmtCount
  | .cmtDrainMax => info_cmtDrainMax
  | .cmtBatch => info_cmtBatch
  | .cslCfg => info_cslCfg
  | .cslState => info_cslState
  | .cslHb => info_cslHb
  | .cslCmd => info_cslCmd
  | .cslXfer => info_cslXfer
  | .cslXferStat => info_cslXferStat
  | .cslPreplAddr => info_cslPreplAddr
  | .cslPreplData => info_cslPreplData
  | .cslRetry => info_cslRetry
  | .cslReplDrop => info_cslReplDrop
  | .perfSnap => info_perfSnap
  | .perfSnapTime => info_perfSnapTime
  | .perfSel => info_perfSel
  | .perfVal => info_perfVal
  | .perfDumpAddr => info_perfDumpAddr
  | .perfDumpCtrl => info_perfDumpCtrl
  | .perfThrSel => info_perfThrSel
  | .perfThrCtr => info_perfThrCtr
  | .perfThrCfg => info_perfThrCfg
  | .perfSmpStat => info_perfSmpStat
  | .perfUserEn => info_perfUserEn
  | .partCmd => info_partCmd
  | .partCmdRes => info_partCmdRes
  | .partSel => info_partSel
  | .partState => info_partState
  | .partPasid => info_partPasid
  | .partReset => info_partReset
  | .partBudget => info_partBudget
  | .partRings => info_partRings
  | .partHost => info_partHost
  | .partRangeAct => info_partRangeAct
  | .partRangeGrp => info_partRangeGrp
  | .partRangeMbr => info_partRangeMbr
  | .partRangeCtr => info_partRangeCtr
  | .partRangePrg => info_partRangePrg
  | .partRangeMcg => info_partRangeMcg
  | .partPool => info_partPool
  | .partImgAddr => info_partImgAddr
  | .partImgCtrl => info_partImgCtrl
  | .partPortAddr => info_partPortAddr
  | .partPortData => info_partPortData
  | .partQownAddr => info_partQownAddr
  | .partQownData => info_partQownData
  | .cluTherm => info_cluTherm
  | .cluAvs => info_cluAvs
  | .hbmRegion => info_hbmRegion
  | .hbmStatus => info_hbmStatus
  | .hbmTemp => info_hbmTemp
  | .hbmRetrain => info_hbmRetrain
  | .hbmRaw => info_hbmRaw
  | .hbmScrubLap => info_hbmScrubLap
  | .hbmScrubLapLimit => info_hbmScrubLapLimit
  | .hbmTrainCtrl => info_hbmTrainCtrl
  | .hbmTrainPat => info_hbmTrainPat
  | .hbmTrainRes => info_hbmTrainRes
  | .bpmCfg => info_bpmCfg
  | .bpmOcc => info_bpmOcc
  | .bpmArb => info_bpmArb
  | .bpmCopyCfg => info_bpmCopyCfg
  | .bpmSpillCfg => info_bpmSpillCfg
  | .bpmSpillOcc => info_bpmSpillOcc
  | .bpmAudit => info_bpmAudit
  | .bpmReplFence => info_bpmReplFence
  | .bpmLimAddr => info_bpmLimAddr
  | .bpmLimData => info_bpmLimData
  | .bpmLimOcc => info_bpmLimOcc
  | .bpmPort => info_bpmPort
  | .bpmQAddr => info_bpmQAddr
  | .bpmQData => info_bpmQData
  | .bpmQSpill => info_bpmQSpill
  | .bpmMcgAddr => info_bpmMcgAddr
  | .bpmMcgData => info_bpmMcgData
  | .bpmMclAddr => info_bpmMclAddr
  | .bpmMclData => info_bpmMclData
  | .bpmMirAddr => info_bpmMirAddr
  | .bpmMirData => info_bpmMirData
  | .bpmSmpAddr => info_bpmSmpAddr
  | .bpmSmpData => info_bpmSmpData
  | .exmCfg => info_exmCfg
  | .exmFlowCfg => info_exmFlowCfg
  | .exmOcc => info_exmOcc
  | .exmDirAddr => info_exmDirAddr
  | .exmDirData => info_exmDirData
  | .exmChainAddr => info_exmChainAddr
  | .exmChainData => info_exmChainData
  | .exmWgtAddr => info_exmWgtAddr
  | .exmWgtData => info_exmWgtData
  | .exmHbmq => info_exmHbmq
  | .lpmOcc => info_lpmOcc
  | .tcmCfg => info_tcmCfg
  | .tcmOcc => info_tcmOcc
  | .tcmSrchCtrl => info_tcmSrchCtrl
  | .tcmSrchRes => info_tcmSrchRes
  | .tcmSrchKey => info_tcmSrchKey
  | .fdhCfg => info_fdhCfg
  | .fdhOcc => info_fdhOcc
  | .fdhFlush => info_fdhFlush
  | .fdhRobCfg => info_fdhRobCfg
  | .fdhPstatAddr => info_fdhPstatAddr
  | .fdhPstatData => info_fdhPstatData
  | .fdhDiagAddr => info_fdhDiagAddr
  | .fdhDiagData => info_fdhDiagData
  | .fdhSafe => info_fdhSafe
  | .slcPwr => info_slcPwr
  | .slcPwrStat => info_slcPwrStat
  | .slcWakes => info_slcWakes
  | .slcDozeClk => info_slcDozeClk
  | .macCfg => info_macCfg
  | .macStat => info_macStat
  | .macTsAdj => info_macTsAdj
  | .macTxtsA => info_macTxtsA
  | .macTxtsB => info_macTxtsB
  | .prsCfg => info_prsCfg
  | .prsEtype => info_prsEtype
  | .prsUdp => info_prsUdp
  | .prsSeed => info_prsSeed
  | .prsPselA => info_prsPselA
  | .prsPselB => info_prsPselB
  | .prsKbAddr => info_prsKbAddr
  | .prsKbData => info_prsKbData
  | .prsPort => info_prsPort
  | .voqCfg => info_voqCfg
  | .edtCfg => info_edtCfg
  | .edtProgAddr => info_edtProgAddr
  | .edtProgData => info_edtProgData
  | .edtRef => info_edtRef
  | .edtMcLog => info_edtMcLog
  | .edtStoreAddr => info_edtStoreAddr
  | .edtStoreData => info_edtStoreData
  | .schQAddr => info_schQAddr
  | .schQData => info_schQData
  | .schPort => info_schPort
  | .schCwgt => info_schCwgt
  | .schGAddr => info_schGAddr
  | .schGData => info_schGData
  | .schGateAddr => info_schGateAddr
  | .schGateEntry => info_schGateEntry
  | .schGateCycle => info_schGateCycle
  | .schGateBaseS => info_schGateBaseS
  | .schGateBaseNs => info_schGateBaseNs
  | .schGateCtrl => info_schGateCtrl
  | .schPfcThAddr => info_schPfcThAddr
  | .schPfcThData => info_schPfcThData
  | .schPfcOcc => info_schPfcOcc
  | .schPfc => info_schPfc
  | .mtrAddr => info_mtrAddr
  | .mtrRate => info_mtrRate
  | .mtrBurst => info_mtrBurst
  | .mtrProf => info_mtrProf
  | .mtrCnt => info_mtrCnt
  | .sdsPrbsGen => info_sdsPrbsGen
  | .sdsPrbsChk => info_sdsPrbsChk
  | .sdsPrbsUser => info_sdsPrbsUser
  | .sdsPrbsStat => info_sdsPrbsStat
  | .sdsPrbsErr => info_sdsPrbsErr
  | .sdsPrbsBits => info_sdsPrbsBits
  | .sdsPrbsCtl => info_sdsPrbsCtl
  | .cslPrbsGen => info_cslPrbsGen
  | .cslPrbsChk => info_cslPrbsChk
  | .cslPrbsUser => info_cslPrbsUser
  | .cslPrbsStat => info_cslPrbsStat
  | .cslPrbsErr => info_cslPrbsErr
  | .cslPrbsBits => info_cslPrbsBits
  | .cslPrbsCtl => info_cslPrbsCtl
  | .pciPrbsGen => info_pciPrbsGen
  | .pciPrbsChk => info_pciPrbsChk
  | .pciPrbsUser => info_pciPrbsUser
  | .pciPrbsStat => info_pciPrbsStat
  | .pciPrbsErr => info_pciPrbsErr
  | .pciPrbsBits => info_pciPrbsBits
  | .pciPrbsCtl => info_pciPrbsCtl
  | .d2dPrbsGen => info_d2dPrbsGen
  | .d2dPrbsChk => info_d2dPrbsChk
  | .d2dPrbsUser => info_d2dPrbsUser
  | .d2dPrbsStat => info_d2dPrbsStat
  | .d2dPrbsErr => info_d2dPrbsErr
  | .d2dPrbsBits => info_d2dPrbsBits
  | .d2dPrbsCtl => info_d2dPrbsCtl

/-- The header registers (R37) and VIOLATION_COUNT. -/
def headerRegs : List Reg :=
  [.pageId, .pageCaps, .ctrl, .state, .errStatus, .errMask, .errFlipD, .errFlipC, .violationCount]

/-- The protection registers (R265). -/
def protRegs : List Reg :=
  [.protSel, .protCnt, .protLast, .scrubLap, .scrubLapLimit, .protInj, .scrubCtrl]

/-- The registers of each kind of block. -/
def blockRegs : BlkKind → List Reg
  | .dev => [.devIdent, .devShape]
  | .pwr => [.pwrCtrl, .pwrStat, .pwrSlcStateLo, .pwrSlcStateHi]
  | .tim => [.timNowNs, .timNowS, .timStep, .timIncr, .timPps, .timPpsCapNs, .timPpsCapS]
  | .flt => [.fltStatus, .fltPending, .fltLevel, .fltAck, .fltWin, .fltCfg, .fltCrustCtrl, 
      .fltStop, .fltInj, .fltRecA, .fltRecB, .fltRecC, .fltRecD, .fltFenceSlc, .fltFenceEdt, 
      .fltFenceTcm, .fltFenceD2d, .fltFenceMisc, .fltUnfence, .fltCrustCfg, .fltCrustLag, .fltCrustAddr, 
      .fltCrustData]
  | .boot => [.bootStatus, .bootStrap, .bootReset, .bootRecAddr, .bootRecCtrl]
  | .pci => [.pciStat, .pciEvt, .pciVecAddr, .pciVecData, .pciPrbsGen, .pciPrbsChk, .pciPrbsUser, 
      .pciPrbsStat, .pciPrbsErr, .pciPrbsBits, .pciPrbsCtl]
  | .lim => [.limCfg, .limStat, .limLoopCtrl, .limLoopTh, .limLoopBnd, .limLogPtr, .limLogAddr, 
      .limLogData, .limVbnd]
  | .cmt => [.cmtCfg, .verCurrent, .verLive, .commitStall, .commitStallTime, .cmtCount, .cmtDrainMax, 
      .cmtBatch]
  | .csl => [.cslCfg, .cslState, .cslHb, .cslCmd, .cslXfer, .cslXferStat, .cslPreplAddr, .cslPreplData, 
      .cslRetry, .cslReplDrop, .cslPrbsGen, .cslPrbsChk, .cslPrbsUser, .cslPrbsStat, .cslPrbsErr, 
      .cslPrbsBits, .cslPrbsCtl]
  | .perf => [.perfSnap, .perfSnapTime, .perfSel, .perfVal, .perfDumpAddr, .perfDumpCtrl, .perfThrSel, 
      .perfThrCtr, .perfThrCfg, .perfSmpStat, .perfUserEn]
  | .part => [.partCmd, .partCmdRes, .partSel, .partState, .partPasid, .partReset, .partBudget, 
      .partRings, .partHost, .partRangeAct, .partRangeGrp, .partRangeMbr, .partRangeCtr, .partRangePrg, 
      .partRangeMcg, .partPool, .partImgAddr, .partImgCtrl, .partPortAddr, .partPortData, .partQownAddr, 
      .partQownData]
  | .clu => [.cluTherm, .cluAvs]
  | .hbm => [.hbmRegion, .hbmStatus, .hbmTemp, .hbmRetrain, .hbmRaw, .hbmScrubLap, .hbmScrubLapLimit, 
      .hbmTrainCtrl, .hbmTrainPat, .hbmTrainRes]
  | .d2d => [.d2dPrbsGen, .d2dPrbsChk, .d2dPrbsUser, .d2dPrbsStat, .d2dPrbsErr, .d2dPrbsBits, 
      .d2dPrbsCtl]
  | .bpm => [.bpmCfg, .bpmOcc, .bpmArb, .bpmCopyCfg, .bpmSpillCfg, .bpmSpillOcc, .bpmAudit, 
      .bpmReplFence, .bpmLimAddr, .bpmLimData, .bpmLimOcc, .bpmPort, .bpmQAddr, .bpmQData, 
      .bpmQSpill, .bpmMcgAddr, .bpmMcgData, .bpmMclAddr, .bpmMclData, .bpmMirAddr, .bpmMirData, 
      .bpmSmpAddr, .bpmSmpData]
  | .exm => [.exmCfg, .exmFlowCfg, .exmOcc, .exmDirAddr, .exmDirData, .exmChainAddr, .exmChainData, 
      .exmWgtAddr, .exmWgtData, .exmHbmq]
  | .lpm => [.lpmOcc]
  | .tcm => [.tcmCfg, .tcmOcc, .tcmSrchCtrl, .tcmSrchRes, .tcmSrchKey]
  | .fdh => [.fdhCfg, .fdhOcc, .fdhFlush, .fdhRobCfg, .fdhPstatAddr, .fdhPstatData, .fdhDiagAddr, 
      .fdhDiagData, .fdhSafe]
  | .slc => [.slcPwr, .slcPwrStat, .slcWakes, .slcDozeClk]
  | .sds => [.sdsPrbsGen, .sdsPrbsChk, .sdsPrbsUser, .sdsPrbsStat, .sdsPrbsErr, .sdsPrbsBits, 
      .sdsPrbsCtl]
  | .mac => [.macCfg, .macStat, .macTsAdj, .macTxtsA, .macTxtsB]
  | .prs => [.prsCfg, .prsEtype, .prsUdp, .prsSeed, .prsPselA, .prsPselB, .prsKbAddr, .prsKbData, 
      .prsPort]
  | .voq => [.voqCfg]
  | .edt => [.edtCfg, .edtProgAddr, .edtProgData, .edtRef, .edtMcLog, .edtStoreAddr, .edtStoreData]
  | .sch => [.schQAddr, .schQData, .schPort, .schCwgt, .schGAddr, .schGData, .schGateAddr, 
      .schGateEntry, .schGateCycle, .schGateBaseS, .schGateBaseNs, .schGateCtrl, .schPfcThAddr, 
      .schPfcThData, .schPfcOcc, .schPfc]
  | .mtr => [.mtrAddr, .mtrRate, .mtrBurst, .mtrProf, .mtrCnt]

end Sys2Proof.Machine
end

