-- ==== Sys2Proof/Machine/Records.lean ====
section
/-! DEFINITION. The records that make up the state: blocks, rings, partitions, and what the device sends. -/
namespace Sys2Proof.Machine

/-- ENABLE, STATE.CUR, PEND_ENABLE and SOFT_RESET of one block instance (Tables 2.6 to 2.8).
CUR: 0 OFF, 1 ENABLING, 2 ON, 3 DISABLING. -/
structure BlkSt where
  enable    : Bool
  cur       : Nat
  pend      : Bool
  softReset : Bool
  deriving DecidableEq, Repr

/-- Device time: seconds, nanoseconds and the 32-bit fraction of a nanosecond (R217). -/
structure DTime where
  sec  : Nat
  ns   : Nat
  frac : Nat
  deriving DecidableEq, Repr

/-- Device time and the tick count, and the increment in force (R217). `hist` is the course of device time since its
last step, or since reset: for each stretch of ticks with one increment its first tick, device time there as
`dtNum` has it, and the increment, the latest first (R218). DESIGN CHOICE, log entry 11. DEDUCED, log entry 144. -/
structure TimeState where
  tick : Nat
  now  : DTime
  incr : Nat
  hist : List (Nat × Nat × Nat)
  deriving DecidableEq, Repr

/-- How the frame check sequence of a transmitted frame was sent (R144, R187). -/
inductive Fcs
  | good | stomped
  deriving DecidableEq, Repr

/-- A message of the Cersa link (R308 to R322). -/
inductive CMsg
  | hello (h : Hello) | heartbeat (h : Heartbeat) | detach (crust : Bool) | detachAck | attach | numberRequest
  | numberGrant (version : Nat) | commit (version part : Nat) (changes : List RepChange) (lost : Bool)
  | commitAck (version : Nat) (ok : Bool) | resync (part : Nat) | syncRecord (r : SyncRec) | syncEnd (part : Nat)
  | version (v : Nat) | image (cluster kib : Nat)
  deriving DecidableEq, Repr

/-- What leaves the device, oldest first: DMA, interrupts, frames, and messages on its other links. DESIGN CHOICE, log
entry 137. -/
inductive Out
  | dma (part : Nat) (pasid : Option Nat) (addr : Nat) (words : List Nat)
  | dmaBytes (part : Nat) (pasid : Option Nat) (addr : Nat) (bytes : List Byte)
  | dmaRead (part : Nat) (pasid : Option Nat) (addr len : Nat)
  | msix (vector addr data : Nat)
  | frame (port : Nat) (bytes : List Byte) (fcs : Fcs)
  | pause (port opcode enables : Nat) (timers : List Nat)
  | cersa (m : CMsg)
  | pps (level : Bool)
  | avs (cluster milliVolts : Nat)
  | readData (w : Word)
  deriving DecidableEq, Repr

/-- A descriptor that a command ring has fetched: its index, its words, whether its engine
has it (`started`), and its completion once it is known. -/
structure Desc where
  n       : Nat
  words   : List Nat
  started : Bool
  done    : Option (Nat × Nat)
  deriving DecidableEq, Repr

/-- A ring of a partition window (Table 17.5). `raw` is LOG2_SIZE as written, `log2` what it acts as, `modn` the moderation count of R370. -/
structure Ring where
  base    : Nat
  cpl     : Nat
  tailWb  : Nat
  enable  : Bool
  log2    : Nat
  raw     : Nat
  tail    : Nat
  head    : Nat
  done    : Nat
  irq     : Nat
  stopped : Bool
  cause   : Nat
  drops   : Nat
  modn    : Nat
  descs   : List Desc
  deriving DecidableEq, Repr

/-- A ring at reset. -/
def Ring.idle : Ring := ⟨0, 0, 0, false, 4, 4, 0, 0, 0, 0x10000, false, 0, 0, 0, []⟩

/-- What a running reset of a partition has still to do (Table 13.5): whether DRAIN_US has ended. -/
structure ResetRun where
  drained : Bool
  slow    : Bool
  deriving DecidableEq, Repr

/-- One partition (Tables 13.2, 13.10). `st`: 0 FREE, 1 ACTIVE, 2 QUIESCING, 3 QUIESCED,
4 RESETTING, 5 RESET_DONE, 6 FROZEN, 7 RESTORING. `found` is the status that the checks of a running
restore found (200 none, 201 its batch waits, 202 its batch is current; a purge uses the last two too),
`imgHead` its image, and `job` where a running save goes: AREA, CLUSTER, KIND, address. -/
structure Part where
  st        : Nat
  mode      : Bool
  trans     : Bool
  saving    : Bool
  folding   : Bool
  frozenVer : Nat
  pasid     : Nat
  rst       : Nat
  budget    : Nat
  rings     : Nat
  host      : Nat
  ranges    : List Nat
  vec       : Nat
  credits   : Nat
  creditsOn : Bool
  imageId   : Nat
  run       : Option ResetRun
  purging   : Bool
  found     : Nat
  imgHead   : Option SaveHead
  job       : List Nat
  deriving DecidableEq, Repr

/-- A partition that was never created. -/
def Part.free : Part :=
  ⟨0, false, false, false, false, 0, 0, 1000 <<< 32, 4 <<< 20, 0, 0, [0, 0, 0, 0, 0, 0], 0, 4, false, 0,
   none, false, 0, none, []⟩

/-- Partition 0 at reset (R11, R287). -/
def Part.manager : Part :=
  { Part.free with st := 1, rings := 16 <<< 16 + 4 <<< 8 + 16, vec := 2048 <<< 32 }

/-- The units that a fence takes (Table 12.3). A link is named by its lower end. -/
inductive FUnit
  | slice (s : Nat) | edit (s : Nat) | cluster (c : Nat) | fdh (c : Nat) | stack (c : Nat)
  | tcm (b : Nat) | link (d : Nat) | hub (k : Nat)
  deriving DecidableEq, Repr

/-- The fault collector's working state beside its registers: the level at which each class
is pending (with 8 added once its fences have been taken), the units of its events since, which
classes fenced which unit, whether the device has stopped, and the weights that fences set to zero:
cluster, member, weight before, and the fenced units (R267, R272, Table 12.4). -/
structure FltSt where
  level   : SMap Nat
  units   : List (Nat × FUnit)
  fences  : List (FUnit × Nat)
  stopped : Bool
  saved   : List (Nat × Nat × Nat × List FUnit)
  deriving DecidableEq, Repr

/-- One copy of a table entry (R112). `kind`: 0 EM, 1 FLOW, 2 LPM4, 3 LPM6, 4 TCAM, 5 ACTION,
6 GROUP, 7 MEMBER. `key` is what identifies the entry, `data` the words it returns, `place` the
slot, table index or hidden copy that holds it. `born` none is a settled birth, `dies` none an
unset death; otherwise each names a batch tag. -/
structure Entry where
  kind    : Nat
  cluster : Nat
  tid     : Nat
  part    : Nat
  key     : List Nat
  data    : List Nat
  place   : Nat
  born    : Option Nat
  dies    : Option Nat
  deriving DecidableEq, Repr

/-- A change of a batch: its descriptor's index in the ring, CMD_STATUS of a refusal or none,
and TBL_STATUS (Table 5.4). -/
structure Change where
  n      : Nat
  tbl    : Nat
  deriving DecidableEq, Repr

/-- A batch tag in use. `state`: 1 open, 2 decoded and waiting for its version, 3 version
assigned, 4 settling (R112 to R115). `internal` batches belong to a bulk sync, a restore or a
commit of the twin and have no ring; `joint`: the pair was attached when the version was assigned. -/
structure Batch where
  tag       : Nat
  part      : Nat
  ring      : Nat
  state     : Nat
  changes   : List Change
  count     : Nat
  desc      : Nat
  repl      : Nat
  allOrNone : Bool
  version   : Nat
  internal  : Bool
  log       : List RepChange
  joint     : Bool
  deriving DecidableEq, Repr

/-- A version on its way to becoming current (Table 5.6): whether its tag is resolved in the
clusters, and which of the 72 slices and clusters have still to adopt it. -/
structure Switch where
  version  : Nat
  tag      : Option Nat
  resolved : Bool
  units    : List Nat
  deriving DecidableEq, Repr

/-- A wait of the commit engine that COMMIT_STALL counts: the ring, its descriptor that waits, the reason, the
tick it began. -/
structure Stall where
  part   : Nat
  ring   : Nat
  n      : Nat
  reason : Nat
  since  : Nat
  deriving DecidableEq, Repr

/-- The commit engine: batches, commits in decoding order, switches, the oldest live and the
latest assigned version, the version of each of the 64 slices and 8 clusters, what each still
owes of drain reports (1 owed, 2 on its way), credits, and waits. -/
structure CmtSt where
  batches  : List Batch
  queue    : List Nat
  switches : List Switch
  oldest   : Nat
  latest   : Nat
  adopted  : SMap Nat
  owed     : SMap Nat
  credits  : Nat
  stalls   : List Stall
  jump     : Option (Nat × Nat)
  drainWaits : List (Nat × Nat × Nat × Nat)
  deriving DecidableEq, Repr

/-- The commit engine at reset: version 0 is live, every credit is there (R108, R121). -/
def CmtSt.reset : CmtSt := ⟨[], [], [], 0, 0, [], [], 8, [], none, []⟩

/-- A replicated commit of this device that its twin has not acknowledged: version, ring and descriptor of
its TBL_COMMIT, changes applied, whether the completion waits for the twin, and bytes of the queue (R123, R317). -/
structure Sent where
  version : Nat
  part    : Nat
  ring    : Nat
  desc    : Nat
  okc     : Nat
  sync    : Bool
  size    : Nat
  deriving DecidableEq, Repr

/-- A replicated commit that arrived and waits: version, partition, changes, and whether the sender had
to drop its changes (R315, R317). -/
structure Arrived where
  version : Nat
  part    : Nat
  changes : List RepChange
  lost    : Bool
  deriving DecidableEq, Repr

/-- Twin pairing: the last number given out by role A, the numbers of waiting batches, requests of
role B without an answer, commits that arrived, commits sent, versions of the twin's that are to be
acknowledged, partitions that this device copies to the twin, those that it builds as the sink, the
records of their hidden batches, commits held behind the scan, whether TBL_COMMITs are held, the
empty versions and the number that cut-over has still to take, the number that ends it, whether this
device has still to acknowledge a detach, whether its partner has acknowledged, whether an image transfer
runs, the level of TWIN_ALIVE_IN, and the partitions whose hidden batch has been queued. -/
structure Twin where
  seq     : Nat
  numbers : List (Nat × Nat)
  asked   : Nat
  held    : List Arrived
  sent    : List Sent
  acks    : List (Nat × Bool)
  source  : List Nat
  sink    : List Nat
  recs    : List SyncRec
  replay  : List Arrived
  hold    : Bool
  rebase  : Option (Nat × Nat)
  cut     : Option Nat
  leaving : Bool
  acked   : Bool
  xfer    : Bool
  edge    : Bool
  built   : List Nat
  deriving DecidableEq, Repr

/-- Twin pairing at reset. DESIGN CHOICE, log entry 5. -/
def Twin.reset : Twin := ⟨0, [], 0, [], [], [], [], [], [], [], false, none, none, false, false, false, false, []⟩

/-- The accumulated result of a frame's lookups (R83). `inl` is a FLOW entry's action image;
`hits` are the CTR_INDEX values to count; `drop`: 0 none, 1 TABLE_DROP, 2 NO_ACTION, 3 TABLE_UE,
4 HBM_LKP_BUSY. -/
structure Res where
  op     : Nat
  index  : Nat
  tc     : Option Nat
  colour : Nat
  meter  : Option Nat
  carry  : Nat
  stop   : Bool
  inl    : Option (List Nat)
  hits   : List Nat
  drop   : Nat
  deriving DecidableEq, Repr

/-- A received frame. `stage`: 0 in the elastic buffer, 1 between KB and VE, 2 past VE. `adm`:
1 while it is to be admitted, once it is past VE, its verdict has taken effect, and its turn has come. `fin` is
the parse section as its results and its meter leave it, `adTc` its class at AD, `chain` the chain
that a squash left for its replay. `guard`: 0 none, 1 its key is in the order guard, 2 it is counted beside a
full guard. `verdict`: 0 none, 1 confirmed, 2 squashed, 3 cancelled, on its way to another cluster.
`launch`: 0 not launched, 1 its request is on its way, 2 launched. `chg` is what its meter did:
0 nothing, 1 charged, 2 skipped, 3 denied, 4 red and dropped. `rob`: it holds an entry of the reorder buffer,
which `reorder` says it took in Lookup-reorder mode or in a transition; `pre`: it entered KB before the mode write
whose transition runs. `fcsBad` is what RX found of its FCS, `bad` all that makes a copy of it stomped. -/
structure Frame where
  fid      : Nat
  port     : Nat
  bytes    : List Byte
  ts       : DTime
  stage    : Nat
  crust    : Bool
  tail     : Bool
  bad      : Bool
  lost     : Bool
  sect     : List Nat
  k0       : List Byte
  reorder  : Bool
  rob      : Bool
  res      : Res
  ready    : Bool
  hbm      : Bool
  kb       : Nat
  pred     : List Nat
  launch   : Nat
  lcid     : Nat
  guard    : Nat
  adm      : Nat
  replayed : Bool
  image    : List Nat
  version  : Nat
  verdict  : Nat
  chg      : Nat
  fin      : List Nat
  adTc     : Nat
  chain    : Option Nat
  gone     : Bool
  pre      : Bool
  fcsBad   : Bool
  deriving DecidableEq, Repr

/-- What a grant fixed: its tick, whether it cut the frame through, the edited bytes without the
FCS, the final place of the IEEE 1588 header, whether LENFIX ran, causes found that stomp it, and
the tick at which the window that admitted it closes. `drop` is an edited copy that ED discards, and
`owed` its EDT events, while it is unverified; `ets` is the instant of its first bit. -/
structure Grant where
  tick    : Nat
  cut     : Bool
  bytes   : List Byte
  ptp     : Option Nat
  lenfix  : Bool
  stomp   : Bool
  drop    : Bool
  owed    : List Nat
  ets     : Nat
  close   : Option Nat
  done    : Bool
  deriving DecidableEq, Repr

/-- A copy of a frame. `kind`: 0 unicast, 1 multicast, 2 mirror, 3 host, 4 Spore, 5 Crust. `st`:
0 bound for its queue and not yet there, 1 in its queue or FIFO, 2 granted, 3 spilled. `refAt` is
the slice that counts its program reference. `segs` names the spill cells (block, first, count)
and `rblk` the record block and the record in it; `spilt`: it was admitted to spill. -/
structure Copy where
  cid      : Nat
  fid      : Nat
  kind     : Nat
  part     : Nat
  queue    : Nat
  prog     : Nat
  image    : List Nat
  cluster  : Nat
  chain    : Nat
  n        : Nat
  st       : Nat
  verified : Bool
  void     : Bool
  refAt    : Option Nat
  gateWait : Option Nat
  grant    : Option Grant
  segs     : List (Nat × Nat × Nat)
  rblk     : Option (Nat × Nat)
  hurt     : Bool
  info     : List Nat
  spilt    : Bool
  deriving DecidableEq, Repr

/-- A chain of cells in a cluster's pool: its written cells, its cells reserved but not yet
written, its references, the transfer that fills it (0: its frame's slice does), and whether its size is
the frame's true one. -/
structure Chain where
  id      : Nat
  cluster : Nat
  fid     : Nat
  cells   : List Nat
  rsv     : Nat
  refs    : Nat
  xfer    : Nat
  fixed   : Bool
  deriving DecidableEq, Repr

/-- A frame of a virtual output queue. `phase`: 0 its request is on its way, 1 granted and 2
refused with the answer on its way, 3 granted. `held` cells of the transfer buffer, `sent` and
`arrived` cells of the chain; `cid` is the copy that it brings, none for a chain that the
replication engine waits for. `old` is a chain that the replay copies from. -/
structure Xfer where
  id      : Nat
  fid     : Nat
  src     : Nat
  dst     : Nat
  n       : Nat
  phase   : Nat
  held    : Nat
  sent    : Nat
  arrived : Nat
  cid     : Option Nat
  launch  : Bool
  old     : Option Nat
  dead    : Bool
  deriving DecidableEq, Repr

/-- A replication that waits for its chain: the cluster's list, and its mirror session's word. -/
structure Repl where
  fid     : Nat
  cluster : Nat
  chain   : Nat
  xfer    : Option Nat
  base    : Nat
  len     : Nat
  mirror  : Option Nat
  fenced  : Bool
  deriving DecidableEq, Repr

/-- A spill block of a queue: a cell block, or a record block. `st`: 0 staged, 1 in HBM, 2 being read. `used`
cells or records; `shut`: it is closed, and while it is staged its write is queued; `lists` are the cell blocks of a
record block's header, in order; `slot` is the place of a staged cell block in the staging memory. -/
structure SBlock where
  id    : Nat
  queue : Nat
  part  : Nat
  isRec : Bool
  st    : Nat
  used  : Nat
  shut  : Bool
  lists : List Nat
  slot  : Nat
  deriving DecidableEq, Repr

/-- A prediction entry (Table 6.1). -/
structure PredEnt where
  part    : Nat
  profile : Nat
  tag     : Nat
  lrv     : Nat
  version : Nat
  hits    : Nat
  action  : List Nat
  deriving DecidableEq, Repr

/-- A meter's entry (R214): its profile word, rates, bursts, buckets and last charge tick. -/
structure Meter where
  prof  : Nat
  rate  : Nat
  burst : Nat
  tc    : Nat
  tp    : Nat
  last  : Nat
  deriving DecidableEq, Repr

/-- A meter that was never written. DESIGN CHOICE, log entry 136. -/
def Meter.empty : Meter := ⟨0, 0, 0, 0, 0, 0⟩

/-- A group shaper's balance and last charge tick (R211). -/
structure Shaper where
  bal  : Int
  last : Nat
  deriving DecidableEq, Repr

/-- A gate list (R220): length, cycle, base time; its entries stand in the indirect memory. -/
structure GateList where
  len   : Nat
  cycle : Nat
  sec   : Nat
  ns    : Nat
  deriving DecidableEq, Repr

/-- A port's gates: the list in force, ENABLE, and the GO that waits, with the earliest instant of
its takeover. -/
structure Gate where
  oper   : Nat
  enable : Bool
  pend   : Option Nat
  deriving DecidableEq, Repr

/-- The frame path. `heads` is the copy for which each finish time was set; `arb` are the requests that pools had in
the latest tick that brought one: the tick, the cluster, the first port of the requester, and whether it was granted. -/
structure Fp where
  next   : Nat
  frames : List Frame
  flow   : List (Nat × Nat)
  chains : List Chain
  copies : List Copy
  xfers  : List Xfer
  flight : List (Nat × Nat × Nat)
  backs  : SMap Nat
  repls  : List Repl
  engine : List (Nat × Nat)
  blocks : List SBlock
  tokens : SMap Int
  leaks  : List (Nat × Nat × Nat)
  preds  : SMap PredEnt
  pold   : List (Nat × Nat × Option PredEnt)
  filled : SMap Nat
  meters : SMap Meter
  shapes : SMap Shaper
  lists  : SMap GateList
  gates  : SMap Gate
  wv     : SMap Nat
  wf     : SMap Nat
  grants : List (Nat × Nat)
  pause  : List (Nat × Nat × Nat)
  deaf   : List (Nat × Nat)
  xoff   : List (Nat × Nat)
  txts   : List (Nat × List Nat)
  heads  : SMap Nat
  arb    : List (Nat × Nat × Nat × Bool)
  deriving DecidableEq, Repr

/-- The frame path at reset. DESIGN CHOICE, log entry 5. -/
def Fp.reset : Fp :=
  ⟨0, [], [], [], [], [], [], [], [], [], [], [], [], [], [], [], [], [], [], [], [], [], [], [], [], [], [], [], []⟩

/-- Counts of a rule counter index in an accumulator or a queued flush of a cluster; `delta` counts
go to the delta log of a frozen partition (R357, R358). -/
structure Acc where
  cluster : Nat
  index   : Nat
  part    : Nat
  delta   : Bool
  pkts    : Nat
  bytes   : Nat
  deriving DecidableEq, Repr

/-- Rule and flow counters: accumulators, the least recently incremented first; queued flushes;
the pairs in HBM and the delta logs, each as packets + 2^64 × bytes; indexes whose next read
reports an uncorrectable word (R357 to R359). -/
structure FlowCtrs where
  acc    : List Acc
  flush  : List Acc
  pairs  : SMap Nat
  deltas : SMap Nat
  ues    : List Nat
  deriving DecidableEq, Repr

end Sys2Proof.Machine
end

