-- ==== Sys2Proof/Machine/State.lean ====
section
/-! DEFINITION. The state of the device, and the state right after power-on reset. -/
namespace Sys2Proof.Machine

/-- Indirect memories that a register pair reaches by index, one constructor each. -/
inductive Mem
  /-- Protection registers of a protected memory: counts, last error, lap, limit, injection, scrub control and the
  scrubber's place (Table 11.6, R265). -/
  | prot
  /-- Extraction instructions of a slice (Table 3.8, R73). -/
  | prsKb
  /-- The table directory of a cluster (Table 4.16, R78). -/
  | exmDir
  /-- The chain descriptors of a cluster (Table 4.17, R84). -/
  | exmChain
  /-- The weights of ungrouped member slots of a cluster (Table 4.18, R97). -/
  | exmWgt
  /-- The queue records of a slice (Table 9.3, R204). -/
  | schQ
  /-- The group shapers and weights of a slice (Table 9.5, R211). -/
  | schG
  /-- The gate list entries of a port: list times 256, entry (Table 9.6, R220). -/
  | gcl
  /-- The pause thresholds of a slice's ports and classes (Table 9.7, R226). -/
  | pfcTh
  /-- The cell limits of a cluster, kind times 4096 (Table 8.10, R185). -/
  | bpmLim
  /-- The queue limits and spill settings of a cluster (Table 8.12, R185). -/
  | bpmQ
  /-- The multicast groups of a cluster (Table 8.13, R189). -/
  | mcg
  /-- The multicast list entries of a cluster (Table 8.13, R189). -/
  | mcl
  /-- The mirror sessions of a cluster (Table 8.14, R192). -/
  | mir
  /-- The samplers of a cluster, partition times 64 (Table 8.14, R201). -/
  | smp
  /-- Frames that a sampler has still to count, 0 for a full period (R201). DESIGN CHOICE, log entry 5. -/
  | smpCount
  /-- A sampler's sequence number in a cluster (R201). DESIGN CHOICE, log entry 5. -/
  | smpSeq
  /-- A partition's sequence number of host copies in a cluster (R288). DESIGN CHOICE, log entry 5. -/
  | hostSeq
  /-- The cause of a wake that runs in a slice, 0 for none (R326, Table 15.6). -/
  | slcWake
  /-- Index 0: 1 while an OFF request of a slice waits; index 1: 1 while a napping slice's register file is awake
  (R327, R330). -/
  | slcReq
  /-- The tick at which the version with this number modulo 8 ceased to be current (R126). -/
  | verTick
  /-- VIOLATION_COUNT of a partition's window (Table 13.12, R292). -/
  | winViol
  /-- A user counter window's SEL register of a partition, one for each cluster (R353). -/
  | winSel
  /-- The upper half that a partition's window holds for a 32-bit read: index 0 whose it is, index 1 the half (R34). -/
  | winLatch
  /-- Bits by which a TCAM slot differs from what was written (R105, R260). -/
  | tcmFlip
  /-- The golden words of the edit store (R158). -/
  | edtStore
  /-- What an edit store word of a slice differs by: 64 data bits, 4 parity bits (R172, R176). -/
  | edtBad
  /-- A program's directory entry: state, whether a length edit is needed, length, start (R158, Table 7.16). -/
  | edtProg
  /-- A slice's reference count of a program, bit 32 its UNKNOWN mark (R167, R169). -/
  | edtRef
  /-- A slice's machine checks: tick of the last of each word; 8192 the word that reloads, 8193 when it began, 8194
  whether it recurred (R173). -/
  | edtMcTime
  /-- The partition that owns a port (Table 13.11, R285). -/
  | partPort
  /-- The partition that owns a block of 64 queues (Table 13.11, R285). -/
  | partQown
  /-- A port's Crust table entry (Table 12.11, R279). -/
  | crust
  /-- A stack: index 0, 1 while its table region is refilled; index 1, 1 if its training failed at start-up (R235,
  R247). -/
  | hbmRefill
  /-- A row of a stack: corrected errors that reads have met in it in the present scrub lap; 3 says that it is to be
  replaced (R246). -/
  | hbmRows
  /-- The lane of a pseudo-channel that its spare lane replaces, plus one (R247). -/
  | hbmSpare
  /-- The version under which a TCAM diagnostic search runs, plus one; 0 for none (R104). -/
  | tcmEpoch
  /-- The log rings of the Limitur loops, four words to an entry (Table 15.3, R336). -/
  | limLog
  /-- The base value of an entry that a loop has moved, plus one; 0 for none (R337). -/
  | limBase
  /-- A loop's counts of evaluations in a row and what it is doing to each unit (R333, R338). -/
  | limCount
  /-- What a loop saw of each unit at its last evaluation (R333, R340). DESIGN CHOICE, log entry 5. -/
  | limPrev
  /-- The clocks that a slice's own clock has run (R257, R259). -/
  | scrubRun
  /-- 1 while the link check runs in a lane (R342). -/
  | linkChk
  /-- Index 0 the tick of the last kick of the always-on watchdog; 1 whether it has fired, and every slice clock is
  gated; 2 whether THERM_TRIP has stopped the device (R276, R277). -/
  | aonKick
  /-- Start-up: 1 the image in use, 2 whether a second is tried, 3 what BOOT_STATUS held at its soft reset plus one,
  7 no power, 8 and 10 and 16 on: lost clocks, 9 the supply condition (R374, R386). -/
  | boot
  /-- Requests to change device time, in order: 0 first, 1 past the last, 2 the level of PPS_OUT, 3 the captured
  seconds, 16 on the requests (R218, R219, R231). -/
  | timReq
  /-- Replication mode of a partition (Table 14.7, R314). -/
  | cslPrepl
  /-- The counter that a threshold entry watches (Table 16.5, R355). -/
  | perfThrCtr
  /-- A threshold entry's settings; instances 1 to 3: its firing that waits for a sample, the tick of its last, and
  the nanoseconds of this one (Table 16.5, R355, R356). -/
  | perfThrCfg
  /-- The flush that runs in a prediction cache, as FDH_FLUSH had it; 8 + cluster the tick at which its scan began,
  16 + program that of the scan for a retiring program, each plus one (R147, R148, R168). -/
  | fdhRun
  /-- Clocks for which a profile of a slice is still in use though it is no longer named (R75). -/
  | prsUsed
  deriving DecidableEq, Repr

/-- The device but for its clock of device time. -/
structure Dev where
  /-- Whether the module is the H4 ordering code (R2). -/
  h4 : Bool
  /-- The BAR0 registers that are not at their reset values, by page, offset and index (R34, R37). -/
  regs : SMap Word
  /-- The upper half that a register holds after a 32-bit read of its lower half, plus one (R34). -/
  latch : SMap Nat
  /-- ENABLE, STATE.CUR, PEND_ENABLE and SOFT_RESET of each block (R37 to R43). -/
  blocks : SMap BlkSt
  /-- Records behind an address and data register pair, and the working state of engines, by `Mem`. -/
  mem : SMap Nat
  /-- The performance counters (R346), bits 47:0 the count and bit 48 WRAP. -/
  ctr : SMap Nat
  /-- The shadow bank of a snapshot (R351). -/
  shadow : SMap Nat
  /-- Flipped and uncorrectable words of protected memories (R252, R260). -/
  marks : SMap Nat
  /-- How many free values have been drawn: the model's own field, on whose value no statement rests. -/
  free : Nat
  /-- The partitions (R289). -/
  parts : SMap Part
  /-- The rings of the partitions (R367). -/
  rings : SMap Ring
  /-- The MSI-X table (R366): address, data and vector control words. -/
  msix : SMap Word
  /-- The vectors that are pending. -/
  pba : List Nat
  /-- The fault collector beside its registers (R267, R272). -/
  flt : FltSt
  /-- Events on their way to the fault collector (R266). -/
  faults : List FaultEv
  /-- The copies of the match tables' entries (R112). -/
  entries : List Entry
  /-- The commit engine (R108 to R126). -/
  cmt : CmtSt
  /-- Twin pairing (R307 to R322). -/
  tw : Twin
  /-- Weights written and waiting for the switch of their cluster: cluster, slot, word (R99). -/
  wgtPend : List (Nat × Nat × Nat)
  /-- The frame path. -/
  fp : Fp
  /-- Rule and flow counters (R357 to R359). -/
  fc : FlowCtrs
  /-- Partition images in HBM: area and cluster, to bytes (R301). -/
  images : SMap (List Byte)
  /-- The level of ALIVE (R275). -/
  alive : Bool
  /-- Whether ALIVE toggles (R275, R374). -/
  aliveRun : Bool
  /-- What has left the device, oldest first: the model's record of DMA, interrupts, frames and messages. -/
  out : List Out
  /-- A system reset that was asked for and happens at the end of the command (R379, R381). -/
  resetReq : Bool
  /-- A threshold entry, its counter, and the counter's increments since the entry was written or fired (R355). -/
  watch : List (Nat × Nat × Nat)
  deriving DecidableEq, Repr

/-- The machine: the commands that wait, device time, and the device. -/
structure State where
  pending : List Instr
  tim     : TimeState
  dev     : Dev
  deriving DecidableEq, Repr

/-- No command ends in a fault of the model. -/
inductive Fault
  /-- Raised by nothing, for the device answers every command with a next state; safe. -/
  | none
  deriving DecidableEq, Repr

/-- Reasons to refuse a command. -/
inductive Refusal
  /-- Raised by an arm of `exec` whose command has no meaning yet; safe. -/
  | notModelled (mnemonic : String)
  deriving DecidableEq, Repr

/-- Device time at reset (R379): zero, at the nominal increment of R217. -/
def TimeState.reset : TimeState := ⟨0, ⟨0, 0, 0⟩, 0x8E38E38E, [(0, 0, 0x8E38E38E)]⟩

/-- The device at power-on reset. DESIGN CHOICE, log entries 2, 4, 5 and 136. PRESUMED, log entry 6. -/
def Dev.reset : Dev :=
  ⟨false, [], [], [], [], [], [], [], 0, [], [], [], [], ⟨[], [], [], false, []⟩, [], [], CmtSt.reset, Twin.reset, [], Fp.reset, ⟨[], [], [], [], []⟩, [], false, false, [], false, []⟩

/-- The machine right after reset. DESIGN CHOICE, log entry 4. -/
def State.reset : State := ⟨[], TimeState.reset, Dev.reset⟩

end Sys2Proof.Machine
end

