-- ==== Sys2Proof/Machine/Regs.lean ====
section
/-! DEFINITION. Reading and writing registers, indirect memories, block states and counters. -/
namespace Sys2Proof.Machine

/-- A number for each block kind, in page order. -/
def kindIx : BlkKind → Nat
  | .dev => 0 | .pwr => 1 | .tim => 2 | .flt => 3 | .boot => 4 | .pci => 5 | .lim => 6
  | .cmt => 7 | .csl => 8 | .perf => 9 | .part => 10 | .clu => 11 | .hbm => 12 | .d2d => 13
  | .bpm => 14 | .exm => 15 | .lpm => 16 | .tcm => 17 | .fdh => 18 | .slc => 19 | .sds => 20
  | .mac => 21 | .prs => 22 | .voq => 23 | .edt => 24 | .sch => 25 | .mtr => 26

/-- A number for each block instance. -/
def blkKey (b : Blk) : Nat := kindIx b.kind * 2048 + b.inst

/-- The kind with a TYPE code (Table 2.17). -/
def kindOfType (t : Nat) : Option BlkKind := findFirst (fun k => k.info.type == t) allKinds

/-- LEVEL of PAGE_ID (Table 2.4). -/
def levelCode : Level → Nat
  | .device => 5
  | .cluster => 4
  | .slice => 3

/-- The first offset of the region of a unit (R31). -/
def regionBase : Level → Nat → Nat
  | .device, _ => 0
  | .cluster, c => 0x1000000 + c * 0x400000
  | .slice, s => 0x1000000 + s / 8 * 0x400000 + 0x200000 + s % 8 * 0x40000

/-- The unit (cluster or slice) of a block (R38). -/
def blkUnit (b : Blk) : Nat := b.inst / b.kind.info.per

/-- The cluster in which a block of a cluster or slice lies. -/
def blkCluster (b : Blk) : Nat :=
  match b.kind.info.level with
  | .device => 0
  | .cluster => blkUnit b
  | .slice => blkUnit b / 8

/-- The offset of page `sub` of a block (R32). -/
def pageBase (b : Blk) (sub : Nat) : Nat :=
  regionBase b.kind.info.level (blkUnit b)
    + (b.kind.info.page + b.inst % b.kind.info.per * b.kind.info.span + sub) * 0x1000

/-- The page of its block that holds a register. -/
def regSub (r : Reg) : Nat := (regInfo r).sub

/-- The BAR0 offset of element `i` of a register, in page `sub`. -/
def regOff (b : Blk) (sub : Nat) (r : Reg) (i : Nat) : Nat :=
  pageBase b sub + (regInfo r).off + (regInfo r).stride * i

/-- The storage key of element `i` of a register: its BAR0 offset in 8-byte slots. -/
def regKey (b : Blk) (sub : Nat) (r : Reg) (i : Nat) : Nat := regOff b sub r i / 8

/-- Reset values of the fields of a register. -/
def fieldsReset : List Field → Nat
  | [] => 0
  | f :: l => f.reset <<< f.lo + fieldsReset l

/-- BLOCK_CAPS and MEMS of each kind (PAGE_CAPS, Tables 3.9, 4.12, 6.6, 7.14, 8.5, 9.2, 10.11, 12.6, 13.13, 14.3). -/
def blockCaps (h4 : Bool) : BlkKind → Nat
  | .prs => 0x018040201000
  | .exm => 0x151712101308
  | .fdh => 0x12080A090000
  | .edt => 0x0D0C04188000
  | .bpm => 0x124010110C40
  | .sch => 0x0E0808080400
  | .hbm => 0x400150000000 + (if h4 then 4 else 2) <<< 20 + 8 <<< 16 + (if h4 then 2 else 1) <<< 8
  | .flt => 0x400A10000000
  | .part => 0x0C800E0C0E00
  | .csl => 0x080C04000000
  | _ => 0

/-- PAGE_CAPS.MEMS: protected memories of a kind (R265). -/
def memCount : BlkKind → Nat
  | .prs => 1 | .exm => 6 | .lpm => 2 | .tcm => 2 | .cmt => 1 | .fdh => 1 | .edt => 3 | .bpm => 6
  | .sch => 3 | .mtr => 2 | .hbm => 2 | .flt => 2 | .part => 2 | .csl => 1 | .lim => 1 | .perf => 1
  | _ => 0

/-- The loop control registers at reset: what Table 15.2 gives for each loop. -/
def limReset (r : Reg) (i : Nat) : Option Nat :=
  match r, i with
  | .limLoopCtrl, i => some ([10000, 1000, 10000, 1000, 1000, 1000000].getD i 0 <<< 16 + 3 <<< 8)
  | .limLoopTh, i => some ([200 <<< 32 + 50, 200 <<< 32 + 20, 75 <<< 32 + 25, 400 <<< 32 + 340,
      118 <<< 32 + 110, 100].getD i 0)
  | .limLoopBnd, i => some ([25 <<< 48 + 4 <<< 32 + 25, 100 <<< 48 + 180 <<< 32 + 1800000, 64 <<< 32 + 8,
      3000 <<< 48 + 10 <<< 32 + 1000, 5 <<< 32 + 20, 4].getD i 0)
  | _, _ => none

/-- The value of a register right after reset. -/
def resetValue (h4 : Bool) (b : Blk) (sub : Nat) (r : Reg) (i : Nat) : Nat :=
  match r with
  | .pageId => 0xB0 <<< 48 + sub <<< 40 + levelCode b.kind.info.level <<< 32 + b.inst <<< 16 + b.kind.info.type
  | .pageCaps => b.kind.info.span <<< 56 + memCount b.kind <<< 48 + blockCaps h4 b.kind
  | .devIdent => Config.jvid.toNat <<< 32 + 0x9204 <<< 16 + 0xB0
  | .devShape => (if h4 then 0x55 else 0xFF) <<< 56 + fieldsReset (regInfo r).fields % 2 ^ 56
  | .prsEtype => Config.jetype.toNat <<< 16 + fieldsReset (regInfo r).fields
  | .fltWin => match i with | 0 => 100000 | 1 => 10000 | _ => 1000000
  | .bpmSpillCfg => (if h4 then 3000 else 6000) <<< 48 + 0x100 <<< 32 + 0x1F4 <<< 16
  | _ => match limReset r i with
    | some v => v
    | none => fieldsReset (regInfo r).fields

/-- Element `i` of a register in page `sub` of a block, as stored. -/
def rdAt (d : Dev) (b : Blk) (sub : Nat) (r : Reg) (i : Nat) : Nat :=
  (SMap.get (BitVec.ofNat 64 (resetValue d.h4 b sub r i)) d.regs (regKey b sub r i)).toNat

/-- Element `i` of a register of a block, as stored. -/
def rd (d : Dev) (b : Blk) (r : Reg) (i : Nat := 0) : Nat := rdAt d b (regSub r) r i

/-- Stores element `i` of a register in page `sub`. -/
def wrAt (d : Dev) (b : Blk) (sub : Nat) (r : Reg) (i v : Nat) : Dev :=
  { d with regs := SMap.set (BitVec.ofNat 64 (resetValue d.h4 b sub r i)) d.regs (regKey b sub r i)
                     (BitVec.ofNat 64 v) }

/-- Stores element `i` of a register. -/
def wr (d : Dev) (b : Blk) (r : Reg) (v : Nat) (i : Nat := 0) : Dev := wrAt d b (regSub r) r i v

/-- A field of a register, by its bits. -/
def rdF (d : Dev) (b : Blk) (r : Reg) (hi lo : Nat) (i : Nat := 0) : Nat := fld (rd d b r i) hi lo

/-- Stores a field of a register. -/
def wrF (d : Dev) (b : Blk) (r : Reg) (hi lo v : Nat) (i : Nat := 0) : Dev :=
  wr d b r (putFld (rd d b r i) hi lo v) i

/-- The register without what the resets and writes stored in it: its reset value. -/
def wrReset (d : Dev) (b : Blk) (sub : Nat) (r : Reg) (i : Nat) : Dev :=
  { d with regs := SMap.erase d.regs (regKey b sub r i) }

/-- Single blocks of the device level. -/
def devBlk (k : BlkKind) : Blk := ⟨k, 0⟩

/-- Block state of a block that nothing has switched: fixed-on blocks are ON (R43). -/
def blkDefault (b : Blk) : BlkSt :=
  if b.kind.info.fixed then ⟨true, 2, false, false⟩ else ⟨false, 0, false, false⟩

/-- ENABLE, CUR and the rest of a block. -/
def blkSt (d : Dev) (b : Blk) : BlkSt := SMap.get (blkDefault b) d.blocks (blkKey b)

/-- Stores a block's state. -/
def setBlk (d : Dev) (b : Blk) (x : BlkSt) : Dev :=
  { d with blocks := SMap.set (blkDefault b) d.blocks (blkKey b) x }

/-- The block is ON. -/
def isOn (d : Dev) (b : Blk) : Bool := (blkSt d b).cur == 2

/-- A number for each indirect memory. -/
def memCode (m : Mem) : Nat := m.ctorIdx

/-- The storage key of entry `i` of a memory of unit `inst`. -/
def memKey (m : Mem) (inst i : Nat) : Nat := (memCode m * 4096 + inst) * 2 ^ 32 + i

/-- Entry `i` of a memory; an entry that nothing has written reads `dflt`. DESIGN CHOICE, log entry 136. -/
def memGetD (d : Dev) (m : Mem) (inst i dflt : Nat) : Nat := SMap.get dflt d.mem (memKey m inst i)

/-- Entry `i` of a memory whose empty state is zero (R255). -/
def memGet (d : Dev) (m : Mem) (inst i : Nat) : Nat := memGetD d m inst i 0

/-- Stores entry `i` of a memory whose empty value is `dflt`. -/
def memSetD (d : Dev) (m : Mem) (inst i dflt v : Nat) : Dev :=
  { d with mem := SMap.set dflt d.mem (memKey m inst i) v }

/-- Stores entry `i` of a memory whose empty value is zero. -/
def memSet (d : Dev) (m : Mem) (inst i v : Nat) : Dev := memSetD d m inst i 0 v

/-- A value that the spec leaves open, and the state that asks for the next one. DESIGN CHOICE, log entry 2. -/
def fresh (d : Dev) : Nat × Dev := ((Config.freeValue d.free).toNat, { d with free := d.free + 1 })

/-- A partition. -/
def part (d : Dev) (p : Nat) : Part := SMap.get (if p = 0 then Part.manager else Part.free) d.parts p

/-- Stores a partition. -/
def setPart (d : Dev) (p : Nat) (x : Part) : Dev :=
  { d with parts := SMap.set (if p = 0 then Part.manager else Part.free) d.parts p x }

/-- The storage key of a ring. -/
def ringKey (k : RingKind) (p r : Nat) : Nat := (p * 4 + k.ctorIdx) * 16 + r

/-- A ring. -/
def ring (d : Dev) (k : RingKind) (p r : Nat) : Ring := SMap.get Ring.idle d.rings (ringKey k p r)

/-- Stores a ring. -/
def setRing (d : Dev) (k : RingKind) (p r : Nat) (x : Ring) : Dev :=
  { d with rings := SMap.set Ring.idle d.rings (ringKey k p r) x }

/-- Sends something out of the device. DESIGN CHOICE, log entries 137 and 139. -/
def send (d : Dev) (o : Out) : Dev := { d with out := d.out ++ [o] }

/-- SLC_PWR_STAT.STATE: 0 ACTIVE, 1 DOZE, 2 NAP, 3 OFF (R324). -/
def slcState (d : Dev) (s : Nat) : Nat := rdF d ⟨.slc, s⟩ .slcPwrStat 63 62

/-- What start-up has come to: BOOT_STATUS as the ROM wrote it. A soft reset of BOOT returns the register alone to reset,
and the boot's own state keeps the rest, plus one (R42, R381). DEDUCED, log entry 108. -/
def bootFacts (d : Dev) : Nat :=
  let k := memGet d .boot 0 3
  if k = 0 then rd d (devBlk .boot) .bootStatus else k - 1

/-- The ROM writes a field of BOOT_STATUS. -/
def setBoot (d : Dev) (hi lo v : Nat) : Dev :=
  let k := memGet d .boot 0 3
  let d := wrF d (devBlk .boot) .bootStatus hi lo v
  if k = 0 then d else memSet d .boot 0 3 (putFld (k - 1) hi lo v + 1)

/-- Whether the slice is in OFF (R324). -/
def sliceOff (d : Dev) (s : Nat) : Bool := slcState d s == 3

/-- One performance event: its block kind and number, whether its own block counts it, and the
slot of its partition counter (R347). -/
structure Ev where
  kind : BlkKind
  num  : Nat
  own  : Bool
  slot : Option Nat
  deriving DecidableEq, Repr

/-- The storage key of a counter (R346). -/
def ctrKey (k : BlkKind) (inst ev ix : Nat) : Nat := ((kindIx k * 2048 + inst) * 128 + ev) * 16384 + ix

/-- A 48-bit COUNT with its sticky WRAP in bit 48, after `n` more (R346). -/
def ctrAdd (v n : Nat) : Nat :=
  let t := v % 2 ^ 48 + n
  t % 2 ^ 48 + (if bit v 48 || 2 ^ 48 ≤ t then 2 ^ 48 else 0)

/-- The block that holds a counter is lost while its slice is OFF; the colour counters of the
meter bank are not (R346). -/
def ctrGone (d : Dev) (k : BlkKind) (inst ev : Nat) : Bool :=
  k.info.level == .slice && sliceOff d (inst / k.info.per) && !(k == .mtr && ev < 3)

/-- Adds to one counter. -/
def ctrBump (d : Dev) (k : BlkKind) (inst ev ix n : Nat) : Dev :=
  if ctrGone d k inst ev then d
  else
    let c := ctrKey k inst ev ix
    { d with
      ctr := SMap.set 0 d.ctr c (ctrAdd (SMap.get 0 d.ctr c) n)
      watch := mapIf (fun x => x.2.1 == c) (fun x => (x.1, x.2.1, x.2.2 + n)) d.watch }

/-- Counts an event `n` times: in its block at index `ix`, and for partition `p` in the CLU
block of cluster `c` when the event has a partition counter (R347). -/
def countN (d : Dev) (e : Ev) (inst ix c p n : Nat) : Dev :=
  let d := if e.own then ctrBump d e.kind inst e.num ix n else d
  match e.slot with
  | some j => ctrBump d .clu c j p n
  | none => d

/-- Counts an event once. -/
def count (d : Dev) (e : Ev) (inst ix c p : Nat) : Dev := countN d e inst ix c p 1

/-- Slice of a lane or port (R8). -/
def portSlice (port : Nat) : Nat := port / 16

/-- Cluster of a lane or port (R8). -/
def portCluster (port : Nat) : Nat := port / 128

/-- Events of Table 16.2, by name. -/
def Ev.plain (k : BlkKind) (n : Nat) : Ev := ⟨k, n, true, none⟩
def Ev.withPart (k : BlkKind) (n slot : Nat) : Ev := ⟨k, n, true, some slot⟩
def Ev.partOnly (k : BlkKind) (n slot : Nat) : Ev := ⟨k, n, false, some slot⟩

def evFenced := Ev.withPart .slc 3 12
def evPartQuiesce := Ev.withPart .slc 4 13
def evPartResetDrop := Ev.withPart .slc 5 14
def evCrustFlush := Ev.plain .slc 6
def evCrustNoPath := Ev.plain .slc 7
def evCrustDrop := Ev.plain .slc 8
def evQInvalid := Ev.partOnly .sch 4 15
def evMeterDrop := Ev.withPart .mtr 3 16
def evMeterSkip := Ev.withPart .mtr 4 17
def evMeterDenied := Ev.withPart .mtr 5 18
def evTableDrop := Ev.withPart .exm 0 19
def evNoAction := Ev.withPart .exm 1 20
def evTableUe := Ev.withPart .exm 2 21
def evHbmLkpBusy := Ev.withPart .exm 3 22
def evTcamMoves := Ev.plain .exm 4
def evCtrLost := Ev.partOnly .exm 5 23
def evCtrFlushes := Ev.plain .exm 6
/-- BPM events 0 to 15 hold the partition slots 24 to 39. -/
def evBpm (n : Nat) : Ev := Ev.withPart .bpm n (24 + n)
def evReplFull := Ev.partOnly .bpm 16 40
def evMirrorDenied := Ev.partOnly .bpm 17 41
def evHostDrop := Ev.partOnly .bpm 18 42
def evSporeDrop := Ev.partOnly .bpm 19 43
def evReplSkip := Ev.plain .bpm 20
/-- The FDH events are the partition slots 0 to 11 themselves. -/
def evFdh (n : Nat) : Ev := Ev.plain .fdh n

end Sys2Proof.Machine
end

