-- ==== Sys2Proof/Machine/Parse.lean ====
section
/-! DEFINITION. PA: the headers it recognises, and the parse section of the metadata record. -/
namespace Sys2Proof.Machine

/-- What PA works with: the header window, whether it holds the whole frame, the bytes before
the FCS when it does, and the settings of the slice and the port. -/
structure PaCtx where
  win     : List Byte
  whole   : Bool
  len     : Nat
  tpidX   : Nat
  fabric  : Nat
  fabEn   : Bool
  fabVer  : Nat
  vxlan   : Nat
  geneve  : Nat
  ptp     : Nat
  deriving DecidableEq, Repr

/-- What PA has found: the fields of Table 3.7 and what R63 needs beside them. -/
structure Parse where
  hv : Nat
  pend : Nat
  mal : Nat
  isFrag : Bool
  fragFirst : Bool
  innerFrag : Bool
  csumBad : Bool
  ptpEvent : Bool
  hop0 : Bool
  fabSeen : Bool
  fabFlags : Nat
  fabTc : Nat
  fabPart : Nat
  ol3 : Nat
  ol4 : Nat
  tun : Nat
  il2 : Nat
  il3 : Nat
  il4 : Nat
  oend : Nat
  tags : Nat
  ovid : Nat
  opcp : Nat
  odei : Nat
  ivid : Nat
  ipcp : Nat
  idei : Nat
  mplsN : Nat
  mplsTop : Nat
  ottl : Nat
  proto : Nat
  dscp : Nat
  ecn : Nat
  srh : Nat
  l4s : Nat
  l4d : Nat
  tunId : Nat
  il4s : Nat
  il4d : Nat
  etype : Nat
  outerIp : Option Nat
  innerIp : Option Nat
  deriving DecidableEq, Repr

/-- Nothing parsed; absent offsets read 0x1FF (R62). DEDUCED, log entry 35. -/
def Parse.start : Parse :=
  ⟨0, 0, 0, false, false, false, false, false, false, false, 0, 0, 0, 0x1FF, 0x1FF, 0x1FF, 0x1FF, 0x1FF,
   0x1FF, 0, 0, 0, 0, 0, 0, 0, 0, 0, 0, 0, 0, 0, 0, 0x1FF, 0, 0, 0, 0, 0, 0, none, none⟩

/-- Two bytes at an offset, high byte first. -/
def u16 (l : List Byte) (i : Nat) : Nat := beNat (bytesAt l i 2)
/-- One byte at an offset. -/
def u8 (l : List Byte) (i : Nat) : Nat := beNat (bytesAt l i 1)

/-- Parsing ends with a PARSE_END code (Table 3.3). -/
def Parse.stop (p : Parse) (code : Nat) : Parse := { p with pend := code }
/-- A check of Table 3.4 failed. -/
def Parse.fail (p : Parse) (reason : Nat) : Parse := { p with pend := 9, mal := reason }
/-- One more header is parsed: its HDR_VEC bit, and the first byte after it. -/
def Parse.hdr (p : Parse) (n next : Nat) : Parse := { p with hv := p.hv.lor (2 ^ n), oend := next }

/-- A header of `n` bytes at `off` that must end inside the window, or inside the bytes before
the FCS of a frame that lies wholly in it (R48, R54). -/
def fit (c : PaCtx) (p : Parse) (off n : Nat) (k : Unit → Parse) : Parse :=
  if c.whole then (if off + n ≤ c.len then k () else p.fail 6)
  else (if off + n ≤ 384 then k () else p.stop 2)

/-- The EtherType names a VLAN tag (Table 3.2). -/
def isTpid (c : PaCtx) (e : Nat) : Bool := e == 0x8100 || e == 0x88A8 || (c.tpidX != 0 && e == c.tpidX)

/-- The ones' complement sum of the 16-bit words of a header. -/
def onesSum (l : List Byte) : Nat → Nat → Nat
  | 0, s => s
  | k + 1, s => onesSum (l.drop 2) k (let t := s + beNat (l.take 2); t % 65536 + t / 65536)

/-- The header checksum of an IPv4 header is wrong (R55). -/
def csumWrong (c : PaCtx) (off ihl : Nat) : Bool := onesSum (bytesAt c.win off (4 * ihl)) (2 * ihl) 0 != 0xFFFF

/-- The inner L4 header (Table 3.2 bits 22 to 24). -/
def paInnerL4 (c : PaCtx) (p : Parse) (off proto : Nat) : Parse :=
  let ports (p : Parse) := { p with il4 := off, il4s := u16 c.win off, il4d := u16 c.win (off + 2) }
  if proto = 17 then fit c p off 8 (fun _ =>
    if u16 c.win (off + 4) < 8 then p.fail 5 else ((ports p).hdr 22 (off + 8)).stop 0)
  else if proto = 6 then fit c p off 20 (fun _ =>
    let n := u8 c.win (off + 12) / 16
    if n < 5 then p.fail 4 else fit c p off (4 * n) (fun _ => ((ports p).hdr 23 (off + 4 * n)).stop 0))
  else if proto = 1 || proto = 58 then fit c p off 8 (fun _ => (({ p with il4 := off } : Parse).hdr 24 (off + 8)).stop 0)
  else p.stop 1

/-- The next header is an IPv6 extension header (Table 3.2). -/
def isExt (nh : Nat) : Bool := nh == 0 || nh == 43 || nh == 44 || nh == 60

/-- Skips the extension headers of an inner IPv6 header: they set no bit and no offset (R50). -/
def paInnerExt (c : PaCtx) (p : Parse) (off nh : Nat) : Nat → Parse
  | 0 => if isExt nh then p.stop 5 else paInnerL4 c p off nh
  | k + 1 =>
    if isExt nh then fit c p off 8 (fun _ =>
      let n := if nh = 44 then 8 else 8 * (u8 c.win (off + 1) + 1)
      fit c p off n (fun _ =>
        if nh = 44 then
          let p := { p with innerFrag := true }
          if u16 c.win (off + 2) / 8 = 0 then paInnerExt c p (off + n) (u8 c.win off) k else p.stop 6
        else paInnerExt c p (off + n) (u8 c.win off) k))
    else paInnerL4 c p off nh

/-- The inner IP header, version 4 or 6 (Table 3.2 bits 20, 21). -/
def paInnerIp (c : PaCtx) (p : Parse) (off ver : Nat) : Parse :=
  if ver = 4 then fit c p off 20 (fun _ =>
    let ihl := u8 c.win off % 16
    let tl := u16 c.win (off + 2)
    if u8 c.win off / 16 ≠ 4 then p.fail 7
    else if ihl < 5 then p.fail 1
    else fit c p off (4 * ihl) (fun _ =>
      if tl < 4 * ihl || (c.whole && c.len - off < tl) then p.fail 2
      else
        let fr := u16 c.win (off + 6)
        let isF := bit fr 13 || fr % 8192 != 0
        let p := ({ p with il3 := off, innerIp := some tl, innerFrag := isF,
                           csumBad := p.csumBad || csumWrong c off ihl } : Parse).hdr 20 (off + 4 * ihl)
        if isF && fr % 8192 != 0 then p.stop 6 else paInnerL4 c p (off + 4 * ihl) (u8 c.win (off + 9))))
  else fit c p off 40 (fun _ =>
    let pl := u16 c.win (off + 4)
    if u8 c.win off / 16 ≠ 6 then p.fail 7
    else if c.whole && c.len - off - 40 < pl then p.fail 3
    else
      let p := ({ p with il3 := off, innerIp := some (40 + pl) } : Parse).hdr 21 (off + 40)
      paInnerExt c p (off + 40) (u8 c.win (off + 6)) 2)

/-- An IEEE 1588 header: messageType 0 to 3 is an event message (R50). `eth`: it follows the outer Ethernet header, so
OFF_OL3 names it (Table 3.7). PRESUMED, log entry 34. -/
def paPtp (c : PaCtx) (p : Parse) (off : Nat) (eth : Bool) : Parse :=
  fit c p off 34 (fun _ =>
    let p := ({ p with ptpEvent := u8 c.win off % 16 < 4, ol3 := if eth then off else p.ol3 } : Parse).hdr 17 (off + 34)
    p.stop 0)

/-- The inner IP header that an EtherType names, if it names one. -/
def paInnerType (c : PaCtx) (p : Parse) (off e : Nat) : Parse :=
  if e = 0x0800 then paInnerIp c p off 4 else if e = 0x86DD then paInnerIp c p off 6 else p.stop 1

/-- What follows the inner Ethernet header and its tag: IEEE 1588 may (Tables 3.2, 3.3). DEDUCED, log entry 142. -/
def paInnerBody (c : PaCtx) (p : Parse) (off e : Nat) : Parse :=
  if e = 0x88F7 then paPtp c p off false else paInnerType c p off e

/-- Inner Ethernet and its one tag (Table 3.2 bits 18, 19). -/
def paInnerEth (c : PaCtx) (p : Parse) (off : Nat) : Parse :=
  fit c p off 14 (fun _ =>
    let p := ({ p with il2 := off } : Parse).hdr 18 (off + 14)
    let e := u16 c.win (off + 12)
    if isTpid c e then fit c p (off + 14) 4 (fun _ =>
      let p := p.hdr 19 (off + 18)
      let e := u16 c.win (off + 16)
      if isTpid c e then p.stop 3 else paInnerBody c p (off + 18) e)
    else paInnerBody c p (off + 14) e)

/-- What follows a Geneve or GRE header, by its protocol type (R50, R52). -/
def paTunnelled (c : PaCtx) (p : Parse) (off e : Nat) : Parse :=
  if e = 0x6558 then paInnerEth c p off else paInnerType c p off e

/-- VXLAN (RFC 7348). -/
def paVxlan (c : PaCtx) (p : Parse) (off : Nat) : Parse :=
  fit c p off 8 (fun _ =>
    let p := ({ p with tun := off, tunId := beNat (bytesAt c.win (off + 4) 3) } : Parse).hdr 14 (off + 8)
    paInnerEth c p (off + 8))

/-- Geneve (RFC 8926), with at most 128 bytes of options. -/
def paGeneve (c : PaCtx) (p : Parse) (off : Nat) : Parse :=
  fit c p off 8 (fun _ =>
    let n := 4 * (u8 c.win off % 64)
    let q := ({ p with tun := off, tunId := beNat (bytesAt c.win (off + 4) 3) } : Parse).hdr 15 (off + 8)
    if 128 < n then q.stop 7
    else fit c p off (8 + n) (fun _ =>
      paTunnelled c { q with oend := off + 8 + n } (off + 8 + n) (u16 c.win (off + 2))))

/-- GRE version 0 (RFC 2784, RFC 2890); another version is not recognised. -/
def paGre (c : PaCtx) (p : Parse) (off : Nat) : Parse :=
  fit c p off 4 (fun _ =>
    let f := u16 c.win off
    if f % 8 ≠ 0 then p.stop 1
    else
      let k := 4 * b2n (bit f 15)
      let n := 4 + k + 4 * b2n (bit f 13) + 4 * b2n (bit f 12)
      fit c p off n (fun _ =>
        let key := if bit f 13 then beNat (bytesAt c.win (off + 4 + k) 4) else 0
        let p := ({ p with tun := off, tunId := key } : Parse).hdr 16 (off + n)
        paTunnelled c p (off + n) (u16 c.win (off + 2))))

/-- The outer L4 header or tunnel (Table 3.2). A fragment has nothing parsed behind its L4 header (R53). PRESUMED, log
entry 34. DESIGN CHOICE, log entry 141. DEDUCED, log entry 142. -/
def paL4 (c : PaCtx) (p : Parse) (off proto : Nat) : Parse :=
  let ports (p : Parse) := { p with ol4 := off, l4s := u16 c.win off, l4d := u16 c.win (off + 2) }
  if proto = 17 then fit c p off 8 (fun _ =>
    if u16 c.win (off + 4) < 8 then p.fail 5
    else
      let p := (ports p).hdr 10 (off + 8)
      if p.isFrag then p.stop 0
      else if p.l4d = c.vxlan then paVxlan c p (off + 8)
      else if p.l4d = c.geneve then paGeneve c p (off + 8)
      else if p.l4d = c.ptp then paPtp c p (off + 8) false
      else p.stop 0)
  else if proto = 6 then fit c p off 20 (fun _ =>
    let n := u8 c.win (off + 12) / 16
    if n < 5 then p.fail 4 else fit c p off (4 * n) (fun _ => ((ports p).hdr 11 (off + 4 * n)).stop 0))
  else if proto = 1 then fit c p off 8 (fun _ =>
    (({ p with ol4 := off, l4s := u16 c.win off } : Parse).hdr 12 (off + 8)).stop 0)
  else if proto = 58 then fit c p off 8 (fun _ =>
    (({ p with ol4 := off, l4s := u16 c.win off } : Parse).hdr 13 (off + 8)).stop 0)
  else if proto = 47 && !p.isFrag then paGre c p off
  else p.stop 1

/-- The extension headers of the outer IPv6 header: two at most (R50, R53). -/
def paExt (c : PaCtx) (p : Parse) (off nh : Nat) : Nat → Parse
  | 0 => if isExt nh then p.stop 5 else paL4 c p off nh
  | k + 1 =>
    if isExt nh then fit c p off 8 (fun _ =>
      let n := if nh = 44 then 8 else 8 * (u8 c.win (off + 1) + 1)
      fit c p off n (fun _ =>
        let next := u8 c.win off
        let p := ({ p with proto := next } : Parse).hdr (8 - k) (off + n)
        if nh = 44 then
          let first := u16 c.win (off + 2) / 8 == 0
          let p := { p with isFrag := true, fragFirst := first }
          if first then paExt c p (off + n) next k else p.stop 6
        else if nh = 43 && u8 c.win (off + 2) == 4 then
          paExt c ({ p with srh := off, hv := p.hv.lor (2 ^ 9) }) (off + n) next k
        else paExt c p (off + n) next k))
    else paL4 c p off nh

/-- The outer IP header, version 4 or 6. DEDUCED, log entry 142. -/
def paIp (c : PaCtx) (p : Parse) (off ver : Nat) : Parse :=
  if ver = 4 then fit c p off 20 (fun _ =>
    let ihl := u8 c.win off % 16
    let tl := u16 c.win (off + 2)
    if u8 c.win off / 16 ≠ 4 then p.fail 7
    else if ihl < 5 then p.fail 1
    else fit c p off (4 * ihl) (fun _ =>
      if tl < 4 * ihl || (c.whole && c.len - off < tl) then p.fail 2
      else
        let fr := u16 c.win (off + 6)
        let isF := bit fr 13 || fr % 8192 != 0
        let tos := u8 c.win (off + 1)
        let p := ({ p with ol3 := off, outerIp := some tl, isFrag := isF, fragFirst := isF && fr % 8192 == 0,
                           csumBad := csumWrong c off ihl, ottl := u8 c.win (off + 8),
                           proto := u8 c.win (off + 9), dscp := tos / 4, ecn := tos % 4 } : Parse).hdr 5 (off + 4 * ihl)
        if isF && fr % 8192 != 0 then p.stop 6 else paL4 c p (off + 4 * ihl) p.proto))
  else fit c p off 40 (fun _ =>
    let pl := u16 c.win (off + 4)
    let tc := u16 c.win off / 16 % 256
    if u8 c.win off / 16 ≠ 6 then p.fail 7
    else if c.whole && c.len - off - 40 < pl then p.fail 3
    else
      let p := ({ p with ol3 := off, outerIp := some (40 + pl), ottl := u8 c.win (off + 7),
                         proto := u8 c.win (off + 6), dscp := tc / 4, ecn := tc % 4 } : Parse).hdr 6 (off + 40)
      paExt c p (off + 40) p.proto 2)

/-- MPLS labels from the first to the bottom of the stack, eight at most (Table 3.2). -/
def paMpls (c : PaCtx) (p : Parse) (off : Nat) : Nat → Parse
  | 0 => p.stop 4
  | k + 1 => fit c p off 4 (fun _ =>
    let w := beNat (bytesAt c.win off 4)
    let p := ({ p with mplsN := p.mplsN + 1, mplsTop := if p.mplsN = 0 then w / 4096 else p.mplsTop } : Parse).hdr 3 (off + 4)
    if bit w 8 then fit c p (off + 4) 1 (fun _ =>
      let v := u8 c.win (off + 4) / 16
      if v = 4 || v = 6 then paIp c p (off + 4) v else p.stop 1)
    else paMpls c p (off + 4) k)

/-- The Pyrif fabric header (R57, R58, R60). -/
def paFabric (c : PaCtx) (p : Parse) (off : Nat) : Parse :=
  fit c p off 16 (fun _ =>
    let w0 := beNat (bytesAt c.win off 4)
    let w1 := beNat (bytesAt c.win (off + 4) 4)
    if fld w0 31 28 ≠ c.fabVer then p.stop 8
    else
      let p := ({ p with tun := off, fabSeen := true, fabFlags := fld w0 27 16, fabPart := fld w0 15 4,
                         fabTc := fld w0 3 1, hop0 := fld w1 13 8 == 0 } : Parse).hdr 4 (off + 16)
      paInnerEth c p (off + 16))

/-- What follows the outer Ethernet header and its tags. DESIGN CHOICE, log entry 141. -/
def paType (c : PaCtx) (p : Parse) (off e : Nat) : Parse :=
  let p := { p with etype := e }
  if e = 0x8847 || e = 0x8848 then paMpls c p off 8
  else if c.fabEn && e = c.fabric then paFabric c p off
  else if e = 0x0800 then paIp c p off 4
  else if e = 0x86DD then paIp c p off 6
  else if e = 0x88F7 then paPtp c p off true
  else p.stop 1

/-- The outer VLAN tags: two at most. -/
def paTags (c : PaCtx) (p : Parse) (off e : Nat) : Nat → Parse
  | 0 => if isTpid c e then ({ p with etype := e } : Parse).stop 3 else paType c p off e
  | k + 1 =>
    if isTpid c e then fit c p off 4 (fun _ =>
      let tci := u16 c.win off
      let p := if k = 1 then { p with ovid := tci % 4096, opcp := tci / 8192, odei := tci / 4096 % 2, tags := 1 }
               else { p with ivid := tci % 4096, ipcp := tci / 8192, idei := tci / 4096 % 2, tags := 2 }
      paTags c (p.hdr (2 - k) (off + 4)) (off + 4) (u16 c.win (off + 2)) k)
    else paType c p off e

/-- PA over one frame (R50 to R55). -/
def paParse (c : PaCtx) : Parse :=
  fit c .start 0 14 (fun _ => paTags c (Parse.start.hdr 0 14) 14 (u16 c.win 12) 2)

/-- The settings of a slice and port for PA, and the frame `f` with its FCS. DEDUCED, log entry 35. -/
def paCtx (d : Dev) (port : Nat) (f : List Byte) : PaCtx :=
  let b : Blk := ⟨.prs, portSlice port⟩
  ⟨f.take 384, f.length ≤ 384, f.length - 4, rdF d b .prsEtype 47 32, rdF d b .prsEtype 31 16,
   bit (rd d b .prsPort (port % 16)) 7, rdF d b .prsCfg 15 12, rdF d b .prsUdp 47 32, rdF d b .prsUdp 31 16,
   rdF d b .prsUdp 15 0⟩

/-- FRAME_LEN and LEN_SRC (R63). -/
def paLength (c : PaCtx) (p : Parse) (total mtu : Nat) : Nat × Nat :=
  if c.whole then (total, 0)
  else
    let n := match p.outerIp, p.innerIp with
      | some l, _ => some (p.ol3 + l + 4)
      | none, some l => some (p.il3 + l + 4)
      | none, none => none
    match n with
    | some l => if mtu < l then (mtu, 2) else (l, 1)
    | none => (mtu, 2)

/-- The marking for discard (R54, R55, R60). -/
def paDrop (cfg : Nat) (p : Parse) : Bool :=
  (p.pend == 9 && fld cfg 1 0 != 0) || (p.csumBad && bit cfg 4) || (p.hop0 && p.fabSeen && bit cfg 5)

/-- The parse section W0 to W6 that PA writes (Table 3.7); W7 is KB's. -/
def paWords (p : Parse) (port part len src tc colour profile : Nat) (fpart drop : Bool) (ts : DTime) : List Nat :=
  [port <<< 54 + part <<< 42 + len <<< 28 + src <<< 26 + tc <<< 20 + colour <<< 18 + profile <<< 12,
   ts.ns <<< 32 + (ts.sec % 65536) <<< 16 + p.etype,
   p.hv <<< 32 + p.pend <<< 28 + p.mal <<< 24 + b2n p.isFrag <<< 23 + b2n p.fragFirst <<< 22 + b2n p.csumBad <<< 21
     + b2n p.ptpEvent <<< 20 + b2n (p.hop0 && p.fabSeen) <<< 19 + b2n fpart <<< 18 + b2n drop <<< 17
     + b2n p.innerFrag <<< 16 + p.fabFlags <<< 4,
   p.ol3 <<< 54 + p.ol4 <<< 45 + p.tun <<< 36 + p.il2 <<< 27 + p.il3 <<< 18 + p.il4 <<< 9 + p.oend,
   p.ovid <<< 52 + p.opcp <<< 49 + p.odei <<< 48 + p.ivid <<< 36 + p.ipcp <<< 33 + p.idei <<< 32 + p.mplsN <<< 28
     + p.mplsTop <<< 8 + p.ottl,
   p.proto <<< 56 + p.dscp <<< 50 + p.ecn <<< 48 + p.srh <<< 39 + p.l4s <<< 16 + p.l4d,
   p.tunId <<< 32 + p.il4s <<< 16 + p.il4d, 0]

/-- Word `i` of the parse section. -/
def metaWord (m : List Nat) (i : Nat) : Nat := m.getD i 0
/-- A field of the parse section. -/
def metaF (m : List Nat) (i hi lo : Nat) : Nat := fld (metaWord m i) hi lo
/-- The parse section with a field replaced. -/
def setMetaF (m : List Nat) (i hi lo v : Nat) : List Nat := m.set i (putFld (metaWord m i) hi lo v)

def mPort (m : List Nat) : Nat := metaF m 0 63 54
def mPart (m : List Nat) : Nat := metaF m 0 53 42
def mLen (m : List Nat) : Nat := metaF m 0 41 28
def mLenSrc (m : List Nat) : Nat := metaF m 0 27 26
def mEpoch (m : List Nat) : Nat := metaF m 0 25 23
def mTc (m : List Nat) : Nat := metaF m 0 22 20
def mColour (m : List Nat) : Nat := metaF m 0 19 18
def mProfile (m : List Nat) : Nat := metaF m 0 17 12
def mDrop (m : List Nat) : Bool := bit (metaWord m 2) 17
def mLsHash (m : List Nat) : Nat := metaF m 7 63 32
def mFlowHash (m : List Nat) : Nat := metaF m 7 31 0

end Sys2Proof.Machine
end

