-- ==== Sys2Proof/Machine/Report.lean ====
section
/-! DEFINITION. What the device writes to the host and what it reports: rings, interrupts,
event records, error bits, violations, and events on their way to the fault collector. -/
namespace Sys2Proof.Machine

/-- The PASID that DMA for a partition carries (R286). -/
def dmaPasid (d : Dev) (p : Nat) : Option Nat :=
  let w := (part d p).pasid
  if bit w 63 then some (fld w 19 0) else none

/-- DMA of whole words for a partition. -/
def dmaWords (d : Dev) (p addr : Nat) (ws : List Nat) : Dev := send d (.dma p (dmaPasid d p) addr ws)

/-- The MSI-X table: address, and data with the vector's mask in bit 32 (R366). -/
def msixAddr (d : Dev) (v : Nat) : Nat := (SMap.get (0 : Word) d.msix (2 * v)).toNat
def msixData (d : Dev) (v : Nat) : Nat := (SMap.get (BitVec.ofNat 64 (2 ^ 32)) d.msix (2 * v + 1)).toNat

/-- Raises an MSI-X vector: a masked one sets its PBA bit (R366). PRESUMED, log entry 6. -/
def raiseVector (d : Dev) (v : Nat) : Dev :=
  if bit (msixData d v) 32 then
    { d with pba := if d.pba.contains v then d.pba else v :: d.pba }
  else send d (.msix v (msixAddr d v) (msixData d v % 2 ^ 32))

/-- The vector range of a partition: BASE and COUNT (Table 17.12). -/
def vecBase (d : Dev) (p : Nat) : Nat := fld (part d p).vec 10 0
def vecCount (d : Dev) (p : Nat) : Nat := fld (part d p).vec 43 32

/-- Raises a ring's vector and clears its moderation count (R370). -/
def raiseRing (d : Dev) (k : RingKind) (p r : Nat) : Dev :=
  let x := ring d k p r
  raiseVector (setRing d k p r { x with modn := 0 }) (vecBase d p + fld x.irq 58 48)

/-- One more record of the ring is counted; at COUNT the vector is raised (R370). DEDUCED, log entries 51 and 54. -/
def ringCounted (d : Dev) (k : RingKind) (p r : Nat) : Dev :=
  let x := ring d k p r
  if bit x.irq 63 then
    let n := x.modn + 1
    if max 1 (fld x.irq 31 16) ≤ n then raiseRing d k p r
    else setRing d k p r { x with modn := n }
  else d

/-- The free-running distance of two 32-bit indexes. -/
def idxDiff (a b : Nat) : Nat := (a + 2 ^ 32 - b) % 2 ^ 32

/-- The phase bit of entry `n` of a ring (Table 17.2). -/
def phaseBit (n log2 : Nat) : Nat := 1 - n / 2 ^ log2 % 2

/-- The ring serves records: enabled and not stopped (R369). DEDUCED, log entry 51. -/
def Ring.live (x : Ring) : Bool := x.enable && !x.stopped

/-- The common word E0 of an event record (R371). -/
def eventWord (x : Ring) (kind tag ns : Nat) : Nat :=
  phaseBit x.tail x.log2 <<< 63 + kind <<< 48 + tag <<< 32 + ns

/-- Writes an event record to event ring `r` of a partition; a full ring drops and counts
it, and a ring that is not enabled loses it (R371, R382). The Bool says that it was written. DEDUCED, log entries 50
and 51. -/
def eventTo (t : TimeState) (d : Dev) (p r kind tag e1 e2 e3 : Nat) : Dev × Bool :=
  let x := ring d .event p r
  if x.live then
    if idxDiff x.tail x.head = 2 ^ x.log2 then
      (setRing d .event p r { x with drops := satAdd (2 ^ 32 - 1) x.drops 1 }, false)
    else
      let d := dmaWords d p (x.base + 32 * (x.tail % 2 ^ x.log2)) [eventWord x kind tag t.now.ns, e1, e2, e3]
      let d := setRing d .event p r { x with tail := (x.tail + 1) % 2 ^ 32 }
      (ringCounted d .event p r, true)
  else (d, false)

/-- An event record for the manager: event ring PCI_EVT.MGR_RING of partition 0 (R371). -/
def eventMgr (t : TimeState) (d : Dev) (kind tag e1 e2 e3 : Nat) : Dev :=
  (eventTo t d 0 (rdF d (devBlk .pci) .pciEvt 1 0) kind tag e1 e2 e3).1

/-- Sets bit `n` of ERR_STATUS in page `sub` of a block; when it becomes set and is not
masked, an ERR record goes to the manager, and EVT_BASE.EN raises a vector (R39), also when the ring takes no
record. DESIGN CHOICE, log entry 168. -/
def errSetAt (t : TimeState) (d : Dev) (b : Blk) (sub n : Nat) : Dev :=
  let old := rdAt d b sub .errStatus 0
  if bit old n then d
  else
    let new := putFld old n n 1
    let d := wrAt d b sub .errStatus 0 new
    if bit (rdAt d b sub .errMask 0) n then d
    else
      let base := rdAt d b sub .errFlipC 0
      let d := eventMgr t d 0x01 (fld base 47 32) (b.kind.info.type <<< 48 + b.inst <<< 32 + sub <<< 24 + n) new 0
      if bit base 63 then raiseVector d (fld base 58 48) else d

/-- The same in the block's first page, also for a block of several pages (R41). DESIGN CHOICE, log entry 169. -/
def errSet (t : TimeState) (d : Dev) (b : Blk) (n : Nat) : Dev := errSetAt t d b 0 n

/-- An event of a class sets out for the fault collector (R266). DEDUCED, log entry 69. -/
def reportFault (d : Dev) (cls level : Nat) (b : Blk) (bitNo detail : Nat) (injected : Bool) : Dev :=
  { d with faults := d.faults ++ [⟨cls, level, b.kind.info.type, b.inst, bitNo, detail, injected⟩] }

/-- An error bit is set and its event reported. -/
def errFault (t : TimeState) (d : Dev) (b : Blk) (n cls level detail : Nat) : Dev :=
  reportFault (errSet t d b n) cls level b n detail false

/-- Counts a violation in page `sub` of a block: kind, BAR offset, count (R45, R46). DEDUCED, log entry 14. -/
def violate (t : TimeState) (d : Dev) (b : Blk) (sub kind off : Nat) : Dev :=
  let v := rdAt d b sub .violationCount 0
  let n := fld v 31 0
  let n' := satAdd (2 ^ 32 - 1) n 1
  let d := wrAt d b sub .violationCount 0 (kind <<< 60 + (off % 2 ^ 28) <<< 32 + n')
  if n' = 2 ^ 32 - 1 && n ≠ n' then
    reportFault (errSetAt t d b sub 62) 22 0 b 62 0 false
  else d

end Sys2Proof.Machine
end

