-- ==== Sys2Proof/Machine/Prot.lean ====
section
/-! DEFINITION. Protected memories: what a bad stored word does, flips, and the protection registers. -/
namespace Sys2Proof.Machine

/-- Ticks that the clock of a block's memories has run: a slice's runs while the slice is ACTIVE (R257, R259). -/
def scrubTick (t : TimeState) (d : Dev) (b : Blk) : Nat :=
  if b.kind.info.level == .slice then memGet d .scrubRun (blkUnit b) 0 else t.tick

/-- The storage key of word `w` of protected memory `m` of a block. -/
def markKey (b : Blk) (m w : Nat) : Nat := (blkKey b * 8 + m) * 2 ^ 32 + w

/-- What is wrong with a word: 0 nothing; 1 + n a single bit n; 100 uncorrectable; 301 + n a
single bit n that has been read and waits to be written back (R253, R258). -/
def mark (d : Dev) (b : Blk) (m w : Nat) : Nat := SMap.get 0 d.marks (markKey b m w)

/-- Records what is wrong with a word. -/
def setMark (d : Dev) (b : Blk) (m w v : Nat) : Dev := { d with marks := SMap.set 0 d.marks (markKey b m w) v }

/-- The word is uncorrectable. -/
def isUe (d : Dev) (b : Blk) (m w : Nat) : Bool := mark d b m w == 100

/-- The protection registers of one memory (Table 11.6). -/
inductive PReg
  | cnt | last | lap | limit | inj | ctrl | pos | start
  deriving DecidableEq, Repr

/-- Reset value of a protection register. -/
def pregReset : PReg → Nat
  | .limit => 100000
  | .ctrl => 1
  | _ => 0

/-- Index of a protection register of memory `m` of a block. -/
def pregIx (b : Blk) (m : Nat) (r : PReg) : Nat := (blkKey b * 8 + m) * 8 + r.ctorIdx

/-- A protection register of memory `m`. -/
def preg (d : Dev) (b : Blk) (m : Nat) (r : PReg) : Nat := memGetD d .prot 0 (pregIx b m r) (pregReset r)

/-- Stores a protection register of memory `m`. -/
def setPreg (d : Dev) (b : Blk) (m : Nat) (r : PReg) (v : Nat) : Dev :=
  memSetD d .prot 0 (pregIx b m r) (pregReset r) v

/-- SCRUB_CTRL of memory `m`: a scrubber that is enabled again starts a lap at word 0; a TCAM's memory 0 has a shadow
checker in its place (Table 11.6). DEDUCED, log entry 29. -/
def scrubEnable (t : TimeState) (d : Dev) (b : Blk) (m v : Nat) : Dev :=
  let on := preg d b m .ctrl = 0 && v = 1 && !(b.kind == .tcm && m == 0)
  let d := if on then setPreg (setPreg d b m .pos 0) b m .start (scrubTick t d b) else d
  setPreg d b m .ctrl v

/-- An error found in a word: counted, recorded, and reported to the collector; HBM words go
under the HBM classes with bit HBM_CE or HBM_UE (R253, R264). `errBit` is the block error bit
that latches too. DEDUCED, log entry 120. -/
def wordError (t : TimeState) (d : Dev) (b : Blk) (m w : Nat) (ue : Bool) (bitNo : Nat)
    (errBit : Option Nat) : Dev :=
  let c := preg d b m .cnt
  let c := if ue then putFld c 63 32 (satAdd (2 ^ 32 - 1) (fld c 63 32) 1)
           else putFld c 31 0 (satAdd (2 ^ 32 - 1) (fld c 31 0) 1)
  let d := setPreg d b m .cnt c
  let j := preg d b m .inj
  let hit := bit j 63 && fld j 31 0 == w && !bit j 40
  let d := if hit then setPreg d b m .inj (putFld j 40 40 1) else d
  let last := 2 ^ 63 + b2n ue <<< 62 + b2n hit <<< 61 + (if ue then 0x7F else bitNo) <<< 32 + w
  let d := setPreg d b m .last last
  let d := match errBit with
    | some n => errSet t d b n
    | none => d
  let hbm := b.kind == .hbm
  reportFault d (if hbm then (if ue then 3 else 2) else (if ue then 1 else 0)) (b2n ue) b (errBit.getD 0) w hit

/-- The HBM block that serves a cluster: on an H4 the stack of the even cluster (R3, R234). The traffic of
an odd cluster reaches it whatever the state of the pair between the two dies. DESIGN CHOICE, log entry 145. -/
def stackFor (d : Dev) (c : Nat) : Blk := ⟨.hbm, if d.h4 then c / 2 * 2 else c⟩

/-- TABLE_GIB as it acts (Table 10.12). -/
def tableGib (d : Dev) (h : Blk) : Nat :=
  let v := rdF d h .hbmRegion 3 0
  let v := max (if d.h4 then 4 else 2) (min 8 v)
  if d.h4 then v / 2 * 2 else v

/-- Table pseudo-channels of a stack: 336 MiB of data each, and at least 17 (R236). -/
def hbmNt (d : Dev) (h : Blk) : Nat := max 17 (ceilDiv (tableGib d h * 1024) 336)

/-- The pseudo-channel of a word of the table region, and the word in it: units of 256 bytes in turn (R236). -/
def tablePlace (d : Dev) (h : Blk) (w : Nat) : Nat × Nat :=
  (w / 32 % hbmNt d h, w / 32 / hbmNt d h * 32 + w % 32)

/-- The row of a word of a stack. -/
def hbmRowOf (d : Dev) (h : Blk) (m w : Nat) : Nat :=
  let x := tablePlace d h w
  if m = 0 then Config.hbmRow x.1 x.2 else Config.spillRow (w / 512) (w % 512)

/-- A corrected error is counted in its row of the stack; three within a lap have the row replaced at the next
training (R246). DESIGN CHOICE, log entry 160. -/
def rowError (d : Dev) (b : Blk) (m w : Nat) : Dev :=
  let r := hbmRowOf d b m w % 2 ^ 32
  memSet d .hbmRows b.inst r (min 3 (memGet d .hbmRows b.inst r + 1))

/-- A scrub lap of the stack begins: rows are counted anew, but for those to be replaced. -/
def rowLap (d : Dev) (h : Nat) : Dev :=
  { d with mem := d.mem.filter (fun e => !(e.1 / 2 ^ 32 == memKey .hbmRows h 0 / 2 ^ 32 && e.2 < 3)) }

/-- A read of a word by its consumer (R253): whether the word is uncorrectable, and the state. DEDUCED, log entry 120. -/
def readWord (t : TimeState) (d : Dev) (b : Blk) (m w : Nat) (errBit : Option Nat := none) : Bool × Dev :=
  let k := mark d b m w
  if k = 0 then (false, d)
  else if k = 100 then (true, wordError t d b m w true 0 errBit)
  else
    let n := (k - 1) % 300
    let d := if b.kind == .hbm then rowError d b m w else d
    (false, setMark (wordError t d b m w false n (if b.kind == .hbm then some 0 else none)) b m w (301 + n))

/-- A consumer reads the words `ws` of a memory: whether one is uncorrectable, and the state (R253). -/
def readWords (t : TimeState) (d : Dev) (b : Blk) (m : Nat) (ws : List Nat) (errBit : Option Nat := none) : Bool × Dev :=
  ws.foldl (fun x w =>
    let y := readWord t x.2 b m w errBit
    (x.1 || y.1, y.2)) (false, d)

/-- The words of a memory that a read would find damaged, among those a consumer reads. -/
def badWords (d : Dev) (b : Blk) (m : Nat) (sel : Nat → Bool) : List (Blk × Nat × Nat) :=
  (d.marks.filter (fun x => x.1 / 2 ^ 32 == blkKey b * 8 + m && x.2 != 200 && sel (x.1 % 2 ^ 32))).map
    (fun x => (b, m, x.1 % 2 ^ 32))

/-- A consumer reads `n` words from `lo`, of which only damaged ones matter: those that are uncorrectable, and the
state (R253). -/
def readSpan (t : TimeState) (d : Dev) (b : Blk) (m lo n : Nat) (errBit : Option Nat := none) : List Nat × Dev :=
  (badWords d b m (fun w => lo ≤ w && w < lo + n)).foldl (fun s x =>
    let (u, d) := readWord t s.2 b m x.2.2 errBit
    (if u then s.1 ++ [x.2.2] else s.1, d)) ([], d)

/-- The error bit that a table word latches: HBM_UE for a word of a stack (Table 11.5). -/
def tableBit (b : Blk) : Option Nat := if b.kind == .hbm then some 1 else none

/-- A lookup reads damaged words: whether one is uncorrectable, and the state, in which the location of
each such word is non-matching until a change rewrites it (R90, R253). -/
def hurtWords (t : TimeState) (d : Dev) (l : List (Blk × Nat × Nat)) : Bool × Dev :=
  l.foldl (fun s x =>
    let (u, d) := readWord t s.2 x.1 x.2.1 x.2.2 (tableBit x.1)
    (s.1 || u, if u then setMark d x.1 x.2.1 x.2.2 200 else d)) (false, d)

/-- A consumer reads one word of a stored record: corrections and errors are counted and reported (R253). -/
def touch (t : TimeState) (d : Dev) (b : Blk) (m w : Nat) : Dev := (readWord t d b m w).2

/-- Set bits among the lowest `w` bits. -/
def popcount (n w : Nat) : Nat := (setBits n w).length

/-- The page of a block whose flip is armed on memory `m`, if one is (R260). -/
def armedPage (d : Dev) (b : Blk) (m : Nat) : Option Nat :=
  findFirst (fun s => bit (rdAt d b s .errFlipC 0) 31 && fld (rdAt d b s .errFlipC 0) 23 16 == m)
    (upto 0 b.kind.info.span)

/-- A data write of word `w` of memory `m`: what was wrong with the word goes, and an armed
flip is consumed (R260). A word with three or more flipped bits may be detected, miscorrected
or undetected; a free value decides (R252). -/
def writeWord (d : Dev) (b : Blk) (m w : Nat) : Dev :=
  match armedPage d b m with
  | none => setMark d b m w 0
  | some s =>
    let c := rdAt d b s .errFlipC 0
    let dm := rdAt d b s .errFlipD 0
    let d := wrAt d b s .errFlipC 0 (putFld c 31 31 0)
    let d := setPreg d b m .inj (2 ^ 63 + w)
    let n := popcount dm 64 + popcount (fld c 7 0) 8
    if n = 0 then setMark d b m w 0
    else if n = 1 then
      setMark d b m w (1 + ((setBits dm 64).head?.getD (64 + (setBits (fld c 7 0) 8).head?.getD 0)))
    else if n = 2 then setMark d b m w 100
    else
      let (v, d) := fresh d
      setMark d b m w (match v % 3 with | 0 => 0 | 1 => 1 + v / 3 % 72 | _ => 100)

/-- A data write of `n` words from `lo`: what was wrong with them goes, and the first takes an armed flip (R260). -/
def writeSpan (d : Dev) (b : Blk) (m lo n : Nat) : Dev :=
  if n = 0 then d
  else
    writeWord { d with marks := SMap.drop (fun k => k / 2 ^ 32 == blkKey b * 8 + m && lo ≤ k % 2 ^ 32 && k % 2 ^ 32 < lo + n) d.marks }
      b m lo

/-- A narrow write of one word (R254): the merged word takes an armed flip (R260). -/
def mergeWord (t : TimeState) (d : Dev) (b : Blk) (m w : Nat) (errBit : Option Nat := tableBit b) : Dev :=
  if mark d b m w = 200 then d
  else
    let (u, d) := readWord t d b m w errBit
    if u then d else writeWord d b m w

/-- An update of fields of a record whose word was read: the whole word is written, but an uncorrectable one stays as it
is until all of it is (Table 11.2). -/
def recWrite (d : Dev) (b : Blk) (m w : Nat) : Dev := if isUe d b m w then d else writeWord d b m w

/-- A stored configuration record acts as zero while its word is uncorrectable (Table 11.2). -/
def okRec (d : Dev) (b : Blk) (m w v : Nat) : Nat := if isUe d b m w then 0 else v

/-- First word of a cluster's share of its stack's table region: on an H4 the odd cluster's is the second
half (R237). -/
def shareBase (d : Dev) (c : Nat) : Nat := if d.h4 && c % 2 = 1 then tableGib d (stackFor d c) * 2 ^ 26 else 0

/-- First word of the image area of a cluster's share (Table 10.3). -/
def imageWord (d : Dev) (c : Nat) : Nat := shareBase d c + 3 * 2 ^ 26

/-- A word of a stack's table region lies in the FLOW table of a share (Table 10.3). -/
def flowWord (d : Dev) (h : Blk) (w : Nat) : Bool := (if d.h4 then w % (tableGib d h * 2 ^ 26) else w) < 2 ^ 27

end Sys2Proof.Machine
end

