-- ==== Sys2Proof/Machine/KeyBuild.lean ====
section
/-! DEFINITION. KB: the extraction instructions, the keys, and both hashes. -/
namespace Sys2Proof.Machine

/-- Word number of an extraction instruction in a slice's descriptor memory. -/
def kbIx (profile key instr : Nat) : Nat := (profile * 16 + key) * 16 + instr

/-- An extraction instruction (Table 3.8). -/
def kbInstr (d : Dev) (slice profile key instr : Nat) : Nat := memGet d .prsKb slice (kbIx profile key instr)

/-- Byte `j` of the parse section (R62). -/
def metaByte (m : List Nat) (j : Nat) : Byte :=
  BitVec.ofNat 8 (metaWord m (j / 8) >>> (8 * (j % 8)))

/-- The offset that BASE names; 0x1FF is absent (Table 3.8). -/
def kbBase (m : List Nat) : Nat → Nat
  | 0 => 0
  | 1 => metaF m 3 62 54
  | 2 => metaF m 3 53 45
  | 3 => metaF m 3 44 36
  | 4 => metaF m 3 35 27
  | 5 => metaF m 3 26 18
  | 6 => metaF m 3 17 9
  | _ => metaF m 3 8 0

/-- The bytes that an instruction reads before its masks. `ls` is true for the load-spreading key (R66). -/
def kbRaw (m : List Nat) (win : List Byte) (ls : Bool) (w : Nat) : List Byte :=
  let n := fld w 49 43
  let off := fld w 58 50
  match fld w 63 62 with
  | 1 => (upto off n).map (fun j => if j < 64 then metaByte m j else 0)
  | 2 =>
    let base := kbBase m (fld w 61 59)
    let frag := ls && ((fld w 61 59 == 2 && bit (metaWord m 2) 23) || (fld w 61 59 == 6 && bit (metaWord m 2) 16))
    if (base == 0x1FF && fld w 61 59 != 0) || frag then List.replicate n 0
    else bytesAt win (base + off) n
  | 3 => List.replicate n (BitVec.ofNat 8 (fld w 15 8))
  | _ => []

/-- HEAD_MASK on the first byte and TAIL_MASK on the last (R66). -/
def kbMask (w : Nat) (l : List Byte) : List Byte :=
  let h := BitVec.ofNat 8 (fld w 31 24)
  let t := BitVec.ofNat 8 (fld w 23 16)
  let l := match l with
    | [] => []
    | b :: r => (b &&& h) :: r
  match l.reverse with
  | [] => []
  | b :: r => ((b &&& t) :: r).reverse

/-- The value that an instruction extracts. -/
def kbExtract (m : List Nat) (win : List Byte) (ls : Bool) (w : Nat) : List Byte := kbMask w (kbRaw m win ls w)

/-- Instructions of one key, in order. -/
def kbInstrs (d : Dev) (slice profile key : Nat) : List Nat :=
  (upto 0 16).map (kbInstr d slice profile key)

/-- Places an instruction's value in the key; an instruction with SRC 0 does nothing. -/
def kbPlace (key : List Byte) (w : Nat) (v : List Byte) : List Byte :=
  if fld w 63 62 = 0 then key else overwrite key (fld w 42 36) v

/-- Key K0 to K12 (R66). -/
def kbKey (m : List Nat) (win : List Byte) (ws : List Nat) : List Byte :=
  ws.foldl (fun k w => kbPlace k w (kbExtract m win false w)) (List.replicate 80 0)

/-- Two instructions form a symmetric pair (R69). -/
def kbPair (a b : Nat) : Bool :=
  fld a 35 34 == 1 && fld a 63 62 != 0 && fld b 35 34 == 2 && fld b 63 62 != 0 && fld a 49 43 == fld b 49 43

/-- The load-spreading key (R69). The number bounds the instructions left. -/
def kbLsKey (m : List Nat) (win : List Byte) : List Nat → List Byte → Nat → List Byte
  | _, key, 0 => key
  | [], key, _ => key
  | [a], key, _ => kbPlace key a (kbExtract m win true a)
  | a :: b :: r, key, n + 1 =>
    let va := kbExtract m win true a
    if kbPair a b then
      let vb := kbExtract m win true b
      let (lo, hi) := if beNat vb < beNat va then (vb, va) else (va, vb)
      kbLsKey m win r (kbPlace (kbPlace key a lo) b hi) n
    else kbLsKey m win (b :: r) (kbPlace key a va) n

/-- The partition tag as two bytes (R68). -/
def tagBytes (p : Nat) : List Byte := toBe 2 (p % 4096)

/-- The flow hash (R68). -/
def flowHash (p : Nat) (k0 : List Byte) : Nat := crc32c 0xFFFFFFFF (tagBytes p ++ k0)

/-- LS_SEED of a slice (Table 3.13). -/
def lsSeed (d : Dev) (slice : Nat) : Nat := rdF d ⟨.prs, slice⟩ .prsSeed 31 0

/-- The fixed key of Crust mode (R71). -/
def crustKey (m : List Nat) (win : List Byte) : List Byte :=
  let place (k : List Byte) (i j : Nat) (a b : List Byte) :=
    let (lo, hi) := if beNat b < beNat a then (b, a) else (a, b)
    overwrite (overwrite k i lo) j hi
  let k := place (List.replicate 80 0) 0 6 (bytesAt win 6 6) (bytesAt win 0 6)
  let hv := metaF m 2 63 32
  let ol3 := metaF m 3 62 54
  let k := if bit hv 5 then place k 12 16 (bytesAt win (ol3 + 12) 4) (bytesAt win (ol3 + 16) 4)
    else if bit hv 6 then place k 12 28 (bytesAt win (ol3 + 8) 16) (bytesAt win (ol3 + 24) 16) else k
  let k := overwrite k 44 (toBe 1 (metaF m 5 63 56))
  if !bit (metaWord m 2) 23 && (bit hv 10 || bit hv 11) then
    place k 45 47 (toBe 2 (metaF m 5 31 16)) (toBe 2 (metaF m 5 15 0))
  else k

/-- LS_HASH of Crust mode (R71). -/
def crustHash (d : Dev) (slice : Nat) (m : List Nat) (win : List Byte) : Nat :=
  crc32c (lsSeed d slice) (crustKey m win)

/-- The key profile that the PRS_PSEL entries select (R65). An entry whose stored words are
uncorrectable acts as invalid. -/
def selectProfile (d : Dev) (slice port hv pend : Nat) : Nat :=
  let b : Blk := ⟨.prs, slice⟩
  let ok (i : Nat) : Bool :=
    let a := rd d b .prsPselA i
    let e := rd d b .prsPselB i
    bit e 63 && (hv.land (fld a 63 32) == (fld a 31 0).land (fld a 63 32))
      && (pend.land (fld e 19 16) == (fld e 23 20).land (fld e 19 16)) && bit (fld e 47 32) (port % 16)
  match findFirst ok (upto 0 32) with
  | some i => rdF d b .prsPselB 5 0 i
  | none => rdF d b .prsCfg 21 16

/-- The profile is DEF_PROFILE or that of a valid PRS_PSEL entry of the slice (R75). -/
def profileNamed (d : Dev) (slice profile : Nat) : Bool :=
  let b : Blk := ⟨.prs, slice⟩
  rdF d b .prsCfg 21 16 == profile
    || (upto 0 32).any (fun i => bit (rd d b .prsPselB i) 63 && rdF d b .prsPselB 5 0 i == profile)

/-- The profile is in use: it is named, or it was within the last 64 clocks (R75). DESIGN CHOICE, log entry 135. -/
def profileInUse (d : Dev) (slice profile : Nat) : Bool :=
  profileNamed d slice profile || memGet d .prsUsed slice profile != 0

/-- `new` with 64 clocks to go for each profile of the slice that `old` names and it does not (R75). DESIGN CHOICE, log
entry 135. -/
def profilesLeft (old new : Dev) (slice : Nat) : Dev :=
  (upto 0 64).foldl (fun d p =>
    if profileNamed old slice p && !profileNamed new slice p then memSet d .prsUsed slice p 64 else d) new

/-- One clock less for the profiles that are in use though no longer named (R75). DESIGN CHOICE, log entry 135. -/
def profilesAged (d : Dev) : Dev :=
  { d with mem := d.mem.filterMap (fun e =>
      if memKey .prsUsed 0 0 ≤ e.1 && e.1 < memKey .prsUsed 64 0 then (if e.2 ≤ 1 then none else some (e.1, e.2 - 1)) else some e) }

/-- The descriptor window after an access: INSTR, then KEY, then PROFILE advance (Table 3.15). -/
def kbAdvance (a : Nat) : Nat :=
  if bit a 63 then
    let i := fld a 3 0
    let k := fld a 7 4
    let p := fld a 13 8
    if i < 15 then putFld a 3 0 (i + 1)
    else if k < 13 then putFld (putFld a 3 0 0) 7 4 (k + 1)
    else putFld (putFld (putFld a 3 0 0) 7 4 0) 13 8 (p + 1)
  else a

/-- A 64-bit write of PRS_KB_DATA; none when it is not permitted (R75, Table 3.15). -/
def writeKb (d : Dev) (slice w : Nat) : Option Dev :=
  let b : Blk := ⟨.prs, slice⟩
  let a := rd d b .prsKbAddr
  let n := fld w 49 43
  if 13 < fld a 7 4 || profileInUse d slice (fld a 13 8)
      || (fld w 63 62 != 0 && (n == 0 || 80 < fld w 42 36 + n)) then none
  else
    let i := kbIx (fld a 13 8) (fld a 7 4) (fld a 3 0)
    some (wr (writeWord (memSet d .prsKb slice i w) b 0 i) b .prsKbAddr (kbAdvance a))

/-- What KB gives a frame: its parse section with EPOCH and the hashes, its keys K0 to K12, and
whether an instruction it needed was uncorrectable. -/
structure Keys where
  sect : List Nat
  keys : List (List Byte)
  ue   : Bool
  deriving DecidableEq, Repr

/-- The words of the descriptor memory that a profile uses. -/
def kbWords (profile : Nat) : List Nat :=
  (upto 0 14).flatMap (fun k => (upto 0 16).map (kbIx profile k))

/-- KB over one frame, whose header window is its first 384 bytes (R48, R66 to R72). -/
def keyBuild (d : Dev) (slice epoch : Nat) (m : List Nat) (win : List Byte) : Keys :=
  let pr := mProfile m
  let win := win.take 384
  let bad := (kbWords pr).any (fun i => isUe d ⟨.prs, slice⟩ 0 i)
  let m := setMetaF m 0 25 23 epoch
  let keys := (upto 0 13).map (fun k => kbKey m win (kbInstrs d slice pr k))
  let ls := kbLsKey m win (kbInstrs d slice pr 13) (List.replicate 80 0) 16
  let m := setMetaF (setMetaF m 7 31 0 (flowHash (mPart m) (keys.headD []))) 7 63 32 (crc32c (lsSeed d slice) ls)
  let m := if bad then setMetaF m 2 17 17 1 else m
  ⟨m, keys, bad⟩

end Sys2Proof.Machine
end

