-- ==== Sys2Proof/Machine/Edit.lean ====
section
/-! DEFINITION. The edit engine: microwords, and what a program does to the head of a frame. -/
namespace Sys2Proof.Machine

/-- A word of a slice's edit store: the golden word with what is flipped in the slice's copy (R158, R176). -/
def storeWord (d : Dev) (slice w : Nat) : Nat :=
  (memGet d .edtStore 0 w).xor (fld (memGet d .edtBad slice w) 63 0)

/-- The quarters of a slice's word that fail parity (R159): Q0 with an odd number of flipped
bits, data and parity bit together, and each other quarter with a flipped parity bit. -/
def parityBad (d : Dev) (slice w : Nat) : Nat :=
  let m := memGet d .edtBad slice w
  let par := fld m 67 64
  let q0 := (popcount (fld m 63 0) 64 + par % 2) % 2
  q0 + par / 2 * 2

/-- A directory entry (Table 7.16). Program 0 reads ACTIVE. -/
def progEntry (d : Dev) (p : Nat) : Nat := if p = 0 then 1 <<< 62 else memGet d .edtProg 0 p
def progState (d : Dev) (p : Nat) : Nat := fld (progEntry d p) 63 62
def progLen (d : Dev) (p : Nat) : Nat := fld (progEntry d p) 45 32
def progStart (d : Dev) (p : Nat) : Nat := fld (progEntry d p) 12 0
/-- NEEDS_LEN: the program contains LENFIX (R165). -/
def progNeedsLen (d : Dev) (p : Nat) : Bool := bit (progEntry d p) 61

/-- The working image of a frame's head: received bytes with their current values, which of
them are removed, the inserted blocks in order, the block of each insert handle, and flags. -/
structure Work where
  orig    : List Byte
  rx      : List Byte
  gone    : List Bool
  blocks  : List (Nat × List Byte)
  handles : SMap Nat
  under   : Bool
  skipped : Bool
  lenfix  : Bool
  deriving DecidableEq, Repr

/-- What the edit knows beside the head: the metadata bytes, its flags, the bytes of the frame
beyond the head without the FCS as the program counts them, and `lay`, how the frame is laid out at the end,
once that is known. -/
structure EdCtx where
  sect  : List Nat
  md    : List Byte
  flags : Nat
  tail  : Nat
  lay   : Option Work
  deriving DecidableEq, Repr

/-- A position: in the received frame, or in an inserted block. -/
inductive Pos
  | frame (p : Nat)
  | block (b p : Nat)
  deriving DecidableEq, Repr

/-- The offset of base code 1 to 7 in the parse section (Table 7.7). -/
def edBase (x : EdCtx) (code : Nat) : Option Nat :=
  if code = 0 then some 0
  else
    let o := kbBase x.sect code
    if o = 0x1FF then none else some o

/-- The position that a base code and an offset name; none is an absent base (R161). -/
def edPos (x : EdCtx) (w : Work) (code off : Nat) : Option Pos :=
  if code < 8 then (edBase x code).map (fun b => .frame (b + off))
  else
    let b := SMap.get w.blocks.length w.handles (code - 8)
    if b < w.blocks.length then some (.block b off) else none

/-- Bytes in the head that operations may touch: H (R161). -/
def Work.h (w : Work) : Nat := w.rx.length

/-- Bytes of an inserted block. -/
def Work.block (w : Work) (b : Nat) : List Byte := (w.blocks.getD b (0, [])).2

/-- Reads `n` bytes at a position; none when a byte lies beyond H or beyond its block. -/
def edRead (w : Work) (p : Pos) (n : Nat) : Option (List Byte) :=
  match p with
  | .frame i => if i + n ≤ w.h then some (bytesAt w.rx i n) else none
  | .block b i => if i + n ≤ (w.block b).length then some (bytesAt (w.block b) i n) else none

/-- Writes bytes at a position that can be read; a removed byte does not change (R160). -/
def edWrite (w : Work) (p : Pos) (v : List Byte) : Work :=
  match p with
  | .frame i =>
    let new := overwrite w.rx i v
    { w with rx := (new.zip (w.rx.zip w.gone)).map (fun x => if x.2.2 then x.2.1 else x.1) }
  | .block b i => { w with blocks := w.blocks.set b ((w.blocks.getD b (0, [])).1, overwrite (w.block b) i v) }

/-- The operation is skipped (R161). -/
def edSkip (w : Work) : Work := { w with skipped := true }

/-- A position further on. -/
def Pos.add (p : Pos) (n : Nat) : Pos :=
  match p with
  | .frame i => .frame (i + n)
  | .block b i => .block b (i + n)

/-- Surviving received bytes before a frame position. -/
def survivors (w : Work) (p : Nat) : Nat := countIf (fun g => !g) (w.gone.take p)

/-- Where the byte at a position stands in the assembled frame (R160). -/
def finalPos (w : Work) (p : Pos) : Nat :=
  match p with
  | .frame i => survivors w i + ((w.blocks.filter (fun b => b.1 ≤ i)).map (fun b => b.2.length)).sum
  | .block b i =>
    let at' := (w.blocks.getD b (0, [])).1
    survivors w at'
      + (((w.blocks.zip (upto 0 w.blocks.length)).filter
            (fun x => x.1.1 < at' || (x.1.1 == at' && x.2 < b))).map (fun x => x.1.2.length)).sum + i

/-- The assembled head: at each position its blocks, then the received byte if it survives (R160). DEDUCED, log entry
39. -/
def assemble (w : Work) : List Byte :=
  (upto 0 (w.h + 1)).flatMap (fun p =>
    (w.blocks.filter (fun b => b.1 == p)).flatMap (fun b => b.2)
      ++ (if w.gone.getD p true then [] else [w.rx.getD p 0]))

/-- Source bytes of a microword (Table 7.4); data words come with `dat`. None is out of range. -/
def edSource (x : EdCtx) (w : Work) (mw n : Nat) (dat : List Byte) : Option (List Byte) :=
  match fld mw 107 105 with
  | 0 => some (bytesAt (toBe 8 (fld mw 63 0)) 0 n)
  | 1 => some (bytesAt x.md (72 + fld mw 100 92) n)
  | 2 => some (bytesAt x.md (fld mw 100 92) n)
  | 3 => (edPos x w (fld mw 104 101) (fld mw 100 92)).bind (fun p => edRead w p n)
  | _ => some (bytesAt dat 0 n)

/-- The lowest set bit of a mask. -/
def lowBit (m : Nat) : Nat := (findFirst (bit m) (upto 0 32)).getD 0

/-- The one's-complement sum folded to 16 bits. -/
def fold16 (s : Nat) : Nat := let t := s % 65536 + s / 65536; t % 65536 + t / 65536

/-- The changes of the words that an L4 checksum covers: the addresses of the IP header in
front and the first 20 bytes of the L4 header, its checksum apart (R162). -/
def l4Delta (w : Work) (places : List Nat) (csumAt : Nat) : Nat :=
  (places.filter (fun p => p ≠ csumAt && p + 2 ≤ w.h)).foldl
    (fun s p => fold16 (s + (65535 - u16 w.orig p) + u16 w.rx p)) 0

/-- CSUM (Table 7.5, R162). DEDUCED, log entries 36 and 38. PRESUMED, log entry 37. -/
def edCsum (x : EdCtx) (w : Work) (mw : Nat) : Work :=
  let code := fld mw 127 124
  match edPos x w code (fld mw 123 115) with
  | none => edSkip w
  | some p =>
    match fld mw 91 87 with
    | 0 =>
      match edRead w p 1 with
      | none => edSkip w
      | some b =>
        let n := 4 * (beNat b % 16)
        match edRead w p n, edRead w (p.add 10) 2 with
        | some h, some _ =>
          let z := if 12 ≤ n then overwrite h 10 [0, 0] else h
          edWrite w (p.add 10) (toBe 2 (65535 - onesSum z (n / 2) 0))
        | _, _ => edSkip w
    | 1 => if (edRead w (p.add 6) 2).isSome then edWrite w (p.add 6) [0, 0] else edSkip w
    | a =>
      if (code ≠ 2 && code ≠ 6) || fld mw 123 115 ≠ 0 then edSkip w
      else
        let l4 := kbBase x.sect code
        let ip := kbBase x.sect (if code = 2 then 1 else 5)
        let four := bit (metaF x.sect 2 63 32) (if code = 2 then 5 else 20)
        let at' := l4 + (if a = 2 then 6 else 16)
        match edRead w (.frame at') 2 with
        | none => edSkip w
        | some c =>
          if a = 2 && four && beNat c = 0 then w
          else
            let addrs := if four then (upto 0 4).map (fun k => ip + 12 + 2 * k)
                         else (upto 0 16).map (fun k => ip + 8 + 2 * k)
            let s := l4Delta w (addrs ++ (upto 0 10).map (fun k => l4 + 2 * k)) at'
            let v := 65535 - fold16 (65535 - beNat c + s)
            edWrite w (.frame at') (toBe 2 (if a = 2 && v = 0 then 65535 else v))

/-- LENFIX (Table 7.5): lengths in the final frame, without the FCS; a run that does not know its layout yet counts
as it is laid out now, and is run again. DEDUCED, log entry 36. -/
def edLenfix (x : EdCtx) (w : Work) (mw : Nat) : Work :=
  match edPos x w (fld mw 127 124) (fld mw 123 115) with
  | none => edSkip w
  | some p =>
    let fin := x.lay.getD w
    let total := (assemble fin).length + x.tail
    let a := fld mw 91 87
    let (at', from') := if a = 0 then (2, 0) else if a = 1 then (4, 40) else (4, 0)
    if (edRead w (p.add at') 2).isSome then
      { edWrite w (p.add at') (toBe 2 (total - (finalPos fin p + from'))) with lenfix := true }
    else edSkip w

/-- One operation (Table 7.5). -/
def edOp (x : EdCtx) (w : Work) (mw : Nat) (dat : List Byte) : Work :=
  let n := fld mw 114 108
  let dst := edPos x w (fld mw 127 124) (fld mw 123 115)
  match fld mw 255 252 with
  | 0 => w
  | 1 =>
    match dst, edSource x w mw n dat with
    | some p, some v =>
      if (edRead w p n).isSome then edWrite w p (if bit mw 87 then v.reverse else v) else edSkip w
    | _, _ => edSkip w
  | 2 =>
    match dst, edSource x w mw n dat with
    | some (.frame p), some v =>
      if p ≤ w.h && (w.blocks.map (fun b => b.2.length)).sum + n ≤ 128 then
        { w with handles := SMap.insert w.handles (fld mw 86 84) w.blocks.length, blocks := w.blocks ++ [(p, v)] }
      else edSkip w
    | _, _ => edSkip w
  | 3 =>
    match dst, edPos x w (fld mw 104 101) (fld mw 100 92) with
    | some (.frame p), some (.frame s) =>
      if s ≤ p then w
      else if s ≤ w.h then
        { w with gone := (w.gone.zip (upto 0 w.h)).map (fun g => g.1 || (p ≤ g.2 && g.2 < s)) }
      else edSkip w
    | _, _ => edSkip w
  | 4 =>
    match dst with
    | some p =>
      match edRead w p n with
      | some b =>
        let m := fld mw 31 0
        let sh := lowBit m
        let v := (beNat b).land m >>> sh
        let arg := fld mw 91 87
        let v' := if v ≤ arg then 0 else v - arg
        let f := beNat b - (beNat b).land m + (v' <<< sh)
        { edWrite w p (toBe n f) with under := v ≤ arg }
      | none => edSkip w
    | none => edSkip w
  | 5 => edCsum x w mw
  | 6 => edLenfix x w mw
  | 7 =>
    match dst, edSource x w mw n dat with
    | some p, some s =>
      match edRead w p n with
      | some b =>
        let m := fld mw 63 32
        let v := match fld mw 107 105 with
          | 0 => fld mw 31 0
          | 2 => leNat s
          | _ => beNat s
        let m' := m % 2 ^ (8 * n)
        edWrite w p (toBe n (beNat b - (beNat b).land m' + v.land m'))
      | none => edSkip w
    | _, _ => edSkip w
  | _ => w

/-- A flag as a branch tests it (Table 7.8). -/
def edFlag (x : EdCtx) (w : Work) (f : Nat) : Bool :=
  if f = 43 then w.under else if f = 47 then w.skipped else bit x.flags f

/-- The compare of BR_CMP (R159). DEDUCED, log entry 36. -/
def edCmp (x : EdCtx) (w : Work) (mw : Nat) : Bool :=
  let n := fld mw 212 211 + 1
  let off := fld mw 221 213
  let field := if bit mw 226 then some (leNat (bytesAt x.md off n))
    else ((edPos x w (fld mw 225 222) off).bind (fun p => edRead w p n)).map beNat
  match field with
  | none => false
  | some v =>
    let m := fld mw 159 128
    let a := v.land m
    let b := (fld mw 191 160).land m
    match fld mw 229 227 with
    | 0 => a == b
    | 1 => a != b
    | 2 => a < b
    | _ => b ≤ a

/-- How a run of the edit engine ends. -/
inductive EdEnd
  | done | drop | steps | check (word quarters : Nat)
  deriving DecidableEq, Repr

/-- The data words of a microword (R163). -/
def dataWords (mw : Nat) : Nat :=
  let op := fld mw 255 252
  if fld mw 107 105 = 4 && (op = 1 || op = 2 || op = 7) then ceilDiv (fld mw 114 108) 32 else 0

/-- Runs at most `k` microwords from word `a` of a program (R160 to R163); a parity error
found at fetch ends the run (R172). -/
def edRun (d : Dev) (slice start : Nat) (x : EdCtx) : Nat → Nat → Work → EdEnd × Work
  | 0, _, w => (.steps, w)
  | k + 1, a, w =>
    let mw := storeWord d slice (start + a)
    let dn := dataWords mw
    match findFirst (fun i => parityBad d slice (start + i) != 0) (upto a (dn + 1)) with
    | some i => (.check (start + i) (parityBad d slice (start + i)), w)
    | none =>
      let dat := (upto (a + 1) dn).flatMap (fun i => toBe 32 (storeWord d slice (start + i)))
      let w := edOp x w mw dat
      let next := a + 1 + dn
      let tgt := fld mw 248 236
      match fld mw 251 249 with
      | 0 => edRun d slice start x k next w
      | 1 => edRun d slice start x k tgt w
      | 2 => edRun d slice start x k (if edFlag x w (fld mw 235 230) then tgt else next) w
      | 3 => edRun d slice start x k (if edFlag x w (fld mw 235 230) then next else tgt) w
      | 4 => edRun d slice start x k (if edCmp x w mw then tgt else next) w
      | 5 => (.done, w)
      | _ => (.drop, w)

/-- The metadata record as the edit engine reads it (Tables 3.7, 7.2). -/
def edMeta (sect image : List Nat) (w16 w17 : Nat) : List Byte := wordBytes (sect ++ image ++ [w16, w17])

/-- The result of an edit: how it ended, the frame without its FCS, and whether LENFIX ran. -/
structure Edited where
  how     : EdEnd
  bytes   : List Byte
  skipped : Bool
  lenfix  : Bool
  ptpGone : Bool
  ptpAt   : Nat
  deriving DecidableEq, Repr

/-- The offset of the IEEE 1588 header, when PA parsed one: it is the last header of such a frame (R50, R166). PRESUMED,
log entry 34. -/
def ptpOffset (sect : List Nat) : Nat := metaF sect 3 8 0 - 34

/-- Runs program `p` of a slice over a frame without its FCS (R160 to R163). Program 0 changes nothing. A program that ran
LENFIX runs once more, when the layout of the final frame is known. DEDUCED, log entries 36 and 39. -/
def editFrame (d : Dev) (slice p : Nat) (x : EdCtx) (body : List Byte) (h : Nat) : Edited :=
  if p = 0 then ⟨.done, body, false, false, false, ptpOffset x.sect⟩
  else
    let head := body.take h
    let w0 : Work := ⟨head, head, List.replicate head.length false, [], [], false, false, false⟩
    let first := edRun d slice (progStart d p) x 24 0 w0
    let (e, w) := if first.2.lenfix then edRun d slice (progStart d p) { x with lay := some first.2 } 24 0 w0 else first
    let o := ptpOffset x.sect
    ⟨e, assemble w ++ body.drop h, w.skipped, w.lenfix, w.gone.getD o true, finalPos w (.frame o)⟩

end Sys2Proof.Machine
end

