-- ==== Sys2Proof/Machine/Rings.lean ====
section
/-! DEFINITION. Command, event and Spore rings: fetch, completion, moderation, and their registers. -/
namespace Sys2Proof.Machine

/-- OPCODE, FENCE, IRQ and TAG of a command word (Table 17.2). -/
def opOf (ws : List Nat) : Nat := fld (ws.headD 0) 63 56
def tagOf (ws : List Nat) : Nat := fld (ws.headD 0) 31 0
/-- Word `i` of a descriptor. -/
def dw (x : Desc) (i : Nat) : Nat := x.words.getD i 0

/-- The opcodes of Table 17.3. DEDUCED, log entry 33. -/
def knownOp (o : Nat) : Bool :=
  o == 0x00 || o == 0x10 || (0x20 ≤ o && o ≤ 0x23) || o == 0x28 || o == 0x29 || o == 0x30

/-- Completion word 0 of a descriptor of a ring (Table 17.2). -/
def cplWord (x : Ring) (n : Nat) (ws : List Nat) (common : Nat) : Nat :=
  phaseBit n x.log2 <<< 63 + common <<< 61 + opOf ws <<< 48 + (n % 2 ^ x.log2) <<< 32 + tagOf ws

/-- The commit engine's block. -/
def cmtBlk : Blk := devBlk .cmt

/-- VER_CURRENT. -/
def verCurrent (d : Dev) : Nat := rdF d cmtBlk .verCurrent 31 0

/-- Completion word 1 as it is written: VER_DRAIN's VERSION is VER_CURRENT at that moment (Table 5.4). -/
def cplWord1 (d : Dev) (ws : List Nat) (w1 : Nat) : Nat :=
  if opOf ws == 0x23 then putFld w1 31 0 (verCurrent d) else w1

/-- Nothing is written to a ring that a fault or a link reset stopped (R369, R380). DEDUCED, log entry 53. -/
def Ring.silent (x : Ring) : Bool := x.stopped && (x.cause == 1 || x.cause == 2 || x.cause == 4)

/-- Writes the completions that are due, in ring order (R368). The number bounds the walk. DEDUCED, log entries 50 and
54. -/
def writeCpls (d : Dev) (p r : Nat) : Nat → Dev
  | 0 => d
  | k + 1 =>
    let x := ring d .command p r
    match x.descs with
    | [] => d
    | c :: rest =>
      match c.done with
      | none => d
      | some (common, w1) =>
        if x.silent then d
        else
          let d := dmaWords d p (x.cpl + 16 * (x.done % 2 ^ x.log2)) [cplWord x c.n c.words common, cplWord1 d c.words w1]
          let d := setRing d .command p r { x with done := (x.done + 1) % 2 ^ 32, descs := rest }
          let d := if bit (c.words.headD 0) 55 && bit x.irq 63 then raiseRing d .command p r
                   else ringCounted d .command p r
          writeCpls d p r k

/-- The completion of descriptor `n` is known: COMMON and word 1. -/
def completeDesc (d : Dev) (p r n common w1 : Nat) : Dev :=
  let x := ring d .command p r
  let x := { x with descs := mapIf (fun c => c.n == n && c.done.isNone)
                               (fun c => { c with started := true, done := some (common, w1) }) x.descs }
  writeCpls (setRing d .command p r x) p r (x.descs.length + 1)

/-- Descriptor `n` has been handed to its engine. -/
def startDesc (d : Dev) (p r n : Nat) : Dev :=
  let x := ring d .command p r
  setRing d .command p r { x with descs := mapIf (fun c => c.n == n) (fun c => { c with started := true }) x.descs }

/-- The descriptor that the ring starts next: the first that no engine has, unless FENCE makes it
wait for earlier ones (R367, R368). -/
def nextDesc (d : Dev) (p r : Nat) : Option Desc :=
  let x := ring d .command p r
  match findFirst (fun c => !c.started) x.descs with
  | none => none
  | some c =>
    if bit (c.words.headD 0) 54 && x.descs.any (fun o => o.done.isNone && o.started) then none else some c

/-- The next descriptor of a ring when it has this opcode. -/
def nextOp (d : Dev) (p r op : Nat) : Option Desc :=
  match nextDesc d p r with
  | some c => if opOf c.words == op then some c else none
  | none => none

/-- A partition's rings fetch (R292, R295, R296). -/
def fetching (d : Dev) (p : Nat) : Bool := (part d p).st == 1 || (part d p).st == 6

/-- DESCRIPTOR_FETCH: the descriptor at HEAD is read and classified (R367, R368). -/
def fetchDesc (d : Dev) (p r : Nat) (ws : List Nat) : Dev :=
  let x := ring d .command p r
  if x.live && fetching d p && x.head ≠ x.tail then
    let c : Desc := ⟨x.head, (ws ++ List.replicate 8 0).take 8, false, none⟩
    let d := setRing d .command p r { x with head := (x.head + 1) % 2 ^ 32, descs := x.descs ++ [c] }
    if !knownOp (opOf c.words) then completeDesc d p r c.n 1 0
    else if fld (c.words.headD 0) 53 32 ≠ 0 then completeDesc d p r c.n 2 0
    else d
  else d

/-- The part of a partition's ring counts that a kind has (Table 13.10). -/
def ringsHeld (d : Dev) (p : Nat) (k : RingKind) : Nat :=
  let w := (part d p).rings
  match k with
  | .command => min 16 (fld w 20 16)
  | .event => min 4 (fld w 10 8)
  | .spore => min 16 (fld w 4 0)

/-- LOG2_SIZE: values outside 4 to 16 act as the nearer limit (Table 17.5). -/
def ringLog2 (v : Nat) : Nat := if v < 4 then 4 else if 16 < v then 16 else v

/-- Counts a violation in window page 0 of a partition (R46, R292). -/
def violateWin (d : Dev) (p kind off : Nat) : Dev :=
  let n := satAdd (2 ^ 32 - 1) (fld (memGet d .winViol 0 p) 31 0) 1
  memSet d .winViol 0 p (kind <<< 60 + (off % 2 ^ 28) <<< 32 + n)

/-- CFG with ENABLE = 1: indexes, moderation count and STAT restart (R369). -/
def enableRing (x : Ring) (log2 : Nat) : Ring :=
  { x with enable := true, log2 := ringLog2 log2, raw := log2, head := 0, tail := 0, done := 0, modn := 0,
           stopped := false, cause := 0, drops := 0, descs := [] }

/-- A TAIL write that would run past the ring is not permitted (R368). -/
def tailOk (x : Ring) (tail : Nat) : Bool := idxDiff tail x.done ≤ 2 ^ x.log2

/-- A HEAD write that would pass TAIL is not permitted (R371). -/
def headOk (x : Ring) (head : Nat) : Bool := idxDiff head x.head ≤ idxDiff x.tail x.head

/-- An IRQ write: its VECTOR must lie in the partition's range; it clears the moderation count (R366, R370). DEDUCED,
log entry 54. -/
def irqWrite (d : Dev) (k : RingKind) (p r w : Nat) : Option Dev :=
  if fld w 58 48 < vecCount d p then
    some (setRing d k p r { ring d k p r with irq := putFld (putFld w 62 59 0) 47 32 0, modn := 0 })
  else none

/-- TIME_US have passed since the oldest counted record (R370). -/
def irqTimer (d : Dev) (k : RingKind) (p r : Nat) : Dev :=
  let x := ring d k p r
  if bit x.irq 63 && fld x.irq 15 0 ≠ 0 && x.modn ≠ 0 then raiseRing d k p r else d

/-- A ring stops with a cause; its other registers keep their values (R369). -/
def stopRing (d : Dev) (k : RingKind) (p r cause : Nat) : Dev :=
  setRing d k p r { ring d k p r with stopped := true, cause := cause }

/-- RING_FAULT goes to the manager and to event ring 0 of the owner, if that is not the faulted ring (Table 17.4). -/
def ringFault (t : TimeState) (d : Dev) (k : RingKind) (p r cause : Nat) : Dev :=
  let d := stopRing d k p r cause
  let e1 := k.ctorIdx <<< 60 + r <<< 56 + cause <<< 52 + p
  let d := eventMgr t d 0x0B 0 e1 0 0
  if (k == .event && r == 0) || (p == 0 && rdF d (devBlk .pci) .pciEvt 1 0 == 0) then d
  else (eventTo t d p 0 0x0B 0 e1 0 0).1

/-- The STAT register of a ring (Table 17.5). DEDUCED, log entry 53. -/
def ringStat (k : RingKind) (x : Ring) : Nat :=
  b2n x.stopped <<< 63 + b2n (k == .command && x.done == x.head) <<< 62 + x.cause <<< 32
    + (if k == .event then x.drops else 0)

/-- The enabled rings of a partition stop with a cause: its command rings, or every kind (R369). -/
def stopRings (d : Dev) (p cause : Nat) (all : Bool) : Dev :=
  { d with rings := d.rings.map (fun e =>
      if e.1 / 64 == p && e.2.enable && !e.2.stopped && (all || e.1 / 16 % 4 == 0)
      then (e.1, { e.2 with stopped := true, cause := cause }) else e) }

/-- START re-enables a partition's rings with their indexes kept (R369). -/
def resumeRings (d : Dev) (p : Nat) : Dev :=
  { d with rings := d.rings.map (fun e => if e.1 / 64 == p && e.2.enable && e.2.cause == 3 then (e.1, { e.2 with stopped := false, cause := 0 }) else e) }

end Sys2Proof.Machine
end

