-- ==== Sys2Proof/Machine/Tables.lean ====
section
/-! DEFINITION. The match tables: visibility of entry copies, searches, groups, chains. -/
namespace Sys2Proof.Machine

/-- Serial comparison of versions: `a` is `b` or earlier (R108). -/
def verLe (a b : Nat) : Bool := (b + 2 ^ 32 - a) % 2 ^ 32 < 2 ^ 31

/-- The version that a tag has resolved to, if it has (R112). -/
def tagVersion (d : Dev) (tag : Nat) : Option Nat :=
  match findFirst (fun b => b.tag == tag) d.cmt.batches with
  | some b => if 3 ≤ b.state then some b.version else none
  | none => none

/-- The copy is visible to a frame of version `v` (R112). -/
def visible (d : Dev) (v : Nat) (e : Entry) : Bool :=
  (match e.born with
   | none => true
   | some t => match tagVersion d t with
     | some w => verLe w v
     | none => false) &&
  (match e.dies with
   | none => true
   | some t => match tagVersion d t with
     | some w => !verLe w v
     | none => true)

/-- The version after `v`: one more, but for the version that a re-base follows (R313). -/
def succVer (d : Dev) (v : Nat) : Nat :=
  match d.cmt.jump with
  | some (a, n) => if v = a then n else (v + 1) % 2 ^ 32
  | none => (v + 1) % 2 ^ 32

/-- At most `k` versions from `v` up to the latest assigned one. -/
def versionsFrom (d : Dev) : Nat → Nat → List Nat
  | 0, _ => []
  | k + 1, v => v :: (if v = d.cmt.latest then [] else versionsFrom d k (succVer d v))

/-- The live versions, the oldest first (R109, R110). -/
def liveVersions (d : Dev) : List Nat := versionsFrom d 8 d.cmt.oldest

/-- The live version whose low three bits are the epoch (R110). -/
def epochVersion (d : Dev) (e : Nat) : Nat :=
  (findFirst (fun v => v % 8 == e) (liveVersions d)).getD d.cmt.latest

/-- The entries of a kind in a cluster that a frame of version `v` can see. -/
def seen (d : Dev) (v kind cluster : Nat) : List Entry :=
  d.entries.filter (fun e => e.kind == kind && e.cluster == cluster && visible d v e)

/-- Key bytes as little-endian words (Table 4.6). -/
def keyWords (k : List Byte) (n : Nat) : List Nat := leWords k n

/-- The message that the EM hash runs over (R91). -/
def emMsg (part tid : Nat) (key : List Byte) : List Byte := tagBytes part ++ toBe 1 tid ++ bytesAt key 0 16

/-- The seeds of the four EM ways (R91). -/
def emSeeds : List Nat := [0x13579BDF, 0x2468ACE0, 0x0F1E2D3C, 0x4B5A6978]

/-- The buckets of an EM key, one in each way: (way × 131,072 + bucket) (R91). -/
def emBuckets (part tid : Nat) (key : List Byte) : List Nat :=
  (emSeeds.zip (upto 0 4)).map (fun sw => sw.2 * 131072 + crc32c sw.1 (emMsg part tid key) % 131072)

/-- LOG2_BUCKETS of a cluster's FLOW table: values outside 16 to 22 act as 22 (Table 4.14). -/
def flowLog2 (d : Dev) (c : Nat) : Nat :=
  let n := rdF d ⟨.exm, c⟩ .exmFlowCfg 4 0
  if 16 ≤ n && n ≤ 22 then n else 22

/-- The two candidate buckets of a FLOW key (R93). -/
def flowBuckets (d : Dev) (c part : Nat) (key : List Byte) : List Nat :=
  let l := flowLog2 d c
  let msg := tagBytes part ++ bytesAt key 0 48
  [crc32c 0x0F0F1E1E msg % 2 ^ (l - 1), 2 ^ (l - 1) + crc32c 0x3C3C7878 msg % 2 ^ (l - 1)]

/-- First place of the stash: the places below it are bucket slots. -/
def stashBase : Nat := 2097152

/-- The block, memory and words that hold an entry copy. -/
def entryWords (d : Dev) (e : Entry) : Blk × Nat × List Nat :=
  match e.kind with
  | 0 => if e.place < stashBase then (⟨.exm, e.cluster⟩, 0, upto (e.place * 4) 4)
         else (⟨.exm, e.cluster⟩, 1, upto ((e.place - stashBase) * 4) 4)
  | 1 => (stackFor d e.cluster, 0, upto (shareBase d e.cluster + e.place * 16) 16)
  | 2 => (⟨.lpm, e.cluster⟩, 0, upto (e.place * 4) 4)
  | 3 => (⟨.lpm, e.cluster⟩, 1, upto (e.place * 4) 4)
  | 4 => (⟨.tcm, e.cluster * 8 + e.place / 8192⟩, 1, upto (e.place % 8192 * 22) 22)
  | 5 => (⟨.exm, e.cluster⟩, 2, upto (e.key.headD 0 * 16 + e.place * 8) 8)
  | 6 => (⟨.exm, e.cluster⟩, 3, [e.key.headD 0 * 2 + e.place])
  | _ => (⟨.exm, e.cluster⟩, 4, [e.key.headD 0 * 2 + e.place])

/-- The copy lies in a location that is non-matching until a change rewrites it (R90). -/
def entryDead (d : Dev) (e : Entry) : Bool :=
  let (b, m, ws) := entryWords d e
  ws.any (fun w => mark d b m w == 200)

/-- The damaged words of a copy that a lookup reads. -/
def copyBad (d : Dev) (e : Entry) : List (Blk × Nat × Nat) :=
  let (b, m, ws) := entryWords d e
  badWords d b m (fun w => ws.contains w)

/-- What a search returns: the hit, the damaged words that it read, and whether it had several matches. -/
structure Found where
  hit   : Option Entry
  bad   : List (Blk × Nat × Nat)
  multi : Bool
  deriving DecidableEq, Repr

/-- A search that reads nothing: its table or its block is not there. -/
def Found.miss : Found := ⟨none, [], false⟩

/-- Picks among the copies that match and lie in no damaged location; `bad` are the damaged words read. -/
def settleSearch (d : Dev) (l : List Entry) (pick : List Entry → Option Entry) (bad : List (Blk × Nat × Nat)) : Found :=
  let ms := l.filter (fun e => !entryDead d e)
  ⟨pick ms, bad, 1 < ms.length⟩

/-- A search of an EM table with bytes 0 to 15 of a key: it reads the key's bucket in each way, and the
stash (R91). -/
def searchEm (d : Dev) (v c tid part : Nat) (key : List Byte) : Found :=
  if isOn d ⟨.exm, c⟩ then
    let bs := emBuckets part tid key
    let l := (seen d v 0 c).filter (fun e => (stashBase ≤ e.place || bs.contains (e.place / 4))
      && e.tid == tid && e.part == part && e.key == keyWords key 2)
    settleSearch d l List.head?
      (badWords d ⟨.exm, c⟩ 0 (fun w => bs.contains (w / 16)) ++ badWords d ⟨.exm, c⟩ 1 (fun _ => true))
  else .miss

/-- A search of the cluster's FLOW table with bytes 0 to 47 of K0: it reads both buckets (R93). -/
def searchFlow (d : Dev) (v c part : Nat) (key : List Byte) : Found :=
  if isOn d ⟨.exm, c⟩ && isOn d (stackFor d c) && bit (rd d ⟨.exm, c⟩ .exmFlowCfg) 32 then
    let bs := flowBuckets d c part key
    let l := (seen d v 1 c).filter (fun e => bs.contains (e.place / 2) && e.part == part && e.key == keyWords key 6)
    settleSearch d l List.head? (badWords d (stackFor d c) 0 (fun w =>
      shareBase d c ≤ w && w - shareBase d c < 32 * 2 ^ flowLog2 d c && bs.contains ((w - shareBase d c) / 32)))
  else .miss

/-- The address of a prefix and of a key agree in the leading `n` of `w` bits. -/
def prefixEq (a b n w : Nat) : Bool := a >>> (w - n) == b >>> (w - n)

/-- The entry of the longest prefix. -/
def longest : List Entry → Option Entry
  | [] => none
  | e :: l => match longest l with
    | some f => if e.key.getD 1 0 < f.key.getD 1 0 then some f else some e
    | none => some e

/-- A search of an LPM table: VRF in bytes 16 and 17, address in the leading bytes (R96).
An entry's key is address, prefix length and VRF. -/
def searchLpm (d : Dev) (v c tid part : Nat) (key : List Byte) (six : Bool) : Found :=
  if isOn d ⟨.lpm, c⟩ then
    let w := if six then 128 else 32
    let a := beNat (bytesAt key 0 (w / 8))
    let vrf := beNat (bytesAt key 16 2)
    let ok (e : Entry) : Bool := e.tid == tid && e.part == part && e.key.getD 2 0 == vrf
      && prefixEq (e.key.getD 0 0) a (e.key.getD 1 0) w
    let l := (seen d v (if six then 3 else 2) c).filter ok
    settleSearch d l longest (l.flatMap (copyBad d))
  else .miss

/-- A TCAM entry: its VALUE with what an upset of the array flipped in its first word. -/
def tcamValue (d : Dev) (e : Entry) : List Nat :=
  let f := memGet d .tcmFlip (e.cluster * 8 + e.place / 8192) (e.place % 8192)
  match e.key.take 10 with
  | w :: r => w.xor f :: r
  | [] => []

/-- A TCAM entry matches key words under its mask (R100). An entry's key is VALUE, MASK and PRIORITY. -/
def tcamMatch (d : Dev) (e : Entry) (ws : List Nat) : Bool :=
  ((tcamValue d e).zip ((e.key.drop 10).take 10)).zip ws |>.all (fun x => ((x.1.1.xor x.2).land x.1.2) == 0)

/-- PRIORITY of a TCAM entry. -/
def prioOf (e : Entry) : Nat := e.key.getD 20 0

/-- The match that wins: lowest PRIORITY, then lowest table index (R101). -/
def bestPrio : List Entry → Option Entry
  | [] => none
  | e :: l => match bestPrio l with
    | some f => if prioOf f < prioOf e || (prioOf f == prioOf e && f.place < e.place) then some f else some e
    | none => some e

/-- The match of the lowest table index (R102). -/
def lowestIx : List Entry → Option Entry
  | [] => none
  | e :: l => match lowestIx l with
    | some f => if f.place < e.place then some f else some e
    | none => some e

/-- A directory entry, as stored unless its word is uncorrectable (Tables 4.16, 11.2). -/
def dirEntry (d : Dev) (c tid : Nat) : Nat := okRec d ⟨.exm, c⟩ 5 tid (memGet d .exmDir c tid)

/-- The TCAM blocks of a directory entry: first and count. -/
def dirFirst (e : Nat) : Nat := fld e 51 49
def dirBlocks (e : Nat) : Nat := fld e 48 45

/-- Every block of a TCAM table is ON; a search of the table otherwise misses (R107, Table 12.4). -/
def tcamOn (d : Dev) (c dir : Nat) : Bool :=
  (upto (dirFirst dir) (dirBlocks dir)).all (fun b => isOn d ⟨.tcm, c * 8 + b⟩)

/-- A search of a TCAM table: by priority, or stepping from a table index (R101, R102). The place of
an entry is its table index plus that of the table's first block. The array is searched; of the stored
copies only the winner's is read, for its result. DEDUCED, log entry 151. -/
def searchTcam (d : Dev) (v c tid part dir : Nat) (key : List Byte) (start : Option Nat) : Found :=
  if tcamOn d c dir then
    let ws := keyWords key 10
    let base := dirFirst dir * 8192
    let l := (seen d v 4 c).filter (fun e => e.tid == tid && e.part == part && tcamMatch d e ws)
    let f (l : List Entry) (pick : List Entry → Option Entry) : Found :=
      let r := settleSearch d l pick []
      { r with bad := (r.hit.map (copyBad d)).getD [] }
    match start with
    | none => f l bestPrio
    | some s => f (l.filter (fun e => base + s ≤ e.place)) lowestIx
  else .miss

/-- The copy of an index table's entry that a version sees (R113). -/
def indexEntry (d : Dev) (v kind c i : Nat) : Option Entry :=
  if isOn d ⟨.exm, c⟩ then findFirst (fun e => e.key == [i]) (seen d v kind c) else none

/-- The weight of a member as a version sees it (R99, R113). -/
def memberWeight (d : Dev) (v c m : Nat) : Nat :=
  match indexEntry d v 7 c m with
  | some e => e.data.getD 1 0
  | none => memGet d .exmWgt c m

/-- The first member whose cumulative weight passes `t` (R98). -/
def pickMember : List Nat → Nat → Nat → Nat
  | [], _, i => i
  | w :: l, t, i => if t < w then i else pickMember l (t - w) (i + 1)

/-- The position in its group of the member that a hash selects (R98). -/
def selectMember (ws : List Nat) (lsHash : Nat) : Nat :=
  let h := (fld lsHash 31 16).xor (fld lsHash 15 0)
  let tw := ws.sum
  if tw = 0 then (h * ws.length) >>> 16 else pickMember ws ((h * tw) >>> 16) 0

/-- A result before any stage (R83). -/
def Res.start (carry : Nat) : Res := ⟨0, 0, none, 0, none, carry, false, none, [], 0⟩

/-- Merges a result word (R83, Table 4.2). -/
def mergeRes (r : Res) (w : Nat) : Res :=
  { r with
    op := if fld w 63 60 = 0 then r.op else fld w 63 60
    index := if fld w 63 60 = 0 then r.index else fld w 17 0
    tc := if bit w 58 then some (fld w 57 55) else r.tc
    colour := if fld w 54 53 = 0 then r.colour else fld w 54 53
    meter := if bit w 52 then some (fld w 51 35) else r.meter
    carry := if bit w 34 then fld w 33 18 else r.carry
    stop := bit w 59 }

/-- A lookup met damaged words: the frame is dropped as TABLE_UE when one is uncorrectable (R90). -/
def resHurt (t : TimeState) (d : Dev) (r : Res) (l : List (Blk × Nat × Nat)) : Res × Dev :=
  let (ue, d) := hurtWords t d l
  (if ue then { r with drop := 3 } else r, d)

/-- A lookup reads the visible copy of an index: the frame is dropped as TABLE_UE when the copy is damaged, now
or since an earlier read (R90, Table 11.2). -/
def readIndex (t : TimeState) (d : Dev) (r : Res) (e : Entry) : Res × Dev :=
  let dead := entryDead d e
  let (r, d) := resHurt t d r (copyBad d e)
  (if dead then { r with drop := 3 } else r, d)

/-- A merged OP of GROUP is resolved to an action in the same stage (R98). A group or member that
the version does not hold leaves an index that no action has. -/
def resolveGroup (t : TimeState) (d : Dev) (v c lsHash : Nat) (r : Res) : Res × Dev :=
  if r.op ≠ 2 then (r, d)
  else match indexEntry d v 6 c (r.index % 65536) with
    | none => ({ r with op := 1, index := 2 ^ 18 }, d)
    | some g =>
      let (r, d) := readIndex t d r g
      if r.drop = 3 then (r, d)
      else
        let w := g.data.headD 0
        let base := fld w 63 45
        let m := base + selectMember ((upto base (fld w 44 37 + 1)).map (memberWeight d v c)) lsHash
        match indexEntry d v 7 c m with
        | none => ({ r with op := 1, index := 2 ^ 18 }, d)
        | some e =>
          let (r, d) := readIndex t d r e
          (if r.drop = 3 then r else { r with op := 1, index := fld (e.data.headD 0) 63 46 }, d)

/-- A word of the chain descriptor of a profile (R84). -/
def chainWord (d : Dev) (c profile i : Nat) : Nat :=
  okRec d ⟨.exm, c⟩ 5 (256 + profile * 32 + i) (memGet d .exmChain c (profile * 32 + i))

/-- What a chain carries from stage to stage: the result, the last executed stage's outcome, and
the hits of TCAM stages by table. -/
structure ChainSt where
  res   : Res
  prev  : Option Bool
  tcam  : List (Nat × Nat)
  deriving DecidableEq, Repr

/-- COND of a stage holds (Table 4.4, R85). -/
def condHolds (s : ChainSt) : Nat → Bool
  | 0 => true
  | 1 => s.prev == some true
  | 2 => s.prev == some false
  | _ => s.res.carry != 0

/-- The search of one stage (R85). -/
def stageSearch (d : Dev) (v c part : Nat) (s : ChainSt) (ctrl : Nat) (key : List Byte) : Found :=
  let tid := fld ctrl 62 55
  let dir := dirEntry d c tid
  let key := if bit ctrl 51 then overwrite key (fld ctrl 50 44) (toBe 2 s.res.carry) else key
  if !bit dir 63 then .miss
  else match fld dir 62 60 with
    | 0 => searchEm d v c tid part key
    | 1 => searchLpm d v c tid part key false
    | 2 => searchLpm d v c tid part key true
    | 3 =>
      let start := if bit ctrl 52 then
          (findFirst (fun x => x.1 == tid) s.tcam).map (fun x => x.2 + 1 - dirFirst dir * 8192) else none
      searchTcam d v c tid part dir key start
    | _ => .miss

/-- The rule counter of a hit, when its table counts (R89); LPM entries have none. -/
def hitCounter (d : Dev) (c : Nat) (e : Entry) : List Nat :=
  let i := e.data.getD 1 0xFFFFFF
  if (e.kind == 0 || e.kind == 4) && bit (dirEntry d c e.tid) 58 && i != 0xFFFFFF then [i] else []

/-- One stage of the chain (R85); it reads its table's directory entry (R253). -/
def runStage (t : TimeState) (d : Dev) (v c part lsHash profile i : Nat) (key : List Byte) (s : ChainSt) :
    ChainSt × Dev :=
  let ctrl := chainWord d c profile (2 * i)
  if s.res.stop || s.res.drop != 0 || !bit ctrl 63 || !condHolds s (fld ctrl 54 53) then (s, d)
  else
    let d := touch t d ⟨.exm, c⟩ 5 (fld ctrl 62 55)
    let f := stageSearch d v c part s ctrl key
    let (r, d) := resHurt t d s.res f.bad
    if r.drop != 0 then ({ s with res := r }, d)
    else
      let w := match f.hit with
        | some e => e.data.headD 0
        | none => chainWord d c profile (2 * i + 1)
      let r := mergeRes r w
      let r := match f.hit with
        | some e => { r with hits := r.hits ++ hitCounter d c e }
        | none => r
      let tc := match f.hit with
        | some e => if e.kind == 4 then (e.tid, e.place) :: s.tcam else s.tcam
        | none => s.tcam
      let (r, d) := resolveGroup t d v c lsHash r
      (⟨r, some f.hit.isSome, tc⟩, d)

/-- The stages M1 to M12 in order. -/
def runStages (t : TimeState) (v c part lsHash profile : Nat) : List (Nat × List Byte) → ChainSt → Dev → ChainSt × Dev
  | [], s, d => (s, d)
  | (i, k) :: l, s, d =>
    let (s, d) := runStage t d v c part lsHash profile i k s
    runStages t v c part lsHash profile l s d

/-- The end of R83: DEFAULT_RESULT, then DROP or NO_ACTION. -/
def finishRes (t : TimeState) (d : Dev) (v c lsHash profile : Nat) (r : Res) : Res × Dev :=
  if r.drop != 0 then (r, d)
  else
    let (r, d) := if r.op = 0 then resolveGroup t d v c lsHash (mergeRes r (chainWord d c profile 1)) else (r, d)
    if r.drop != 0 then (r, d)
    else if r.op = 0 then ({ r with drop := 2 }, d)
    else if r.op = 4 then ({ r with drop := 1 }, d)
    else (r, d)

/-- A flow entry decides the result alone (R86). -/
def flowRes (t : TimeState) (d : Dev) (v c lsHash profile : Nat) (e : Entry) : Res × Dev :=
  let r := mergeRes (Res.start (fld (chainWord d c profile 0) 31 16)) (e.data.headD 0)
  let i := e.data.getD 1 0xFFFFFF
  let hits := if e.kind == 1 then (if i != 0xFFFFFF then [i] else []) else hitCounter d c e
  let r := { r with hits := hits, inl := if e.kind == 1 && r.op == 3 then some (e.data.drop 2) else none }
  let (r, d) := resolveGroup t d v c lsHash r
  finishRes t d v c lsHash profile r

/-- The match chain of a frame: its result, and whether a FLOW lookup is wanted (R84 to R86). It reads the
words of the profile's chain descriptor (R253). -/
def runChain (t : TimeState) (d : Dev) (c : Nat) (sect : List Nat) (keys : List (List Byte)) : Res × Bool × Dev :=
  let d := (readWords t d ⟨.exm, c⟩ 5 (upto (256 + mProfile sect * 32) 26)).2
  let v := epochVersion d (mEpoch sect)
  let profile := mProfile sect
  let part := mPart sect
  let h := chainWord d c profile 0
  let carry := fld h 31 16
  let k0 := keys.headD []
  let flow : Found := if bit h 63 then searchEm d v c (fld h 55 48) part k0 else .miss
  let s0 : ChainSt := ⟨Res.start carry, none, []⟩
  let (s, d) := runStages t v c part (mLsHash sect) profile ((upto 1 12).zip (keys.drop 1)) s0 d
  let (r0, d) := if bit h 63 then resHurt t d s.res flow.bad else (s.res, d)
  if r0.drop = 3 then (r0, false, d)
  else match flow.hit with
    | some e => let (r, d) := flowRes t d v c (mLsHash sect) profile e; (r, false, d)
    | none =>
      let (r, d) := finishRes t d v c (mLsHash sect) profile r0
      (r, bit h 63 && bit h 62, d)

end Sys2Proof.Machine
end

