-- ==== Sys2Proof/Machine/Commit.lean ====
section
/-! DEFINITION. The commit engine: how a change is evaluated against the tables an open batch
sees, batches, waits, and versions until they drain and settle. -/
namespace Sys2Proof.Machine

/-- One range register of a partition: 0 action, 1 group, 2 member, 3 counter, 4 program, 5 multicast. -/
def rangeOf (d : Dev) (p k : Nat) : Nat := (part d p).ranges.getD k 0

/-- An index lies in a partition's range of a kind; no range check applies to partition 0 (R80, R283). -/
def inRange (d : Dev) (p k i : Nat) : Bool :=
  p == 0 || (fld (rangeOf d p k) 31 0 ≤ i && i < fld (rangeOf d p k) 31 0 + fld (rangeOf d p k) 63 32)

/-- The owner of a queue: the owner of its block of 64 (R283). -/
def queueOwner (d : Dev) (q : Nat) : Nat := memGet d .partQown 0 (q / 64)

/-- Commit-engine descriptors of the partition complete with FROZEN (R124, R312). -/
def frozenFor (d : Dev) (p : Nat) : Bool := (part d p).st == 6 || d.tw.sink.contains p

/-- A batch by its tag. -/
def batchOf (d : Dev) (tag : Nat) : Option Batch := findFirst (fun b => b.tag == tag) d.cmt.batches

/-- Stores a batch. -/
def setBatch (d : Dev) (b : Batch) : Dev :=
  { d with cmt := { d.cmt with batches := mapIf (fun x => x.tag == b.tag) (fun _ => b) d.cmt.batches } }

/-- The tag is free again. -/
def dropBatch (d : Dev) (tag : Nat) : Dev :=
  { d with cmt := { d.cmt with batches := d.cmt.batches.filter (fun x => x.tag != tag) } }

/-- The lowest free tag of the 64 (R112). -/
def freeTag (d : Dev) : Option Nat := findFirst (fun t => (batchOf d t).isNone) (upto 0 64)

/-- The open batch of a ring (R115). -/
def openBatch (d : Dev) (p r : Nat) : Option Batch :=
  findFirst (fun b => b.state == 1 && b.part == p && b.ring == r && !b.internal) d.cmt.batches

/-- State of a tag: 0 free, else as `Batch.state`. DEDUCED, log entry 43. -/
def tagState (d : Dev) (tag : Nat) : Nat := ((batchOf d tag).map (fun b => b.state)).getD 0

/-- A tag other than the batch's own holds a pending copy in this batch state. -/
def tagIn (d : Dev) (g : Nat) (o : Option Nat) (st : Nat) : Bool :=
  match o with
  | some t => t != g && tagState d t == st
  | none => false

/-- The copy is in the view that the open batch `g` has (R117). -/
def inView (d : Dev) (g : Nat) (e : Entry) : Bool :=
  (match e.born with
   | none => true
   | some t => t == g || 3 ≤ tagState d t) &&
  (match e.dies with
   | none => true
   | some t => t != g && tagState d t < 3)

/-- How the evaluation of a change ends: a TBL_STATUS other than OK, a CMD_STATUS, a wait, or the new state. -/
inductive Eval
  | ok (d : Dev)
  | tbl (n : Nat)
  | cmd (n : Nat)
  | wait
  deriving DecidableEq, Repr

/-- Copies of one identity in one cluster. -/
def sameEntry (d : Dev) (kind c tid p : Nat) (key : List Nat) : List Entry :=
  d.entries.filter (fun e => e.kind == kind && e.cluster == c && e.tid == tid && e.part == p && e.key == key)

/-- A pending copy of another batch stands in the way: an open batch is a CONFLICT, a decoded
one makes the change wait (R117). -/
def blocked (d : Dev) (g : Nat) (l : List Entry) : Option Eval :=
  if l.any (fun e => tagIn d g e.born 1 || tagIn d g e.dies 1) then some (.cmd 5)
  else if l.any (fun e => tagIn d g e.born 2 || tagIn d g e.dies 2) then some .wait
  else none

/-- Some copy, freed or not, holds the place. -/
def placeUsed (d : Dev) (kind c pl : Nat) : Bool :=
  d.entries.any (fun e => e.kind == kind && e.cluster == c && e.place == pl)

/-- The version marks of a copy of a lookup table are written: a narrow write of its first word (R112, R114,
R245, Table 11.3). DEDUCED, log entry 147. -/
def markWrite (t : TimeState) (d : Dev) (e : Entry) : Dev :=
  let (b, m, ws) := entryWords d e
  if e.kind < 5 then mergeWord t d b m (ws.headD 0) else d

/-- Marks a copy that the view holds as dying in the tag; a pending copy of the tag itself is freed (R112). DEDUCED, log
entry 147. -/
def markDies (t : TimeState) (d : Dev) (g : Nat) (e : Entry) : Dev :=
  if e.born == some g then { d with entries := eraseFirst (fun x => x == e) d.entries }
  else markWrite t { d with entries := mapIf (fun x => x == e) (fun x => { x with dies := some g }) d.entries } e

/-- A data write of every word of a copy: what was wrong with its location goes, and an armed flip
is taken by its first word. A TCAM entry goes to the array and to its shadow copy. -/
def writeEntryWords (d : Dev) (e : Entry) : Dev :=
  let (b, m, ws) := entryWords d e
  let d := ws.foldl (fun d w => writeWord d b m w) d
  if e.kind = 4 then
    let mask := match armedPage d b 0 with
      | some s => rdAt d b s .errFlipD 0
      | none => 0
    let d := writeWord d b 0 (e.place % 8192)
    memSet (setMark d b 0 (e.place % 8192) 0) .tcmFlip b.inst (e.place % 8192) mask
  else d

/-- A new copy is written, born in the tag (R112). -/
def addEntry (d : Dev) (e : Entry) : Dev :=
  writeEntryWords { d with entries := d.entries ++ [e] } e

/-- A copy moves: a new copy at the new place and the old one marked, under the same tag (R112). The place that it
leaves takes the copy that caused the move, and no other copy of the batch. DEDUCED, log entry 44. -/
def moveEntry (t : TimeState) (d : Dev) (g : Nat) (e : Entry) (pl : Nat) : Dev :=
  addEntry (markDies t d g e) { e with place := pl, born := some g, dies := none }

/-- Moves are made in turn, each into the place that the one before it left. DEDUCED, log entry 44. -/
def moveAll (t : TimeState) (d : Dev) (g : Nat) (ms : List (Entry × Nat)) : Dev :=
  ms.foldl (fun d m => moveEntry t d g m.1 m.2) d

/-- A copy that an insert may move: the view holds it, nothing has marked it dead, and no other batch has it pending
(R112, R117). -/
def movable (d : Dev) (g : Nat) (e : Entry) : Bool := inView d g e && e.dies.isNone

/-- A copy that would be moved were it not pending in another batch of the partition (R77, R117). -/
def heldBack (d : Dev) (g p : Nat) (e : Entry) : Bool := e.part == p && (blocked d g [e]).isSome

/-- The slots of a bucket: four in the EM array, two in the FLOW table. -/
def bucketSlots (kind b : Nat) : List Nat := if kind = 0 then upto (b * 4) 4 else upto (b * 2) 2

/-- The slots in which an EM or FLOW key may lie, in the order of R92. -/
def keySlots (d : Dev) (kind c tid p : Nat) (key : List Nat) : List Nat :=
  let bytes := wordBytes key
  ((if kind = 0 then emBuckets p tid bytes else flowBuckets d c p bytes).map (bucketSlots kind)).flatten

/-- The copy that a slot holds. -/
def atPlace (d : Dev) (kind c pl : Nat) : Option Entry :=
  findFirst (fun e => e.kind == kind && e.cluster == c && e.place == pl) d.entries

/-- Relocations of at most `k` copies that free one of the slots, the fewest first by the caller: the moves of
copies that `mv` lets move, first the last copy of the chain, and the freed slot (R92). DEDUCED, log entry 45. -/
def freeBy (d : Dev) (kind c : Nat) (mv : Entry → Bool) (slots : List Nat) : Nat → Option (List (Entry × Nat) × Nat)
  | 0 => none
  | k + 1 =>
    slots.findSome? (fun s =>
      match (atPlace d kind c s).filter mv with
      | none => none
      | some e =>
        let others := (keySlots d kind c e.tid e.part e.key).filter (fun x => !slots.contains x)
        match findFirst (fun x => !placeUsed d kind c x) others with
        | some x => some ([(e, x)], s)
        | none => (freeBy d kind c mv others k).map (fun r => (r.1 ++ [(e, r.2)], s)))

/-- Tries chains of 1, 2, … up to `n` relocations. DEDUCED, log entries 44 and 45. -/
def relocate (d : Dev) (kind c : Nat) (mv : Entry → Bool) (slots : List Nat) (n : Nat) :
    Option (List (Entry × Nat) × Nat) :=
  (upto 1 n).findSome? (fun k => freeBy d kind c mv slots k)

/-- Relocation limits of a cluster (Table 4.13). -/
def moveLimit (d : Dev) (c kind : Nat) : Nat :=
  if kind = 0 then min 32 (rdF d ⟨.exm, c⟩ .exmCfg 5 0) else min 16 (rdF d ⟨.exm, c⟩ .exmCfg 13 8)

/-- Places an EM or FLOW copy (R92, R93). An insert that only a move of another batch's pending copy would make room
for is a CONFLICT or waits (R117). -/
def placeHashed (t : TimeState) (d : Dev) (g : Nat) (e : Entry) : Eval :=
  let slots := keySlots d e.kind e.cluster e.tid e.part e.key
  let chain (mv : Entry → Bool) := relocate d e.kind e.cluster mv slots (moveLimit d e.cluster e.kind)
  match findFirst (fun s => !placeUsed d e.kind e.cluster s) slots with
  | some s => .ok (addEntry d { e with place := s })
  | none =>
    match chain (movable d g) with
    | some (ms, s) => .ok (addEntry (moveAll t d g ms) { e with place := s })
    | none =>
      let stash := if e.kind = 0 && bit (rd d ⟨.exm, e.cluster⟩ .exmCfg) 16 then upto stashBase 256 else []
      match findFirst (fun s => !placeUsed d 0 e.cluster s) stash with
      | some s => .ok (addEntry d { e with place := s })
      | none =>
        match chain (fun x => movable d g x || heldBack d g e.part x) with
        | some (ms, _) => (blocked d g (ms.map (fun m => m.1))).getD (.tbl 2)
        | none => .tbl 2

/-- Places an LPM copy while the pool of its kind has room (R95). -/
def placeLpm (d : Dev) (e : Entry) : Eval :=
  let used := countIf (fun x => x.kind == e.kind && x.cluster == e.cluster) d.entries
  if (if e.kind = 2 then 3145728 else 1572864) ≤ used then .tbl 2
  else match findFirst (fun s => !placeUsed d e.kind e.cluster s) (upto 0 (used + 1)) with
    | some s => .ok (addEntry d { e with place := s })
    | none => .tbl 2

/-- LOG2_SPACING of a TCAM table, read from its first block; values outside 4 to 10 act as 6 (Table 4.21). -/
def tcamSpacing (d : Dev) (c dir : Nat) : Nat :=
  let n := rdF d ⟨.tcm, c * 8 + dirFirst dir⟩ .tcmCfg 3 0
  if 4 ≤ n && n ≤ 10 then n else 6

/-- The priorities of the copies in a segment. -/
def segPrios (l : List Entry) (base sp k : Nat) : List Nat :=
  (l.filter (fun e => (e.place - base) / sp == k)).map prioOf

/-- A segment that may take priority `p`: no higher one before it, no lower one after it (R103). -/
def segAllowed (l : List Entry) (base sp k p : Nat) : Bool :=
  l.all (fun e => let s := (e.place - base) / sp
    (k ≤ s || prioOf e ≤ p) && (s ≤ k || p ≤ prioOf e))

/-- Free places of a segment. -/
def segHoles (l : List Entry) (base sp k : Nat) : List Nat :=
  (upto (base + k * sp) sp).filter (fun i => !l.any (fun e => e.place == i))

/-- The boundary copy of a segment that moves: the highest-valued forward, the lowest-valued back, the first such
that `mv` lets move (R103). Where none of them may move, no copy of the segment may. DESIGN CHOICE, log entry 146. -/
def boundary (mv : Entry → Bool) (l : List Entry) (base sp k : Nat) (fwd : Bool) : Option Entry :=
  let seg := l.filter (fun e => (e.place - base) / sp == k)
  findFirst (fun e => mv e && seg.all (fun x => if fwd then prioOf x ≤ prioOf e else prioOf e ≤ prioOf x)) seg

/-- The moves of boundary copies from segment `k` toward a hole `n` segments away, the farthest first, and the place
freed in segment `k` (R103). DEDUCED, log entry 44. -/
def shiftPlan (mv : Entry → Bool) (l : List Entry) (base sp k : Nat) (fwd : Bool) : Nat → Option (List (Entry × Nat) × Nat)
  | 0 => none
  | n + 1 =>
    let next := if fwd then k + 1 else k - 1
    let hole := if n = 0 then (segHoles l base sp next).head?.map (fun h => ([], h))
                else shiftPlan mv l base sp next fwd n
    match hole, boundary mv l base sp k fwd with
    | some (ms, h), some e => some (ms ++ [(e, h)], e.place)
    | _, _ => none

/-- The distance from a segment to the nearest with a hole in one direction. -/
def holeDist (l : List Entry) (base sp segs k : Nat) (fwd : Bool) : Option Nat :=
  findFirst (fun n => (if fwd then k + n < segs else n ≤ k)
    && (segHoles l base sp (if fwd then k + n else k - n)) != []) (upto 1 segs)

/-- The permitted segment in which a hole takes the new copy: the lowest with two holes, else the lowest with one.
R103 lets any permitted segment do. DESIGN CHOICE, log entry 146. -/
def roomySegment (l : List Entry) (base sp : Nat) (cand : List Nat) : Option Nat :=
  let with' (n : Nat) := findFirst (fun k => n ≤ (segHoles l base sp k).length) cand
  (with' 2).orElse (fun _ => with' 1)

/-- The nearest hole to a permitted segment: its distance, the segment, the direction; forward when two are equally
far (R103). DESIGN CHOICE, log entry 146. -/
def nearestHole (l : List Entry) (base sp segs : Nat) (cand : List Nat) : Option (Nat × Nat × Bool) :=
  let tries := cand.flatMap (fun k =>
    ((holeDist l base sp segs k true).map (fun n => (n, k, true))).toList
      ++ ((holeDist l base sp segs k false).map (fun n => (n, k, false))).toList)
  tries.foldl (fun (a : Option (Nat × Nat × Bool)) x => match a with
    | none => some x
    | some b => if x.1 < b.1 || (x.1 == b.1 && x.2.2 && !b.2.2) then some x else a) none

/-- Places a TCAM copy (R103): in a hole of a permitted segment, or in the place that moves toward the nearest hole
free. The lowest hole of the segment takes it. DESIGN CHOICE, log entry 146. -/
def placeTcam (t : TimeState) (d : Dev) (g dir : Nat) (e : Entry) : Eval :=
  let base := dirFirst dir * 8192
  let sp := 2 ^ tcamSpacing d e.cluster dir
  let segs := dirBlocks dir * 8192 / sp
  let l := d.entries.filter (fun x => x.kind == 4 && x.cluster == e.cluster && x.tid == e.tid)
  let cand := (upto 0 segs).filter (fun k => segAllowed l base sp k (prioOf e))
  match (roomySegment l base sp cand).bind (fun k => (segHoles l base sp k).head?) with
  | some h => .ok (addEntry d { e with place := h })
  | none =>
    match nearestHole l base sp segs cand with
    | none => .tbl 2
    | some (n, k, fwd) =>
      if rdF d ⟨.tcm, e.cluster * 8 + dirFirst dir⟩ .tcmCfg 15 8 < n then .tbl 2
      else match shiftPlan (movable d g) l base sp k fwd n with
        | some (ms, h) =>
          .ok (countN (addEntry (moveAll t d g ms) { e with place := h }) evTcamMoves e.cluster 0 e.cluster e.part n)
        | none =>
          match shiftPlan (fun x => movable d g x || heldBack d g e.part x) l base sp k fwd n with
          | some (ms, _) => (blocked d g (ms.map (fun m => m.1))).getD (.tbl 2)
          | none => .tbl 2

/-- Places a new copy of a lookup table. -/
def placeEntry (t : TimeState) (d : Dev) (g dir : Nat) (e : Entry) : Eval :=
  match e.kind with
  | 0 => placeHashed t d g e
  | 1 => placeHashed t d g e
  | 4 => placeTcam t d g dir e
  | _ => placeLpm d e

/-- Entries of an EM table in the batch's view (R92). -/
def tableCount (d : Dev) (g c tid : Nat) : Nat :=
  countIf (fun e => e.kind == 0 && e.cluster == c && e.tid == tid && inView d g e) d.entries

/-- INSERT, MODIFY or DELETE of an entry in one cluster (R106, R112, R117). -/
def evalLookup (t : TimeState) (d : Dev) (g op dir : Nat) (e : Entry) : Eval :=
  let all := sameEntry d e.kind e.cluster e.tid e.part e.key
  match blocked d g all with
  | some r => r
  | none =>
    match findFirst (inView d g) all, op with
    | some _, 0 => .tbl 3
    | none, 0 =>
      let mx := fld dir 21 0
      if e.kind = 0 && mx ≠ 0 && mx ≤ tableCount d g e.cluster e.tid then .tbl 2 else placeEntry t d g dir e
    | none, _ => .tbl 4
    | some old, 1 => placeEntry t (markDies t d g old) g dir e
    | some old, _ => .ok (markDies t d g old)

/-- WRITE of an index in one cluster: the copy that no live version can see (R113). DEDUCED, log entry 45. -/
def evalIndex (t : TimeState) (d : Dev) (g : Nat) (e : Entry) : Eval :=
  let all := d.entries.filter (fun x => x.kind == e.kind && x.cluster == e.cluster && x.key == e.key)
  match blocked d g all with
  | some r => r
  | none =>
    match findFirst (fun x => x.born == some g) all with
    | some own =>
      let e := { e with place := own.place }
      .ok (writeEntryWords { d with entries := mapIf (fun x => x == own) (fun _ => e) d.entries } e)
    | none =>
      let used (x : Entry) : Bool := inView d g x || (liveVersions d).any (fun v => visible d v x)
      match findFirst (fun k => !all.any (fun x => x.place == k && used x)) [0, 1] with
      | none => .wait
      | some k =>
        let d := all.foldl (fun d x => if inView d g x then markDies t d g x else d) d
        let d := { d with entries := d.entries.filter (fun x =>
          !(x.kind == e.kind && x.cluster == e.cluster && x.key == e.key && x.place == k)) }
        .ok (addEntry d { e with place := k })

/-- A result word is allowed: the OPs of Table 4.2 for its kind, and an index in range (R80, R106). -/
def resultOk (d : Dev) (p kind w : Nat) : Bool :=
  let op := fld w 63 60
  (if kind = 1 then op == 3 || op == 4 else op ≤ 4 && op != 3)
    && (op != 1 || inRange d p 0 (fld w 17 0)) && (op != 2 || inRange d p 1 (fld w 15 0))

/-- A rule counter index is allowed (Table 13.1). -/
def ctrOk (d : Dev) (p i : Nat) : Bool := i == 0xFFFFFF || inRange d p 3 i

/-- An action image is allowed (R155). -/
def imageOk (d : Dev) (p a0 : Nat) : Bool :=
  let kind := fld a0 31 30
  kind != 3 && progState d (fld a0 43 32) == 1
    && (p == 0 || (inRange d p 4 (fld a0 43 32)
          && (kind != 0 || queueOwner d (fld a0 63 44) == p) && (kind != 1 || inRange d p 5 (fld a0 15 0))))

/-- Image bytes of each kind (R116). -/
def imageLen : Nat → Nat
  | 1 => 128
  | 4 => 176
  | 5 => 64
  | 6 => 8
  | 7 => 8
  | _ => 32

/-- Reserved fields of an image are zero, and its TABLE_ID is the descriptor's (R116). -/
def imageFormOk (kind tid : Nat) (ws : List Nat) : Bool :=
  let w (i : Nat) := ws.getD i 0
  match kind with
  | 0 => fld (w 3) 43 24 == 0 && fld (w 3) 63 56 == tid
  | 1 => fld (w 7) 63 56 == 0 && fld (w 7) 43 24 == 0
  | 2 => fld (w 3) 35 32 == 0 && fld (w 3) 15 0 == 0 && fld (w 3) 63 56 == tid
  | 3 => fld (w 3) 35 32 == 0 && fld (w 3) 15 0 == 0 && fld (w 3) 63 56 == tid
  | 4 => fld (w 21) 27 24 == 0 && fld (w 21) 63 56 == tid
  | 6 => fld (w 0) 36 0 == 0
  | 7 => fld (w 0) 37 0 == 0
  | _ => true

/-- The descriptor's own fields are allowed (Table 5.2, R116); an index kind takes WRITE alone. DESIGN CHOICE, log entry
152. -/
def changeFormOk (ws : List Nat) : Bool :=
  let w (i : Nat) := ws.getD i 0
  let op := fld (w 1) 63 60
  let kind := fld (w 1) 59 56
  op ≤ 3 && kind ≤ 7 && (op == 3) == (5 ≤ kind) && fld (w 1) 38 19 == 0 && w 3 == 0
    && (if bit (w 1) 39 then imageLen kind ≤ 32 && (kind < 6 || (w 5 == 0 && w 6 == 0 && w 7 == 0))
        else w 2 % 64 == 0)

/-- The entry that an image describes, for a change on a ring of partition `p` (R80). -/
def imageEntry (kind c tid p index g : Nat) (ws : List Nat) : Entry :=
  let w (i : Nat) := ws.getD i 0
  let tag (x : Nat) := if p = 0 then fld x 55 44 else p
  let addr (n : Nat) := beNat ((wordBytes (ws.take 2)).take n)
  match kind with
  | 0 => ⟨0, c, tid, tag (w 3), ws.take 2, [w 2, fld (w 3) 23 0], 0, some g, none⟩
  | 1 => ⟨1, c, 0, tag (w 7), ws.take 6, [w 6, fld (w 7) 23 0] ++ ((ws.drop 8).take 8), 0, some g, none⟩
  | 2 => ⟨2, c, tid, tag (w 3), [addr 4, fld (w 3) 43 36, fld (w 3) 31 16], [w 2], 0, some g, none⟩
  | 3 => ⟨3, c, tid, tag (w 3), [addr 16, fld (w 3) 43 36, fld (w 3) 31 16], [w 2], 0, some g, none⟩
  | 4 => ⟨4, c, tid, tag (w 21), ws.take 20 ++ [fld (w 21) 43 28], [w 20, fld (w 21) 23 0], 0, some g, none⟩
  | 7 => ⟨7, c, 0, 0, [index], [w 0, fld (w 0) 45 38], 0, some g, none⟩
  | k => ⟨k, c, 0, 0, [index], ws, 0, some g, none⟩

/-- The prefix of an LPM image is well formed (Table 4.11 BAD_PREFIX). -/
def prefixOk (kind : Nat) (ws : List Nat) (e : Entry) : Bool :=
  let width := if kind = 2 then 32 else 128
  let n := e.key.getD 1 0
  n ≤ width && (e.key.getD 0 0) % 2 ^ (width - n) == 0
    && (kind = 3 || ((wordBytes (ws.take 2)).drop 4).all (fun b => b == 0))

/-- The image passes the checks of BAD_INDEX (Table 4.11, R97, R155). -/
def indexOk (d : Dev) (p kind index : Nat) (ws : List Nat) : Bool :=
  let w (i : Nat) := ws.getD i 0
  match kind with
  | 0 => resultOk d p 0 (w 2) && ctrOk d p (fld (w 3) 23 0)
  | 1 => resultOk d p 1 (w 6) && ctrOk d p (fld (w 7) 23 0) && (fld (w 6) 63 60 != 3 || imageOk d p (w 8))
  | 2 => resultOk d p 2 (w 2)
  | 3 => resultOk d p 3 (w 2)
  | 4 => resultOk d p 4 (w 20) && ctrOk d p (fld (w 21) 23 0)
  | 5 => inRange d p 0 index && index < 2 ^ 18 && imageOk d p (w 0)
  | 6 => inRange d p 1 index && index < 2 ^ 16
      && fld (w 0) 63 45 + fld (w 0) 44 37 ≤ 524287
      && inRange d p 2 (fld (w 0) 63 45) && inRange d p 2 (fld (w 0) 63 45 + fld (w 0) 44 37)
  | _ => inRange d p 2 index && inRange d p 0 (fld (w 0) 63 46)

/-- The clusters that a change writes: none when CMASK is not allowed, `tbl 7` when the table is
not there (R78, R107, R116). -/
def changeClusters (d : Dev) (kind tid cmask : Nat) : Except Eval (List Nat) :=
  let named := setBits cmask 8
  if 5 ≤ kind then
    if named = [] then .error (.cmd 6)
    else if named.all (fun c => isOn d ⟨.exm, c⟩) then .ok named else .error (.tbl 7)
  else if kind = 1 then
    if named.length ≠ 1 then .error (.cmd 6)
    else if named.all (fun c => isOn d ⟨.exm, c⟩ && isOn d (stackFor d c)
        && bit (rd d ⟨.exm, c⟩ .exmFlowCfg) 32) then .ok named
    else .error (.tbl 7)
  else
    let want := match kind with | 0 => 0 | 2 => 1 | 3 => 2 | _ => 3
    let dirs := (upto 0 8).map (fun c => dirEntry d c tid)
    let valid := dirs.filter (fun x => bit x 63)
    let on (c : Nat) : Bool := match kind with
      | 0 => isOn d ⟨.exm, c⟩
      | 4 => tcamOn d c (dirEntry d c tid)
      | _ => isOn d ⟨.lpm, c⟩
    match valid with
    | [] => .error (.tbl 7)
    | v :: _ =>
      if !(valid.all (fun x => fld x 62 59 == fld v 62 59)) || fld v 62 60 ≠ want then .error (.tbl 7)
      else if bit v 59 then
        if named.length ≠ 1 then .error (.cmd 6)
        else if named.all (fun c => bit (dirEntry d c tid) 63 && on c) then .ok named else .error (.tbl 7)
      else if dirs.all (fun x => x == v) && (upto 0 8).all on then .ok (upto 0 8)
      else .error (.tbl 7)

/-- Applies a change in each cluster in turn; the first failure leaves the tables as they were. -/
def evalClusters (t : TimeState) (g op kind tid p index : Nat) (ws : List Nat) : List Nat → Dev → Eval
  | [], d => .ok d
  | c :: l, d =>
    let e := imageEntry kind c tid p index g ws
    let r := if 5 ≤ kind then evalIndex t d g e else evalLookup t (touch t d ⟨.exm, c⟩ 5 tid) g op (dirEntry d c tid) e
    match r with
    | .ok d => evalClusters t g op kind tid p index ws l d
    | r => r

/-- Evaluates a change with its image words (R106, R116, R117). -/
def evalChange (t : TimeState) (d : Dev) (g p : Nat) (ws img : List Nat) : Eval :=
  let w1 := ws.getD 1 0
  let op := fld w1 63 60
  let kind := fld w1 59 56
  let tid := fld w1 55 48
  let index := fld w1 18 0
  if !changeFormOk ws || !imageFormOk kind tid img then .cmd 6
  else match changeClusters d kind tid (fld w1 47 40) with
    | .error r => r
    | .ok cs =>
      let e := imageEntry kind 0 tid p index g img
      if (kind = 2 || kind = 3) && !prefixOk kind img e then .tbl 5
      else if op ≠ 2 && !indexOk d p kind index img then .tbl 6
      else evalClusters t g op kind tid p index img cs d

/-- The image words of a descriptor: inline, or read from the host (R116). -/
def changeImage (ws : List Nat) (img : List Byte) : List Nat :=
  let kind := fld (ws.getD 1 0) 59 56
  let n := imageLen kind / 8
  if bit (ws.getD 1 0) 39 then (ws.drop 4).take (min 4 n) else leWords (img ++ List.replicate (8 * n) 0) n

/-- The wait of descriptor `n` of a ring. -/
def isStall (p r n : Nat) (s : Stall) : Bool := s.part == p && s.ring == r && s.n == n

/-- A descriptor's wait begins: counted once, with its reason (R110, Table 5.12). DESIGN CHOICE, log entry 46. -/
def stallBegin (t : TimeState) (d : Dev) (p r n reason : Nat) : Dev :=
  if d.cmt.stalls.any (isStall p r n) then d
  else
    let d := { d with cmt := { d.cmt with stalls := d.cmt.stalls ++ [⟨p, r, n, reason, t.tick⟩] } }
    wrF (count d (Ev.plain .cmt 1) 0 0 0 0) cmtBlk .commitStall 63 60 reason

/-- A descriptor's wait ends: its hub clocks are added to COMMIT_STALL_TIME; a hub clock is 3/2 slice clocks. DESIGN
CHOICE, log entry 46. -/
def stallEnd (t : TimeState) (d : Dev) (p r n : Nat) : Dev :=
  match findFirst (isStall p r n) d.cmt.stalls with
  | none => d
  | some s =>
    let d := { d with cmt := { d.cmt with stalls := d.cmt.stalls.filter (fun x => !isStall p r n x) } }
    countN d (Ev.plain .cmt 2) 0 0 0 0 ((t.tick - s.since) * 2 / 3)

/-- MAX_BATCH: 0 and values above 65,536 act as 65,536 (Table 5.9). -/
def maxBatch (d : Dev) : Nat :=
  let n := rdF d cmtBlk .cmtCfg 16 0
  if n = 0 || 65536 < n then 65536 else n

/-- Completion word 1 of the commit-engine opcodes (Table 5.4). -/
def cmtWord (cmd tbl : Nat) (unrepl noVer : Bool) (ok ver : Nat) : Nat :=
  cmd <<< 60 + tbl <<< 56 + b2n unrepl <<< 55 + b2n noVer <<< 54 + ok <<< 32 + ver

/-- The changes of a batch that were applied. DESIGN CHOICE, log entry 48. -/
def okCount (b : Batch) : Nat := countIf (fun c => c.tbl == 1) b.changes

/-- Completes the TBL_CHANGE descriptors of a batch that ends: applied ones with `cmd`, and `tbl`
and version when it committed; a failed or refused one keeps its own status (R118). A change's
`tbl` of 16 or more is 16 plus a CMD_STATUS. -/
def endChanges (d : Dev) (b : Batch) (cmd tbl ver : Nat) : Dev :=
  b.changes.foldl (fun d c =>
    completeDesc d b.part b.ring c.n 0
      (if c.tbl = 1 then cmtWord cmd tbl false false 0 ver
       else if 16 ≤ c.tbl then cmtWord (c.tbl - 16) 0 false false 0 0
       else cmtWord 0 c.tbl false false 0 0)) d

/-- Pending copies of a tag are freed and its marks withdrawn (Table 5.1). -/
def undoTag (d : Dev) (g : Nat) : Dev :=
  { d with entries := (d.entries.filter (fun e => e.born != some g)).map
                        (fun e => if e.dies == some g then { e with dies := none } else e) }

/-- An open or waiting batch is discarded: its descriptors complete with `cmd` (R118, R124, R125). -/
def discardBatch (t : TimeState) (d : Dev) (b : Batch) (cmd : Nat) : Dev :=
  let d := undoTag d b.tag
  let d := { d with
    cmt := { d.cmt with queue := d.cmt.queue.filter (fun x => x != b.tag) }
    tw := { d.tw with numbers := d.tw.numbers.map (fun x => if x.1 == b.tag then (64, x.2) else x) } }
  let d := dropBatch d b.tag
  if b.internal then d
  else
    let d := endChanges (if b.state = 2 then stallEnd t d b.part b.ring b.desc else d) b cmd 0 0
    if b.state = 2 then completeDesc d b.part b.ring b.desc 0 (cmtWord cmd 0 false false 0 0) else d

/-- A ring's TBL_CHANGE that waits for a tag or behind a copy completes with a CMD_STATUS. -/
def dropWaiting (t : TimeState) (d : Dev) (s : Stall) (cmd : Nat) : Dev :=
  match nextDesc d s.part s.ring with
  | some c =>
    if c.n = s.n then completeDesc (stallEnd t d s.part s.ring s.n) s.part s.ring s.n 0 (cmtWord cmd 0 false false 0 0) else d
  | none => d

/-- Ends the open and waiting batches that `sel` selects, and the waiting descriptors of the rings
that wait, with a CMD_STATUS (R124, R125). A freeze ends a decoded commit that waits for its version like an open
batch. DESIGN CHOICE, log entry 148. -/
def endBatches (t : TimeState) (d : Dev) (sel : Nat → Bool) (cmd : Nat) : Dev :=
  let d := (d.cmt.batches.filter (fun b => sel b.part && b.state ≤ 2)).foldl (fun d b => discardBatch t d b cmd) d
  (d.cmt.stalls.filter (fun s => sel s.part)).foldl (fun d s => dropWaiting t d s cmd) d

/-- The directory entries that a change of a lookup table reads (R253). -/
def touchDirs (t : TimeState) (d : Dev) (ws : List Nat) : Dev :=
  let w1 := ws.getD 1 0
  if fld w1 59 56 < 5 && fld w1 59 56 ≠ 1 then
    (upto 0 8).foldl (fun d c => touch t d ⟨.exm, c⟩ 5 (fld w1 55 48)) d
  else d

/-- The word of the batch staging memory that holds change `k` of a tag. DESIGN CHOICE, log entry 149. -/
def stageWord (g k : Nat) : Nat := g * 1024 + k % 1024

/-- The staging words of a batch's pending changes. DESIGN CHOICE, log entry 149. -/
def stageWords (b : Batch) : List Nat :=
  ((b.changes.zip (upto 0 b.changes.length)).filter (fun x => x.1.tbl == 1)).map (fun x => stageWord b.tag x.2)

/-- A new batch of a ring under a tag. -/
def freshBatch (g p r : Nat) (internal : Bool) : Batch := ⟨g, p, r, 1, [], 0, 0, 0, internal, 0, internal, [], false⟩

/-- TBL_CHANGE: the ring's next descriptor is evaluated (R115 to R118); no image is one that could not be read, which
sets IMAGE_FAULT too (R126). A change that is written takes a word of the staging memory. DESIGN CHOICE, log entries
46 and 149. -/
def tblChange (t : TimeState) (d : Dev) (p r : Nat) (img : Option (List Byte)) : Dev :=
  match nextOp d p r 0x20 with
  | none => d
  | some c =>
    if !isOn d cmtBlk then d
    else if frozenFor d p then completeDesc d p r c.n 0 (cmtWord 3 0 false false 0 0)
    else
      let opened : Option (Batch × Dev) := match openBatch d p r with
        | some b => some (b, d)
        | none => (freeTag d).map (fun g =>
            let b := freshBatch g p r false
            (b, { d with cmt := { d.cmt with batches := d.cmt.batches ++ [b] } }))
      match opened with
      | none => stallBegin t d p r c.n 4
      | some (b, d1) =>
        let d1 := touchDirs t d1 c.words
        let iw := changeImage c.words (img.getD [])
        let lost := img.isNone && !bit (dw c 1) 39 && changeFormOk c.words
        let ev := if maxBatch d ≤ b.count then .cmd 8
          else if lost then .cmd 7
          else evalChange t d1 b.tag p c.words iw
        match ev with
        | .wait => stallBegin t d1 p r c.n 5
        | .ok d2 =>
          let d2 := writeWord d2 cmtBlk 0 (stageWord b.tag b.changes.length)
          let b := { b with changes := b.changes ++ [⟨c.n, 1⟩], count := b.count + 1,
                            log := b.log ++ [⟨c.words, img.getD []⟩] }
          startDesc (setBatch (stallEnd t d2 p r c.n) b) p r c.n
        | .tbl n =>
          let b := { b with changes := b.changes ++ [⟨c.n, n⟩], count := b.count + 1 }
          startDesc (setBatch (stallEnd t d1 p r c.n) b) p r c.n
        | .cmd n =>
          let d1 := if n = 7 then errFault t d1 cmtBlk 1 16 0 0 else d1
          startDesc (setBatch (stallEnd t d1 p r c.n) { b with changes := b.changes ++ [⟨c.n, 16 + n⟩] }) p r c.n

/-- TBL_ABORT (Table 5.1, R118). Its words W1 to W7 are not looked at. DESIGN CHOICE, log entry 150. -/
def tblAbort (t : TimeState) (d : Dev) (p r : Nat) : Dev :=
  match nextOp d p r 0x22 with
  | none => d
  | some c =>
    if !isOn d cmtBlk then d
    else if frozenFor d p then completeDesc d p r c.n 0 (cmtWord 3 0 false false 0 0)
    else
      let d := match openBatch d p r with
        | some b => discardBatch t d b 1
        | none => d
      completeDesc d p r c.n 0 (cmtWord 0 0 false false 0 0)

/-- VER_DRAIN is decoded: it waits for its version (Table 5.1). -/
def verDrain (d : Dev) (p r : Nat) : Dev :=
  match nextOp d p r 0x23 with
  | none => d
  | some c =>
    if !isOn d cmtBlk then d
    else if frozenFor d p then completeDesc d p r c.n 0 (cmtWord 3 0 false false 0 0)
    else if fld (dw c 1) 63 32 ≠ 0 || (upto 2 6).any (fun i => dw c i ≠ 0) then
      completeDesc d p r c.n 0 (cmtWord 6 0 false false 0 0)
    else
      let d := { d with cmt := { d.cmt with drainWaits := d.cmt.drainWaits ++ [(p, r, c.n, fld (dw c 1) 31 0)] } }
      startDesc d p r c.n

/-- Every version up to this one has been current and has drained (Table 5.1). -/
def hasDrained (d : Dev) (v : Nat) : Bool := !verLe d.cmt.oldest v && verLe v (verCurrent d)

/-- VER_DRAIN_DONE: the ring's oldest waiting VER_DRAIN completes if its versions have drained. -/
def verDrainDone (d : Dev) (p r : Nat) : Dev :=
  match findFirst (fun x => x.1 == p && x.2.1 == r) d.cmt.drainWaits with
  | none => d
  | some (_, _, n, v) =>
    if hasDrained d v then
      let d := { d with cmt := { d.cmt with drainWaits :=
                                           eraseFirst (fun x => x.1 == p && x.2.1 == r) d.cmt.drainWaits } }
      completeDesc d p r n 0 (cmtWord 0 0 false false 0 0)
    else d

/-- The partition's own commit bucket has a credit, or it has no limit (R293). -/
def partCredit (d : Dev) (p : Nat) : Bool :=
  fld (part d p).budget 15 0 == 0 || 0 < (part d p).credits

/-- A version may be assigned while at most six are live (R110). -/
def roomForVersion (d : Dev) : Bool := (liveVersions d).length ≤ 6

/-- The members that a tag writes: cluster and member. -/
def tagMembers (d : Dev) (g : Nat) : List (Nat × Nat) :=
  (d.entries.filter (fun e => e.kind == 7 && e.born == some g)).map (fun e => (e.cluster, e.key.headD 0))

/-- The next version is assigned to a batch, or to an empty commit, and its switch begins (R119). A member that the
batch writes takes its image's WEIGHT, whatever weight write still waits for its group's switch, and whatever weight a fence keeps for it (R99, R273). -/
def assignVersion (d : Dev) (v : Nat) (tag : Option Nat) : Dev :=
  let ms := (tag.map (tagMembers d)).getD []
  let joint := 4 ≤ rdF d (devBlk .csl) .cslState 2 0 && rdF d (devBlk .csl) .cslState 2 0 ≤ 5
  { d with
    wgtPend := d.wgtPend.filter (fun x => !ms.contains (x.1, x.2.1))
    flt := { d.flt with saved := d.flt.saved.filter (fun x => !ms.contains (x.1, x.2.1)) }
    cmt := { d.cmt with
      latest := v
      switches := d.cmt.switches ++ [⟨v, tag, tag.isNone, upto 0 72⟩]
      batches := mapIf (fun b => some b.tag == tag) (fun b => { b with state := 3, version := v, joint := joint })
                   d.cmt.batches } }

/-- The version that slice 0 to 63, or cluster 64 to 71, has adopted. -/
def unitVersion (d : Dev) (u : Nat) : Nat := SMap.get 0 d.cmt.adopted u

/-- What a unit owes for an epoch: 0 nothing, 1 a report, 2 a report on its way. At reset every
unit owes epoch 0's (R111). -/
def owedDefault (e : Nat) : Nat := if e = 0 then 1 else 0

/-- What a unit still owes of the drain reports of a version (R111). -/
def owed (d : Dev) (u e : Nat) : Nat := SMap.get (owedDefault e) d.cmt.owed (u * 8 + e)

/-- The same, changed. -/
def setOwed (d : Dev) (u e v : Nat) : Dev :=
  { d with cmt := { d.cmt with owed := SMap.set (owedDefault e) d.cmt.owed (u * 8 + e) v } }

/-- A unit adopts a version: it owes a report for its epoch (R111). -/
def adopt (d : Dev) (u v : Nat) : Dev :=
  let d := { d with cmt := { d.cmt with adopted := SMap.set 0 d.cmt.adopted u v } }
  setOwed d u (v % 8) 1

/-- TAG_RESOLVE_ACK: the oldest unresolved tag is resolved in every cluster (Table 5.6). -/
def tagResolveAck (d : Dev) : Dev :=
  match findFirst (fun s => !s.resolved) d.cmt.switches with
  | none => d
  | some s => { d with cmt := { d.cmt with
      switches := mapIf (fun x => x.version == s.version) (fun x => { x with resolved := true }) d.cmt.switches } }

/-- SLICE_ADOPT: the unit adopts the next version that is resolved and that it has not adopted. -/
def sliceAdopt (d : Dev) (u : Nat) : Dev :=
  match findFirst (fun s => s.units.contains u) d.cmt.switches with
  | none => d
  | some s =>
    if s.resolved then
      adopt { d with cmt := { d.cmt with switches := mapIf (fun x => x.version == s.version)
                                                     (fun x => { x with units := x.units.filter (fun y => y != u) }) d.cmt.switches } } u s.version
    else d

/-- A slice in NAP or OFF counts as having adopted and reported everything (R111). -/
def unitAway (d : Dev) (u : Nat) : Bool :=
  u < 64 && 2 ≤ slcState d u

/-- The oldest version retires while it is not current and every report is in; settling of its
tag starts (R109, R111, R114). -/
def retireLoop : Nat → TimeState → Dev → Dev
  | 0, _, d => d
  | k + 1, t, d =>
    let o := d.cmt.oldest
    if o ≠ verCurrent d && (upto 0 72).all (fun u => unitAway d u || owed d u (o % 8) == 0) then
      let clocks := (t.tick - memGet d .verTick 0 (o % 8)) * 2 / 3
      let d := if rdF d cmtBlk .cmtDrainMax 31 0 < clocks then wrF d cmtBlk .cmtDrainMax 31 0 clocks else d
      retireLoop k t { d with cmt := { d.cmt with
        oldest := succVer d o
        batches := mapIf (fun b => b.state == 3 && b.version == o) (fun b => { b with state := 4 }) d.cmt.batches } }
    else d

/-- DRAINED: a report reaches the hub (R111). DEDUCED, log entry 43. -/
def drained (t : TimeState) (d : Dev) (u e : Nat) : Dev :=
  if owed d u e = 2 then retireLoop 8 t (setOwed d u e 0) else d

/-- SETTLE_COMPLETE: born copies are settled, dead ones freed, and the tag is free (R114). DEDUCED, log entries 43 and
147. -/
def settleComplete (t : TimeState) (d : Dev) (tag : Nat) : Dev :=
  if tagState d tag = 4 then
    let marked := d.entries.filter (fun e => e.dies == some tag || e.born == some tag)
    dropBatch (marked.foldl (markWrite t) { d with
      entries := (d.entries.filter (fun e => e.dies != some tag)).map
                   (fun e => if e.born == some tag then { e with born := none } else e) }) tag
  else d

/-- DRAIN_SLOW: the oldest version has been live for longer than DRAIN_LIMIT after it ceased to
be current (R126). -/
def drainSlow (t : TimeState) (d : Dev) : Dev :=
  if d.cmt.oldest ≠ verCurrent d && rdF d cmtBlk .cmtCfg 47 32 ≠ 0 then errFault t d cmtBlk 0 16 0 0 else d

/-- COMMIT_CREDIT_REFILL: one credit, up to BURST; BURST 0 acts as 1 (R121). -/
def creditRefill (d : Dev) : Dev :=
  { d with cmt := { d.cmt with credits := min (max 1 (rdF d cmtBlk .cmtCfg 31 28)) (d.cmt.credits + 1) } }

/-- PARTITION_CREDIT_REFILL: the partition's bucket (R293). -/
def partRefill (d : Dev) (p : Nat) : Dev :=
  let x := part d p
  setPart d p { x with credits := min (max 1 (fld x.budget 23 20)) (x.credits + 1) }

/-- The copies of a member that have a version, or are settled: those of an open or waiting batch take their image's
WEIGHT at its commit (R99, R113). -/
def versioned (d : Dev) (c m : Nat) (e : Entry) : Bool :=
  e.kind == 7 && e.cluster == c && e.key == [m] && (match e.born with
    | none => true
    | some g => 3 ≤ tagState d g)

/-- A member's weight changes in every versioned copy of the member, and where no commit has written it: a narrow write
of each copy's word (R99, R113, Table 11.3). -/
def applyWeight (t : TimeState) (d : Dev) (c m w : Nat) : Dev :=
  let ps := (d.entries.filter (versioned d c m)).map (fun e => e.place)
  let d := (if ps = [] then [0] else ps).foldl (fun d p => mergeWord t d ⟨.exm, c⟩ 4 (2 * m + p)) d
  memSet { d with entries := mapIf (versioned d c m) (fun e => { e with data := e.data.set 1 w }) d.entries } .exmWgt c m w

/-- Some group of the cluster names the member (R97). -/
def groupHas (e : Entry) (m : Nat) : Bool :=
  let w := e.data.headD 0
  fld w 63 45 ≤ m && m ≤ fld w 63 45 + fld w 44 37

/-- A weight write: it waits for the switch of the member's group, if a group names it (R99). -/
def weightWrite (t : TimeState) (d : Dev) (c m w : Nat) : Dev :=
  if d.entries.any (fun e => e.kind == 6 && e.cluster == c && groupHas e m) then
    { d with wgtPend := (d.wgtPend.filter (fun x => !(x.1 == c && x.2.1 == m))) ++ [(c, m, w)] }
  else applyWeight t d c m w

/-- WEIGHT_SWITCH: the cluster switches a group to its recomputed weights (R99). -/
def weightSwitch (t : TimeState) (d : Dev) (c g : Nat) : Dev :=
  let gs := d.entries.filter (fun e => e.kind == 6 && e.cluster == c && e.key == [g])
  let sel (x : Nat × Nat × Nat) : Bool := x.1 == c && gs.any (fun e => groupHas e x.2.1)
  let d1 := (d.wgtPend.filter sel).foldl (fun d x => applyWeight t d x.1 x.2.1 x.2.2) d
  { d1 with wgtPend := d.wgtPend.filter (fun x => !sel x) }

/-- The weight that EXM_WGT_DATA reads: as last written, or of the copy that VER_CURRENT sees. -/
def readWeight (d : Dev) (c m : Nat) : Nat :=
  match findFirst (fun x => x.1 == c && x.2.1 == m) d.wgtPend with
  | some x => x.2.2
  | none => memberWeight d (verCurrent d) c m

end Sys2Proof.Machine
end

