-- ==== Sys2Proof/Machine/Switch.lean ====
section
/-! DEFINITION. Commits: TBL_COMMIT, the numbers of an attached pair, assigning a version, the switch,
and what the twin hears of it. -/
namespace Sys2Proof.Machine

/-- The Cersa block; its link state (Table 14.2), and the device's role. -/
def cslBlk : Blk := devBlk .csl
def twinState (d : Dev) : Nat := rdF d cslBlk .cslState 2 0
def roleB (d : Dev) : Bool := bit (rd d cslBlk .cslState) 63
def attached (d : Dev) : Bool := twinState d == 4

/-- Stores the twin's state. -/
def setTw (d : Dev) (w : Twin) : Dev := { d with tw := w }

/-- A partition's CSL_PREPL_DATA (Table 14.7). -/
def prepl (d : Dev) (p : Nat) : Nat := memGetD d .cslPrepl 0 p 1
def setPrepl (d : Dev) (p v : Nat) : Dev := memSetD d .cslPrepl 0 p 1 v

/-- The partition is DIVERGED or UNSYNCED: its numbers are empty versions on the twin (R316). -/
def apart (d : Dev) (p : Nat) : Bool := bit (prepl d p) 16 || bit (prepl d p) 17

/-- A TWIN_PART event: 0 SYNCED, 1 UNSYNCED, 2 DIVERGED; the partition's bits follow (Tables 14.7, 17.4). DEDUCED, log
entry 101. -/
def twinPart (t : TimeState) (d : Dev) (p st : Nat) : Dev :=
  let v := prepl d p
  let v := match st with
    | 0 => putFld v 17 16 0
    | 1 => putFld v 17 17 1
    | _ => putFld v 16 16 1
  eventMgr t (setPrepl d p v) 0x07 0 (st <<< 16 + p) 0 0

/-- Replication of a TBL_COMMIT: REPL, or the partition's default; 1 none, 2 asynchronous, 3 synchronous. -/
def replMode (d : Dev) (p w1 : Nat) : Nat :=
  let r := fld w1 63 62
  let r := if r = 0 then fld (prepl d p) 1 0 else r
  if r = 0 then 1 else r

/-- An image's words from the entry, under the partition's own tag. -/
def entryImage (e : Entry) : List Nat :=
  let w (i : Nat) := e.data.getD i 0
  let tail := e.part <<< 44
  match e.kind with
  | 0 => e.key ++ [w 0, e.tid <<< 56 + tail + w 1]
  | 1 => e.key ++ [w 0, tail + w 1] ++ e.data.drop 2
  | 2 => leWords (toBe 4 (e.key.getD 0 0)) 2 ++ [w 0, e.tid <<< 56 + tail + e.key.getD 1 0 <<< 36 + e.key.getD 2 0 <<< 16]
  | 3 => leWords (toBe 16 (e.key.getD 0 0)) 2 ++ [w 0, e.tid <<< 56 + tail + e.key.getD 1 0 <<< 36 + e.key.getD 2 0 <<< 16]
  | 4 => e.key.take 20 ++ [w 0, e.tid <<< 56 + tail + e.key.getD 20 0 <<< 28 + w 1]
  | 7 => [w 0]
  | _ => e.data

/-- The change that writes an entry anew, in its cluster or, for a replicated table, in all. -/
def entryChange (e : Entry) : RepChange :=
  let op := if 5 ≤ e.kind then 3 else 0
  let ix := if 5 ≤ e.kind then e.key.getD 0 0 else 0
  ⟨[0, op <<< 60 + e.kind <<< 56 + e.tid <<< 48 + 2 ^ e.cluster <<< 40 + ix, 0, 0, 0, 0, 0, 0], wordBytes (entryImage e)⟩

/-- The entries of a partition that a version sees: those with its tag, and the indexes of its ranges. -/
def partEntries (d : Dev) (v p : Nat) : List Entry :=
  d.entries.filter (fun e => visible d v e &&
    (if e.kind < 5 then e.part == p else inRange d p (e.kind - 5) (e.key.getD 0 0)))

/-- A table is replicated in the clusters. -/
def replicatedTable (d : Dev) (e : Entry) : Bool :=
  e.kind ≠ 1 && e.kind < 5 && !bit (dirEntry d e.cluster e.tid) 59

/-- The changes that copy a partition: a replicated table's entry once. -/
def scanChanges (d : Dev) (v p : Nat) : List RepChange :=
  ((partEntries d v p).filter (fun e => !replicatedTable d e || e.cluster == 0)).map entryChange

/-- Purposes of batches that no ring posted, in the place of a ring. -/
def ringSync : Nat := 100
def ringReplay : Nat := 101
def ringRestore : Nat := 102
def ringPurge : Nat := 103
def ringTwin : Nat := 104

/-- An internal batch takes a free tag. DESIGN CHOICE, log entry 49. -/
def openInternal (d : Dev) (p purpose : Nat) : Option (Batch × Dev) :=
  (freeTag d).map (fun g =>
    let b := freshBatch g p purpose true
    (b, { d with cmt := { d.cmt with batches := d.cmt.batches ++ [b] } }))

/-- The next number of an attached pair for a waiting batch: role A takes it, role B asks for it (R122, R314). DEDUCED,
log entry 101. -/
def askNumber (d : Dev) (tag : Nat) : Dev :=
  if !attached d then d
  else if roleB d then setTw (send d (.cersa .numberRequest)) { d.tw with asked := d.tw.asked + 1 }
  else
    let n := (d.tw.seq + 1) % 2 ^ 32
    setTw d { d.tw with seq := n, numbers := d.tw.numbers ++ [(tag, n)] }

/-- A batch waits for its version (R115). DEDUCED, log entry 102. -/
def queueBatch (d : Dev) (b : Batch) : Dev :=
  let d := setBatch d { b with state := 2 }
  askNumber { d with cmt := { d.cmt with queue := d.cmt.queue ++ [b.tag] } } b.tag

/-- The reason for which the last commit in the queue waits, 0 when it does not. DEDUCED, log entry 47. -/
def lastReason (d : Dev) : Nat :=
  match (d.cmt.queue.getLast?).bind (batchOf d) with
  | some b => ((findFirst (isStall b.part b.ring b.desc) d.cmt.stalls).map (fun s => s.reason)).getD 0
  | none => 0

/-- Why a commit decoded now behind those of the queue would wait: for its number from the twin, for a version to
drain, for a credit, or for the commit before it; 0 not at all (R110, R121, R122, R293, R313). DEDUCED, log entry
47. -/
def waitReason (d : Dev) (p : Nat) : Nat :=
  let ahead := d.cmt.queue.length
  let own := countIf (fun g => (batchOf d g).any (fun b => b.part == p && !b.internal)) d.cmt.queue
  if d.tw.hold || (attached d && roleB d) then 3
  else if 6 < (liveVersions d).length + ahead then 1
  else if d.cmt.credits ≤ ahead || (fld (part d p).budget 15 0 ≠ 0 && (part d p).credits ≤ own) then 2
  else lastReason d

/-- TBL_COMMIT (R118, R119, Table 5.3). A batch with an uncorrectable staging word is discarded as under ALL_OR_NONE
(Table 11.2). DESIGN CHOICE, log entries 46 and 149. -/
def tblCommit (t : TimeState) (d : Dev) (p r : Nat) : Dev :=
  match nextOp d p r 0x21 with
  | none => d
  | some c =>
    let finish (d : Dev) (w : Nat) : Dev := completeDesc d p r c.n 0 w
    if !isOn d cmtBlk then d
    else if frozenFor d p then finish d (cmtWord 3 0 false false 0 0)
    else if fld (dw c 1) 60 0 ≠ 0 || (upto 2 6).any (fun i => dw c i ≠ 0) then finish d (cmtWord 6 0 false false 0 0)
    else match openBatch d p r with
      | none => finish d (cmtWord 0 0 false true 0 (verCurrent d))
      | some b =>
        let (bad, d) := readWords t d cmtBlk 0 (stageWords b)
        if bad || (bit (dw c 1) 61 && b.changes.any (fun x => x.tbl ≠ 1)) then
          finish (discardBatch t d b 1) (cmtWord 1 0 false false 0 0)
        else if okCount b = 0 then finish (discardBatch t d b 0) (cmtWord 0 0 false true 0 (verCurrent d))
        else
          let b := { b with desc := c.n, repl := replMode d p (dw c 1), allOrNone := bit (dw c 1) 61 }
          let why := waitReason d p
          let d := startDesc (queueBatch d b) p r c.n
          if why = 0 then d else stallBegin t d p r c.n why

/-- A commit takes its credits: the device's, and its partition's own (R121, R293). DESIGN CHOICE, log entry 49. -/
def takeCredits (d : Dev) (b : Batch) : Dev :=
  let d := { d with cmt := { d.cmt with credits := d.cmt.credits - 1 } }
  if b.internal || fld (part d b.part).budget 15 0 = 0 then d
  else setPart d b.part { part d b.part with credits := (part d b.part).credits - 1 }

/-- Evaluates the changes of a batch in turn: the state once all are written, or none when one fails;
`wait` when one has to wait. -/
def evalAll (t : TimeState) (g p : Nat) : List RepChange → Dev → Eval
  | [], d => .ok d
  | x :: l, d =>
    match evalChange t (touchDirs t d x.words) g p x.words (changeImage x.words x.image) with
    | .ok d => evalAll t g p l d
    | r => r

/-- The twin's commit of the next number is applied: as one batch, or as an empty version (R315, R316). -/
def applyArrived (t : TimeState) (d : Dev) (a : Arrived) : Dev :=
  let drop (d : Dev) : Dev := setTw d { d.tw with held := d.tw.held.filter (fun x => x.version != a.version) }
  let empty (d : Dev) (ok : Bool) : Dev :=
    let d := drop (assignVersion d a.version none)
    setTw d { d.tw with acks := d.tw.acks ++ [(a.version, ok)] }
  let st := (part d a.part).st
  if a.lost then empty (twinPart t d a.part 2) false
  else if a.changes = [] then empty d true
  else if apart d a.part then empty d false
  else if st = 0 || st = 4 || st = 7 || st = 6 then empty (twinPart t d a.part 2) false
  else if d.cmt.credits = 0 then d
  else match openInternal d a.part ringTwin with
    | none => d
    | some (b, d1) =>
      match evalAll t b.tag a.part a.changes d1 with
      | .wait => d
      | .ok d2 =>
        let d := drop (assignVersion (takeCredits (setBatch d2 { b with state := 2 }) b) a.version (some b.tag))
        setTw d { d.tw with acks := d.tw.acks ++ [(a.version, true)] }
      | _ => empty (twinPart t d a.part 2) false

/-- A change of a held commit as the sink replays it: an INSERT of a present key acts as MODIFY, and a
MODIFY or DELETE of an absent key as INSERT or nothing (R312). -/
def evalReplay (t : TimeState) (g p : Nat) : List RepChange → Dev → Eval
  | [], d => .ok d
  | x :: l, d =>
    let w1 := x.words.getD 1 0
    let img := changeImage x.words x.image
    let as (op : Nat) : Eval := evalChange t (touchDirs t d x.words) g p (x.words.set 1 (putFld w1 63 60 op)) img
    let r := match as (fld w1 63 60), fld w1 63 60 with
      | .tbl 3, 0 => as 1
      | .tbl 4, 1 => as 0
      | .tbl 4, 2 => .ok d
      | r, _ => r
    match r with
    | .ok d => evalReplay t g p l d
    | r => r

/-- The sink goes on with a partition: the next held commit of it, or its end (R312). -/
def replayNext (t : TimeState) (d : Dev) (p : Nat) : Dev :=
  match findFirst (fun a => a.part == p) d.tw.replay with
  | none => twinPart t (setTw d { d.tw with sink := d.tw.sink.filter (fun x => x != p)
                                            built := d.tw.built.filter (fun x => x != p) }) p 0
  | some a =>
    match openInternal d p ringReplay with
    | none => d
    | some (b, d1) => match evalReplay t b.tag p a.changes d1 with
      | .ok d2 => queueBatch (setTw d2 { d2.tw with replay := eraseFirst (fun x => x == a) d2.tw.replay }) b
      | .wait => d
      | _ =>
        let d := setTw d { d.tw with sink := d.tw.sink.filter (fun x => x != p)
                                     built := d.tw.built.filter (fun x => x != p)
                                     replay := d.tw.replay.filter (fun x => x.part != p) }
        twinPart t d p 1

/-- A held commit that found no tag, or a slot that another batch blocks, is tried again (R312). -/
def replayAgain (t : TimeState) (d : Dev) : Dev :=
  (d.tw.built.filter (fun p => !d.cmt.batches.any (fun b => b.part == p && (b.ring == ringSync || b.ring == ringReplay)))).foldl
    (replayNext t) d

/-- The ring has a commit whose version has been assigned and is not current: the engine holds at most one such commit
for each ring (R124). DEDUCED, log entry 47. -/
def ringSwitching (d : Dev) (b : Batch) : Bool :=
  !b.internal && d.cmt.switches.any (fun s =>
    (s.tag.bind (batchOf d)).any (fun x => x.part == b.part && x.ring == b.ring && !x.internal))

/-- VERSION_ASSIGN: a number whose batch was discarded is an empty version on both devices. The engine looks at what
takes the next version (R110, R121, R122, R313). DEDUCED, log entry 47. -/
def versionAssign (t : TimeState) (d : Dev) : Dev :=
  let v := (d.cmt.latest + 1) % 2 ^ 32
  if !isOn d cmtBlk || !roomForVersion d then d
  else match d.tw.rebase with
    | some (e, n) =>
      if e = 0 then
        let d := if n = v then d else { d with cmt := { d.cmt with jump := some (d.cmt.latest, n) } }
        let d := assignVersion d n none
        setTw d { d.tw with rebase := none, cut := some n }
      else
        let d := assignVersion d v none
        setTw d { d.tw with rebase := some (e - 1, n) }
    | none =>
      match findFirst (fun a => a.version == v) d.tw.held with
      | some a => if attached d || twinState d = 5 then applyArrived t d a else d
      | none =>
        if d.tw.numbers.contains (64, v) then
          let d := send (assignVersion d v none) (.cersa (.commit v 4096 [] false))
          setTw d { d.tw with numbers := d.tw.numbers.filter (fun x => x != (64, v)) }
        else match d.cmt.queue with
        | [] => replayAgain t d
        | g :: rest => match batchOf d g with
          | none => d
          | some b =>
            let wait (n : Nat) : Dev := if b.internal then d else stallBegin t d b.part b.ring b.desc n
            let mine := !attached d || d.tw.numbers.contains (g, v)
            if ringSwitching d b then d
            else if d.tw.hold || !mine then wait 3
            else if d.cmt.credits = 0 || !(b.internal || partCredit d b.part) then wait 2
            else
              let d := takeCredits d b
              let d := if b.internal then d else stallEnd t d b.part b.ring b.desc
              let d := { d with cmt := { d.cmt with queue := rest } }
              let d := setTw d { d.tw with numbers := d.tw.numbers.filter (fun x => x.1 != g) }
              assignVersion d v (some g)

/-- Bytes that a replicated commit takes of the replication queue. -/
def commitSize (l : List RepChange) : Nat := (l.map (fun x => 64 + x.image.length)).sum

/-- The replication queue of 4 MiB can take a commit (R317). -/
def replRoom (d : Dev) (n : Nat) : Bool :=
  (d.tw.sent.map (fun x => x.size)).sum + (d.tw.held.map (fun a => commitSize a.changes)).sum + n ≤ 4194304

/-- A commit of a ring is current: its changes complete, the twin hears of it, and its TBL_COMMIT
completes unless it waits for the twin (R118, R123, R314, R317). A pair that is detaching still completes what it
holds as replicated (R320); one whose partner was lost since the version was assigned leaves a commit that wanted
replication UNREPLICATED (R123). -/
def commitCurrent (d : Dev) (b : Batch) : Dev :=
  let d := endChanges d b 0 1 b.version
  let ok := okCount b
  let finish (d : Dev) (un : Bool) : Dev := completeDesc d b.part b.ring b.desc 0 (cmtWord 0 0 un false ok b.version)
  let say (d : Dev) (l : List RepChange) (lost : Bool) : Dev := send d (.cersa (.commit b.version b.part l lost))
  if attached d || (b.joint && twinState d = 5) then
    if (2 ≤ b.repl && !apart d b.part) || d.tw.source.contains b.part then
      let n := commitSize b.log
      if replRoom d n then
        let d := say d b.log false
        let wait := b.repl == 3
        let d := writeSpan d cslBlk 0 (8192 + (d.tw.sent.map (fun x => x.size)).sum / 8 % 524288) (n / 8)
        let d := setTw d { d.tw with sent := d.tw.sent ++ [⟨b.version, b.part, b.ring, b.desc, ok, wait, n⟩] }
        if wait then d else finish d false
      else finish (count (say d [] true) (Ev.plain .csl 1) 0 0 0 0) true
    else finish (say d [] false) false
  else if d.tw.source.contains b.part then finish (say d b.log false) false
  else finish d (b.joint && 2 ≤ b.repl && !apart d b.part)

/-- A member's weight that a commit writes is its base too (R334). -/
def commitBases (d : Dev) (g : Nat) : Dev :=
  (d.entries.filter (fun e => e.kind == 7 && e.born == some g)).foldl
    (fun d e => memSet d .limBase e.cluster (e.key.headD 0) 0) d

/-- What ends with a version that is current now, by the batch that had it. DESIGN CHOICE, log entry 48. -/
def batchCurrent (t : TimeState) (d : Dev) (b : Batch) : Dev :=
  let d := commitBases d b.tag
  if !b.internal then commitCurrent d b
  else
    let d := if (attached d || (b.joint && twinState d = 5)) && b.ring ≠ ringTwin then send d (.cersa (.commit b.version b.part [] false)) else d
    if b.ring = ringSync || b.ring = ringReplay then replayNext t d b.part
    else if b.ring = ringRestore || b.ring = ringPurge then setPart d b.part { part d b.part with found := 202 }
    else d

/-- The cut-over is complete: the pair is ATTACHED (R313). -/
def cutDone (t : TimeState) (d : Dev) (n : Nat) : Dev :=
  let d := wrF (wrF d cslBlk .cslState 2 0 4) cslBlk .cslState 11 8 0
  let d := d.tw.source.foldl (fun d p => twinPart t d p 0) d
  let d := setTw d { d.tw with cut := none, hold := false, seq := n, numbers := [], asked := 0, source := [] }
  let d := eventMgr t d 0x04 0 0 n 0
  d.cmt.queue.foldl (fun d g => askNumber d g) d

/-- A detaching device acknowledges once its replication queue is empty (R320). -/
def ackDetach (d : Dev) : Dev :=
  let w := d.tw
  if twinState d = 5 && w.leaving && d.cmt.switches == [] && w.sent == [] && w.held == [] && w.acks == [] then
    setTw (send d (.cersa .detachAck)) { w with leaving := false }
  else d

/-- DISABLING of the commit engine: once no switch is in progress, its batches and its waits end with DISABLED
(R125). -/
def cmtDown (t : TimeState) (d : Dev) : Dev :=
  if (blkSt d cmtBlk).cur = 3 && d.cmt.switches == [] then endBatches t d (fun _ => true) 9 else d

/-- SWITCH_COMPLETE: the oldest switch that every unit has adopted makes its version current, and CMT_COUNT counts
it (Table 5.6). -/
def switchComplete (t : TimeState) (d : Dev) : Dev :=
  match d.cmt.switches with
  | [] => d
  | s :: rest =>
    if !s.resolved || s.units.any (fun u => !unitAway d u) then d
    else
      let old := verCurrent d
      let d := memSet { d with cmt := { d.cmt with switches := rest } } .verTick 0 (old % 8) t.tick
      let d := count (wr d cmtBlk .verCurrent s.version) (Ev.plain .cmt 0) 0 0 0 0
      let d := match d.tw.acks.find? (fun a => a.1 == s.version) with
        | some a => setTw (send d (.cersa (.commitAck a.1 a.2))) { d.tw with acks := d.tw.acks.filter (fun x => x.1 != a.1) }
        | none => d
      let d := match s.tag.bind (batchOf d) with
        | some b => batchCurrent t d b
        | none => d
      let d := if d.tw.cut = some s.version then cutDone t d s.version else d
      retireLoop 8 t (cmtDown t (ackDetach d))

end Sys2Proof.Machine
end

