-- ==== Sys2Proof/Machine/Twin.lean ====
section
/-! DEFINITION. Twin pairing over the Cersa link: the handshake, attaching and bulk sync, live replication,
losing and leaving the partner. -/
namespace Sys2Proof.Machine

/-- FLT_LEVEL.LEVEL (Table 12.7). -/
def fltLevel (d : Dev) : Nat :=
  if d.flt.stopped then 4
  else if rdF d (devBlk .flt) .fltCrustCtrl 1 0 ≠ 0 then 3
  else if d.flt.fences ≠ [] then 2
  else d.flt.level.foldl (fun a e => max a (e.2 % 8)) 0

/-- The entry to ATTACHED, DETACHED or LOST sends its event with the cause (R310). -/
def enterTwin (t : TimeState) (d : Dev) (st cause : Nat) : Dev :=
  let d := wrF (wrF d cslBlk .cslState 2 0 st) cslBlk .cslState 11 8 cause
  eventMgr t d (match st with | 4 => 0x04 | 6 => 0x05 | _ => 0x06) 0 cause (verCurrent d) 0

/-- The block and its link are up and the state is one of those named. -/
def twinIn (d : Dev) (l : List Nat) : Bool := isOn d cslBlk && l.contains (twinState d)

/-- This device's HELLO (R308). -/
def ourHello (d : Dev) : Hello :=
  ⟨b2n (roleB d), 0xB0, rd d (devBlk .dev) .devShape, rdF d cslBlk .cslCfg 63 32, rdF d cslBlk .cslCfg 0 0⟩

/-- The first pairing check that fails, as its cause; 0 when all pass (R308). -/
def clash (ours theirs : Hello) : Nat :=
  if ours.role = theirs.role then 8
  else if ours.revision ≠ theirs.revision || ours.shape ≠ theirs.shape then 9
  else if ours.pair ≠ theirs.pair then 10
  else if ours.source ≠ theirs.source then 11
  else 0

/-- HELLO: both devices send theirs once the link is trained; the link comes up on 8 lanes or on 4 (R308 to R310).
DESIGN CHOICE, log entry 96. -/
def twinHello (d : Dev) (h : Hello) (width : Nat) : Dev :=
  if twinIn d [1, 7] && (width == 4 || width == 8) then
    let d := send d (.cersa (.hello (ourHello d)))
    let c := clash (ourHello d) h
    if c = 0 then wrF (wrF d cslBlk .cslState 2 0 2) cslBlk .cslState 19 16 width
    else
      let d := wrF d cslBlk .cslState 11 8 c
      if twinState d = 1 then wrF d cslBlk .cslState 2 0 0 else d
  else d

/-- TRAINING_TIMEOUT (Table 14.2). -/
def trainTimeout (t : TimeState) (d : Dev) : Dev :=
  if twinIn d [1] then
    errFault t (wrF (wrF d cslBlk .cslState 2 0 0) cslBlk .cslState 11 8 7) cslBlk 0 15 1 0
  else d

/-- Every commit that waits for the twin completes, with UNREPLICATED (R123, R319, R321). -/
def endSent (d : Dev) : Dev :=
  let d1 := d.tw.sent.foldl (fun d x =>
    if x.sync then completeDesc d x.part x.ring x.desc 0 (cmtWord 0 0 true false x.okc x.version) else d) d
  setTw d1 { d1.tw with sent := [] }

/-- What joined the pair ends: numbers, held commits, and batches of a bulk sync that hold no version. -/
def endPair (t : TimeState) (d : Dev) : Dev :=
  let d := (d.cmt.batches.filter (fun b => b.internal && (b.ring == ringSync || b.ring == ringReplay) && b.state ≤ 2)).foldl
    (fun d b => discardBatch t d b 0) d
  setTw d { d.tw with
    numbers := [], asked := 0, held := [], acks := [], source := [], sink := [], built := [], recs := [], replay := [],
    hold := false, rebase := none, cut := none, leaving := false, acked := false }

/-- An image transfer ends: its event goes out, and DONE or FAULT is set (R322). -/
def imageEnd (t : TimeState) (d : Dev) (fault : Bool) : Dev :=
  let n := rdF d cslBlk .cslXferStat 31 0
  let d := setTw d { d.tw with xfer := false }
  let i := if fault then 62 else 63
  eventMgr t (wrF d cslBlk .cslXferStat i i 1) 0x08 0 (b2n fault <<< 63 + n) 0 0

/-- The partner is lost (R318, R319). DEDUCED, log entry 99. -/
def twinLoss (t : TimeState) (d : Dev) (cause : Nat) : Dev :=
  if [2, 3, 4, 5].contains (twinState d) then
    let d := endPair t (endSent d)
    let d := if d.tw.xfer then imageEnd t d true else d
    enterTwin t (wrF d cslBlk .cslState 19 16 0) 7 cause
  else d

/-- Crust entry: DETACH goes out without draining (R321). DEDUCED, log entry 100. -/
def twinCrust (t : TimeState) (d : Dev) : Dev :=
  if [3, 4, 5].contains (twinState d) then
    enterTwin t (endPair t (endSent (send d (.cersa (.detach true))))) 6 6
  else d

/-- HEARTBEAT_SEND (Table 14.1, R277). -/
def heartbeatOut (d : Dev) : Dev :=
  if twinIn d [2, 3, 4, 5, 6, 7] && !d.flt.stopped then
    send d (.cersa (.heartbeat ⟨twinState d, verCurrent d, fltLevel d, rdF d (devBlk .flt) .fltCrustCtrl 1 0⟩))
  else d

/-- HEARTBEAT: FLT_LEVEL 4 is a loss (R318). -/
def heartbeatIn (t : TimeState) (d : Dev) (h : Heartbeat) : Dev :=
  if isOn d cslBlk && h.level = 4 then twinLoss t d 4 else d

/-- FLIT_RETRY (R309). -/
def flitBad (t : TimeState) (d : Dev) (eighth : Bool) : Dev :=
  if isOn d cslBlk then
    let d := count d (Ev.plain .csl 0) 0 0 0 0
    if eighth then errFault t d cslBlk 1 15 1 0 else d
  else d

/-- CSL_RETRAIN_DONE: the link is up again on 8 lanes or on 4. -/
def retrained (d : Dev) (width : Nat) : Dev :=
  if twinIn d [2, 3, 4, 5, 6] && (width == 4 || width == 8) then wrF d cslBlk .cslState 19 16 width else d

/-- Partitions that may be anything but FREE. -/
def knownParts (d : Dev) : List Nat := 0 :: (d.parts.map (fun e => e.1)).filter (fun p => p != 0)

/-- This device's conditions on a synced partition (R311). -/
def mayReplicate (d : Dev) (p : Nat) : Bool := (part d p).st == 1 && bit (prepl d p) 8

/-- The device is the source of a bulk sync. DEDUCED, log entry 98. -/
def syncSource (d : Dev) : Bool := roleB d == bit (rd d cslBlk .cslCfg) 0

/-- The source scans a partition (R312). -/
def scanPart (d : Dev) (p : Nat) : Dev :=
  let d := (scanChanges d (verCurrent d) p).foldl (fun d c => send d (.cersa (.syncRecord ⟨p, c⟩))) d
  setTw (send d (.cersa (.syncEnd p))) { d.tw with source := d.tw.source ++ [p] }

/-- ATTACH, written on both devices (R311): none when Table 14.2 does not allow it. DESIGN CHOICE, log entry 96. -/
def attachPair (d : Dev) : Option Dev :=
  if twinIn d [2, 6] then
    let d := send (wrF d cslBlk .cslState 2 0 3) (.cersa .attach)
    some (if syncSource d then ((knownParts d).filter (mayReplicate d)).foldl scanPart d else d)
  else none

/-- A RESYNC or a transfer is running (CSL_CMD.BUSY). -/
def cslBusy (d : Dev) : Bool := d.tw.xfer || (attached d && d.tw.source ≠ [])

/-- RESYNC (R316). -/
def resyncPart (t : TimeState) (d : Dev) (p : Nat) : Option Dev :=
  if twinIn d [4] && !cslBusy d then
    some (if mayReplicate d p then scanPart (send d (.cersa (.resync p))) p else twinPart t d p 1)
  else none

/-- The sink begins with a partition: what its rings had open ends with FROZEN (R312). DEDUCED, log entry 97. -/
def sinkStart (t : TimeState) (d : Dev) (p : Nat) : Dev :=
  if d.tw.sink.contains p then d
  else
    let d := endBatches t d (fun x => x == p) 3
    setTw d { d.tw with sink := d.tw.sink ++ [p] }

/-- The device takes bulk-sync records: as the sink of a sync, or of its partner's RESYNC. DEDUCED, log entry 97. -/
def sinkSide (d : Dev) : Bool := twinIn d [4] || (twinIn d [3] && !syncSource d)

/-- SYNC_RECORD (R312). DEDUCED, log entry 97. -/
def syncRecord (t : TimeState) (d : Dev) (r : SyncRec) : Dev :=
  if sinkSide d && (mayReplicate d r.part || d.tw.sink.contains r.part) then
    let d := sinkStart t d r.part
    setTw d { d.tw with recs := d.tw.recs ++ [r] }
  else d

/-- The sink gives a partition up: it is UNSYNCED, and its tables stay as they were (R311, R312). -/
def sinkFail (t : TimeState) (d : Dev) (p : Nat) : Dev :=
  let d := setTw d { d.tw with
    sink := d.tw.sink.filter (fun x => x != p)
    built := d.tw.built.filter (fun x => x != p)
    recs := d.tw.recs.filter (fun r => r.part != p)
    replay := d.tw.replay.filter (fun a => a.part != p) }
  twinPart t d p 1

/-- The entries of a partition that an open batch sees. -/
def openEntries (d : Dev) (g p : Nat) : List Entry :=
  d.entries.filter (fun e => inView d g e &&
    (if e.kind < 5 then e.part == p else inRange d p (e.kind - 5) (e.key.getD 0 0)))

/-- SYNC_BATCH_COMMIT: one hidden batch deletes what the sink held and inserts the scanned entries (R312). -/
def syncBatch (t : TimeState) (d : Dev) (p : Nat) : Dev :=
  if !sinkSide d then d
  else if !mayReplicate d p then sinkFail t d p
  else
    let d := sinkStart t d p
    match openInternal d p ringSync with
    | none => d
    | some (b, d1) =>
      let d1 := (openEntries d1 b.tag p).foldl (fun d e => markDies t d b.tag e) d1
      match evalAll t b.tag p ((d.tw.recs.filter (fun r => r.part == p)).map (fun r => r.change)) d1 with
      | .ok d2 =>
        let d2 := queueBatch d2 b
        setTw d2 { d2.tw with recs := d2.tw.recs.filter (fun r => r.part != p), built := p :: d2.tw.built }
      | .wait => d
      | _ => sinkFail t d p

/-- CUT_OVER: once every synced partition is done, both devices agree on the next number (R313). DEDUCED, log entry 98. -/
def cutOver (d : Dev) (theirs : Nat) : Dev :=
  if twinIn d [3] && !d.tw.hold && d.tw.sink == [] && d.tw.recs == [] && d.cmt.switches == [] then
    let v := verCurrent d
    let d := send d (.cersa (.version v))
    let m := if verLe v theirs then theirs else v
    let n := (m + 1) % 2 ^ 32
    setTw d { d.tw with hold := true, rebase := some (if v = m then 0 else (m + 2 ^ 32 - v) % 8, n) }
  else d

/-- NUMBER_REQUEST: role A gives the next number (R314). DEDUCED, log entry 102. -/
def numberRequest (d : Dev) : Dev :=
  if twinIn d [4] && !roleB d then
    let n := (d.tw.seq + 1) % 2 ^ 32
    setTw (send d (.cersa (.numberGrant n))) { d.tw with seq := n }
  else d

/-- NUMBER_GRANT: the number goes to the oldest waiting batch without one; one whose batch is gone becomes an
empty version (R122, R314). DEDUCED, log entry 102. -/
def numberGrant (d : Dev) (v : Nat) : Dev :=
  if twinIn d [4] && roleB d && 0 < d.tw.asked then
    let g := (findFirst (fun g => !d.tw.numbers.any (fun x => x.1 == g)) d.cmt.queue).getD 64
    setTw d { d.tw with asked := d.tw.asked - 1, numbers := d.tw.numbers ++ [(g, v)] }
  else d

/-- REPLICATED_COMMIT arrives (R312, R315 to R317). DEDUCED, log entries 97 and 98. -/
def commitArrives (t : TimeState) (d : Dev) (v p : Nat) (l : List RepChange) (lost : Bool) : Dev :=
  let a : Arrived := ⟨v, p, l, lost || !replRoom d (commitSize l)⟩
  if twinIn d [3] then
    if sinkSide d && (mayReplicate d p || d.tw.sink.contains p) && l ≠ [] then
      let d := sinkStart t d p
      setTw d { d.tw with replay := d.tw.replay ++ [a] }
    else d
  else if twinIn d [4, 5] then
    if d.tw.sink.contains p then
      setTw d { d.tw with replay := if l = [] then d.tw.replay else d.tw.replay ++ [a]
                          held := d.tw.held ++ [{ a with changes := [] }] }
    else
      let d := setTw d { d.tw with held := d.tw.held ++ [a] }
      if attached d && l = [] && !lost && d.tw.source.contains p then
        twinPart t (setTw d { d.tw with source := d.tw.source.filter (fun x => x != p) }) p 0
      else d
  else d

/-- REPLICATION_ACK: a synchronous commit completes; UNREPLICATED when the twin applied it as empty (R315). -/
def replAck (d : Dev) (v : Nat) (ok : Bool) : Dev :=
  match findFirst (fun x => x.version == v) d.tw.sent with
  | none => d
  | some x =>
    let d := setTw d { d.tw with sent := eraseFirst (fun y => y == x) d.tw.sent }
    let d := if x.sync then completeDesc d x.part x.ring x.desc 0 (cmtWord 0 0 (!ok) false x.okc v) else d
    ackDetach d

/-- Both devices stop assigning and requesting numbers (R320). -/
def startDetach (d : Dev) : Dev :=
  let d := setTw (wrF d cslBlk .cslState 2 0 5) { d.tw with hold := true, leaving := true, acked := false }
  ackDetach d

/-- DETACH: none unless the pair is ATTACHED (R320). -/
def detachPair (d : Dev) : Option Dev :=
  if twinIn d [4] then some (startDetach (send d (.cersa (.detach false)))) else none

/-- Both have acknowledged: DETACHED (R320). DESIGN CHOICE, log entry 10. DEDUCED, log entry 100. -/
def detachEnd (t : TimeState) (d : Dev) : Dev :=
  if twinIn d [5] && d.tw.acked && !d.tw.leaving then enterTwin t (endPair t (endSent d)) 6 5 else d

/-- DETACH_MESSAGE (R320, R321). -/
def detachIn (t : TimeState) (d : Dev) (crust : Bool) : Dev :=
  if crust then
    if twinIn d [3, 4, 5] then enterTwin t (endPair t (endSent d)) 6 6 else d
  else if twinIn d [4] then startDetach d
  else d

/-- DETACH_ACK. -/
def detachAcked (t : TimeState) (d : Dev) : Dev :=
  if twinIn d [5] then detachEnd t (setTw d { d.tw with acked := true }) else d

/-- DETACH_TIMEOUT: the detach ends as a loss (R320). DEDUCED, log entry 100. -/
def detachLate (t : TimeState) (d : Dev) : Dev := if twinIn d [5] then twinLoss t d 2 else d

/-- XFER_DONE: on the device that sent, SENT_KIB; on the one that received `data`, its image area, which holds
no valid image after a loss; the event on both (R322). An image that holds an uncorrectable word is not sent whole.
DESIGN CHOICE, log entry 161. -/
def xferDone (t : TimeState) (d : Dev) (kib : Nat) (fault : Bool) (area : Nat) (data : List Byte) : Dev :=
  if [2, 3, 4, 5, 6, 7].contains (twinState d) then
    if d.tw.xfer && data = [] then
      let w := rd d cslBlk .cslXfer
      let c := fld w 58 56
      let (bad, d) := readSpan t d (stackFor d c) 0 (imageWord d c) (128 * fld w 31 0) (some 1)
      imageEnd t (wrF d cslBlk .cslXferStat 31 0 kib) (fault || bad ≠ [])
    else
      let c := area % 8
      let d := writeSpan d (stackFor d c) 0 (imageWord d c) (ceilDiv data.length 8)
      let d := { d with images := SMap.set [] d.images c (if fault then [] else data) }
      let busy := d.tw.xfer
      let d := imageEnd t d fault
      setTw d { d.tw with xfer := busy }
  else d

/-- The block leaves ON: the link is down (R310, R320). A lost partner stays lost. DEDUCED, log entry 99. -/
def cslDown (t : TimeState) (d : Dev) (fenced : Bool) : Dev :=
  let d := if fenced then twinLoss t d 3 else endPair t (endSent d)
  let d := wrF d cslBlk .cslState 19 16 0
  if fenced && twinState d = 7 then d else wrF d cslBlk .cslState 2 0 0

/-- The block is ON: training begins (Table 14.2). -/
def cslUp (d : Dev) : Dev := if twinState d = 0 then wrF d cslBlk .cslState 2 0 1 else d

end Sys2Proof.Machine
end

