-- ==== Sys2Proof/Machine/Pool.lean ====
section
/-! DEFINITION. Queues and ports, programs' references, the pool of a cluster: cells, chains,
occupancies, limits, and the spill staging memory. -/
namespace Sys2Proof.Machine

/-- Stores the frame path. -/
def setFp (d : Dev) (f : Fp) : Dev := { d with fp := f }

/-- The slice and the cluster of a queue (R10). -/
def queueSlice (q : Nat) : Nat := q / 16384
def queueCluster (q : Nat) : Nat := q / 131072

/-- An SCH_Q record; one that was never written has WEIGHT 1 alone (Tables 9.3, 11.2). -/
def queueRec (d : Dev) (q : Nat) : Nat :=
  okRec d ⟨.sch, queueSlice q⟩ 0 (q % 16384) (memGetD d .schQ (queueSlice q) (q % 16384) 1)

/-- The port, class, group and weight of a queue (R204). -/
def queuePort (d : Dev) (q : Nat) : Nat := queueSlice q * 16 + fld (queueRec d q) 59 56
def queueTc (d : Dev) (q : Nat) : Nat := fld (queueRec d q) 55 53
def queueGroup (d : Dev) (q : Nat) : Nat := fld (queueRec d q) 52 45
def queueWeight (d : Dev) (q : Nat) : Nat := fld (queueRec d q) 7 0

/-- A port's width in lanes: 0 on a lane inside a wider port (R393). -/
def portWidth (d : Dev) (lane : Nat) : Nat := rdF d ⟨.mac, lane⟩ .macCfg 59 56
/-- 100 Gb/s lanes. -/
def portSlow (d : Dev) (lane : Nat) : Bool := bit (rd d ⟨.mac, lane⟩ .macCfg) 55
/-- A port's rate in Gb/s (R186). -/
def portGbps (d : Dev) (lane : Nat) : Nat := portWidth d lane * (if portSlow d lane then 100 else 200)
/-- A port's MTU: values outside 64 to 10,240 act as the nearer limit (Table 18.10). -/
def portMtu (d : Dev) (lane : Nat) : Nat := max 64 (min 10240 (rdF d ⟨.mac, lane⟩ .macCfg 45 32))
/-- TX clocks by width, and 10 more on 100 Gb/s lanes (Table 1.6, R27). DESIGN CHOICE, log entry 84. -/
def txClocks (d : Dev) (lane : Nat) : Nat :=
  (match portWidth d lane with | 8 => 54 | 4 => 58 | 2 => 63 | _ => 72) + (if portSlow d lane then 10 else 0)
/-- The device forwards nothing: it has stopped, or a JTAG instruction has taken over the pins (R277, R402). -/
def halted (d : Dev) : Bool := d.flt.stopped || 3 ≤ memGet d .boot 0 9
/-- The clock of a slice stands: the always-on watchdog has fired (R276), or its cluster's REFCLK_SDc is lost (R387).
DEDUCED, log entry 69. -/
def gated (d : Dev) (s : Nat) : Bool := memGet d .aonKick 0 1 != 0 || memGet d .boot 0 (16 + s / 8) != 0
/-- THERM_TRIP has stopped the device: slices stay OFF, and stacks in self-refresh (R277). -/
def tripped (d : Dev) : Bool := memGet d .aonKick 0 2 != 0
/-- The port's link is up. DEDUCED, log entry 91. -/
def linkUp (d : Dev) (lane : Nat) : Bool := bit (rd d ⟨.mac, lane⟩ .macStat) 63
/-- The first lane of the port that a lane lies in. -/
def portOf (d : Dev) (lane : Nat) : Nat :=
  (findFirst (fun k => lane < k + portWidth d k) ((upto 0 8).map (fun i => lane - i))).getD lane

/-- The queue is valid: VALID, and its port is the first lane of a configured port (R204). -/
def queueValid (d : Dev) (q : Nat) : Bool := bit (queueRec d q) 63 && portWidth d (queuePort d q) != 0

/-- Index of a port and class in a slice's and in a cluster's counters (Table 16.1). -/
def ixSpc (port tc : Nat) : Nat := 8 * (port % 16) + tc
def ixCpc (port tc : Nat) : Nat := 8 * (port % 128) + tc

/-- Counts a BPM event for the port and class of a queue and for a partition. -/
def countQ (d : Dev) (ev q p n : Nat) : Dev :=
  countN d (evBpm ev) (queueCluster q) (ixCpc (queuePort d q) (queueTc d q)) (queueCluster q) p n

/-- A program's reference count in a slice, with UNKNOWN in bit 32 (Table 7.17). -/
def progRef (d : Dev) (s p : Nat) : Nat := memGet d .edtRef s p

/-- The slice takes a reference on a program; program 0 has none (R158, R167). A count word that
is uncorrectable becomes unknown (R169). -/
def readRef (t : TimeState) (d : Dev) (s p : Nat) : Dev :=
  let (ue, d) := readWord t d ⟨.edt, s⟩ 2 p (some 2)
  if ue then memSet (setMark d ⟨.edt, s⟩ 2 p 0) .edtRef s p (putFld (progRef d s p) 32 32 1) else d

/-- Takes a reference on a program in a slice. -/
def takeRef (t : TimeState) (d : Dev) (s p : Nat) : Dev :=
  if p = 0 then d
  else let d := readRef t d s p; memSet (writeWord d ⟨.edt, s⟩ 2 p) .edtRef s p (progRef d s p + 1)

/-- Releases a reference on a program in a slice; an unknown count stays unknown. -/
def dropRef (t : TimeState) (d : Dev) (s p : Nat) : Dev :=
  if p = 0 then d
  else
    let d := readRef t d s p
    let v := progRef d s p
    memSet (writeWord d ⟨.edt, s⟩ 2 p) .edtRef s p (if fld v 31 0 = 0 then v else v - 1)

/-- Settings of a cluster's pool (Tables 8.6 to 8.8). -/
def tailRsv (d : Dev) (c : Nat) : Nat := rdF d ⟨.bpm, c⟩ .bpmCfg 31 16
def spillRsv (d : Dev) (c : Nat) : Nat := max 16 (rdF d ⟨.bpm, c⟩ .bpmCfg 47 32)

/-- Cells in use: of chains, and those that wait for the auditor. -/
def poolUsed (d : Dev) (c : Nat) : List Nat :=
  (d.fp.chains.filter (fun x => x.cluster == c)).flatMap (fun x => x.cells)
    ++ ((d.fp.leaks.filter (fun x => x.1 == c)).map (fun x => x.2.1))

/-- Cells on the free list (Table 8.6). -/
def poolFree (d : Dev) (c : Nat) : Nat := 262144 - (poolUsed d c).length

/-- Cells reserved and not yet written. -/
def poolRsv (d : Dev) (c : Nat) : Nat := ((d.fp.chains.filter (fun x => x.cluster == c)).map (fun x => x.rsv)).sum

/-- Cells available to new frames (R178). -/
def poolAvail (d : Dev) (c : Nat) : Nat := poolFree d c - poolRsv d c - tailRsv d c - spillRsv d c

/-- The `n` lowest cells of a pool that are not in use. -/
def freeCells (d : Dev) (c n : Nat) : List Nat :=
  let used := poolUsed d c
  ((upto 0 (used.length + n)).filter (fun i => !used.contains i)).take n

/-- Cells that a stored frame fills (R177). -/
def cellsOf (len : Nat) : Nat := ceilDiv len 256

/-- Writing a cell: its 32 data words and its link word. -/
def writeCell (d : Dev) (c cell : Nat) : Dev :=
  let b : Blk := ⟨.bpm, c⟩
  let d := (upto (cell * 32) 32).foldl (fun d w => writeWord d b 0 w) d
  writeWord d b 1 cell

/-- A chain by its number. -/
def chainOf (d : Dev) (id : Nat) : Option Chain := findFirst (fun x => x.id == id) d.fp.chains

/-- Applies a function to a chain. -/
def mapChain (d : Dev) (id : Nat) (f : Chain → Chain) : Dev :=
  setFp d { d.fp with chains := mapIf (fun x => x.id == id) f d.fp.chains }

/-- Writes `k` reserved cells of a chain. -/
def fillChain (d : Dev) (id k : Nat) : Dev :=
  match chainOf d id with
  | none => d
  | some x =>
    let k := min k x.rsv
    let new := freeCells d x.cluster k
    let d := new.foldl (fun d i => writeCell d x.cluster i) d
    mapChain d id (fun x => { x with cells := x.cells ++ new, rsv := x.rsv - k })

/-- The next number for a frame, copy, chain or transfer; 0 is none's. -/
def nextId (d : Dev) : Nat × Dev := (d.fp.next + 1, setFp d { d.fp with next := d.fp.next + 1 })

/-- A new chain with `n` reserved cells, which the transfer `via` fills (0: its frame's slice does). -/
def newChain (d : Dev) (c fid n refs via : Nat) (fixed : Bool := false) : Nat × Dev :=
  let (id, d) := nextId d
  (id, setFp d { d.fp with chains := d.fp.chains ++ [⟨id, c, fid, [], n, refs, via, fixed⟩] })

/-- Link words of a chain that are uncorrectable (R191). DEDUCED, log entry 69. -/
def linkUe (d : Dev) (x : Chain) : Bool := x.cells.any (fun i => isUe d ⟨.bpm, x.cluster⟩ 1 i)

/-- One reference on a chain is released; the last frees its cells, but for those whose link word
is uncorrectable, which wait for the auditor (R191). -/
def releaseChain (d : Dev) (id : Nat) : Dev :=
  match chainOf d id with
  | none => d
  | some x =>
    if x.refs ≤ 1 then
      let bad := x.cells.filter (fun i => isUe d ⟨.bpm, x.cluster⟩ 1 i)
      setFp d { d.fp with chains := d.fp.chains.filter (fun y => y.id != id)
                          leaks := d.fp.leaks ++ bad.map (fun i => (x.cluster, i, 0)) }
    else mapChain d id (fun y => { y with refs := y.refs - 1 })

/-- A copy, a frame and a transfer by number. -/
def copyOf (d : Dev) (cid : Nat) : Option Copy := findFirst (fun x => x.cid == cid) d.fp.copies
def frameOf (d : Dev) (fid : Nat) : Option Frame := findFirst (fun x => x.fid == fid) d.fp.frames
def xferOf (d : Dev) (id : Nat) : Option Xfer := findFirst (fun x => x.id == id) d.fp.xfers

/-- Applies a function to a copy, a frame, a transfer. -/
def mapCopy (d : Dev) (cid : Nat) (f : Copy → Copy) : Dev :=
  setFp d { d.fp with copies := mapIf (fun x => x.cid == cid) f d.fp.copies }
def mapFrame (d : Dev) (fid : Nat) (f : Frame → Frame) : Dev :=
  setFp d { d.fp with frames := mapIf (fun x => x.fid == fid) f d.fp.frames }
def mapXfer (d : Dev) (id : Nat) (f : Xfer → Xfer) : Dev :=
  setFp d { d.fp with xfers := mapIf (fun x => x.id == id) f d.fp.xfers }

/-- The copy counts in the on-die occupancies of its queue: it is there, or its pool has granted it cells. -/
def Copy.onDie (x : Copy) : Bool := x.kind ≤ 2 && !x.void && (x.st != 0 || x.chain != 0)

/-- Cells of the copy outside spill staging and HBM. -/
def Copy.dieCells (x : Copy) : Nat := x.n - (x.segs.map (fun s => s.2.2)).sum

/-- Cells on die that copies with a property hold. -/
def cellSum (d : Dev) (p : Copy → Bool) : Nat := ((d.fp.copies.filter p).map Copy.dieCells).sum

/-- On-die occupancies: of a queue, of a port and class, of a partition (R183). -/
def queueCells (d : Dev) (q : Nat) : Nat := cellSum d (fun x => x.onDie && x.queue == q)
def portCells (d : Dev) (c port tc : Nat) : Nat :=
  cellSum d (fun x => x.onDie && x.cluster == c && queuePort d x.queue == port && queueTc d x.queue == tc)
def partCells (d : Dev) (c p : Nat) : Nat := cellSum d (fun x => x.onDie && x.cluster == c && x.part == p)

/-- A limit record of BPM_LIM; every limit acts as 0 while its word is uncorrectable (Tables 8.10, 11.2). DESIGN CHOICE,
log entry 136. -/
def limDefault : Nat → Nat
  | 0 => 0x40000 <<< 38 + 0x40000 <<< 19 + 0x40000
  | 1 => 0xFFFFFF <<< 19 + 0x40000
  | 2 => 0xFFFFFF
  | _ => 0
def limRec (d : Dev) (c kind i : Nat) : Nat :=
  okRec d ⟨.bpm, c⟩ 2 (kind * 4096 + i) (memGetD d .bpmLim c (kind * 4096 + i) (limDefault kind))

/-- The limit of a port and class for a colour: 1 green, 2 yellow, 3 red (R184). Colour 0 is green. -/
def colourLimit (d : Dev) (c port tc colour : Nat) : Nat :=
  let r := limRec d c 0 (ixCpc port tc)
  match colour with | 2 => fld r 37 19 | 3 => fld r 56 38 | _ => fld r 18 0

/-- A queue's BPM record (Table 8.12): SPILL_EN, REGION, SPILL_THRESH. -/
def bpmQRec (d : Dev) (q : Nat) : Nat :=
  okRec d ⟨.bpm, queueCluster q⟩ 3 (q % 131072) (memGetD d .bpmQ (queueCluster q) (q % 131072) (0x40000 <<< 32))

/-- The word of memory 2 of BPM that holds the occupancy counts of a limit record. DESIGN CHOICE, log entry 162. -/
def countWord (kind i : Nat) : Nat := 16384 + kind * 4096 + i

/-- An occupancy count of a limit record cannot be read: every check against it fails until the auditor has rewritten
it (Table 11.2). -/
def countUe (d : Dev) (c kind i : Nat) : Bool := isUe d ⟨.bpm, c⟩ 2 (countWord kind i)

/-- The same of a queue's ON_DIE, which shares the word of its record; `lostCount` keeps that it is lost when software has
written the record again. -/
def lostCount (q : Nat) : Nat := 2 ^ 18 + q % 131072
def queueCountUe (d : Dev) (q : Nat) : Bool :=
  isUe d ⟨.bpm, queueCluster q⟩ 3 (q % 131072) || isUe d ⟨.bpm, queueCluster q⟩ 3 (lostCount q)

/-- Spill blocks of a queue. -/
def queueBlocks (d : Dev) (q : Nat) : List SBlock := d.fp.blocks.filter (fun b => b.queue == q)
/-- The queue is in spill state (R194). -/
def spilling (d : Dev) (q : Nat) : Bool := d.fp.blocks.any (fun b => b.queue == q)
/-- The region of a queue. -/
def queueRegion (d : Dev) (q : Nat) : Nat := fld (bpmQRec d q) 59 56
/-- Spill blocks of a partition and of a region in a cluster (R183). -/
def partBlocks (d : Dev) (c p : Nat) : Nat := countIf (fun b => queueCluster b.queue == c && b.part == p) d.fp.blocks
def regionBlocks (d : Dev) (c r : Nat) : Nat :=
  countIf (fun b => queueCluster b.queue == c && queueRegion d b.queue == r) d.fp.blocks

/-- Spill blocks of a stack (R238). -/
def stackBlocks (d : Dev) (h : Blk) : Nat := (21 - tableGib d h) * 262144

/-- Blocks of a stack in use. -/
def stackUsed (d : Dev) (h : Blk) : List Nat :=
  (d.fp.blocks.filter (fun b => stackFor d (queueCluster b.queue) == h)).map (fun b => b.id)

/-- Crust mode's state: 0 OFF, 1 ENTERING, 2 ACTIVE, 3 EXITING (Table 12.8). -/
def crustState (d : Dev) : Nat := rdF d (devBlk .flt) .fltCrustCtrl 1 0
/-- A unit's fence bit (Table 12.10). -/
def sliceFenced (d : Dev) (s : Nat) : Bool := bit (rd d (devBlk .flt) .fltFenceSlc) s
def clusterFenced (d : Dev) (c : Nat) : Bool := bit (rd d (devBlk .flt) .fltFenceMisc) c
def stackFenced (d : Dev) (h : Nat) : Bool := bit (rd d (devBlk .flt) .fltFenceMisc) (8 + h)

/-- SPILL_EN has effect: no SLEEP, no Crust mode, no fence of the stack (R198). -/
def spillAllowed (d : Dev) (c : Nat) : Bool :=
  crustState d == 0 && !(stackFenced d (stackFor d c).inst)
    && (rdF d (devBlk .pwr) .pwrStat 2 0 ≤ 1)

/-- A frame of `n` cells for the queue goes to spill (R194). -/
def spillBound (d : Dev) (q n : Nat) : Bool :=
  bit (bpmQRec d q) 63 && spillAllowed d (queueCluster q)
    && (spilling d q || queueCountUe d q || fld (bpmQRec d q) 50 32 < queueCells d q + n)

/-- Blocks of the spill pseudo-channels of a stack (R236, R238): each holds 336 MiB. The others lie on the table side.
DESIGN CHOICE, log entry 154. -/
def spillPcBlocks (d : Dev) (h : Blk) : Nat := (64 - hbmNt d h) * 86016

/-- The pseudo-channel of a unit of 256 bytes of the table region (R236). -/
def unitPc (d : Dev) (h : Blk) (u : Nat) : Nat := u % hbmNt d h

/-- The open cell block of a queue, and its free cells (R195). -/
def openCell (d : Dev) (q : Nat) : Option SBlock :=
  findFirst (fun b => b.queue == q && !b.isRec && b.st == 0 && !b.shut && b.used < 16) d.fp.blocks.reverse
def openFree (d : Dev) (q : Nat) : Nat := match openCell d q with | some b => 16 - b.used | none => 0

/-- The open record block of a queue (R239). -/
def openRec (d : Dev) (q : Nat) : Option SBlock :=
  findFirst (fun b => b.queue == q && b.isRec && b.st == 0 && !b.shut && b.used < 28) d.fp.blocks.reverse

/-- The block is open: a staged one that is neither full nor closed, and never reaches HBM before it is read (R244). -/
def SBlock.isOpen (b : SBlock) : Bool := b.st == 0 && !b.shut && (b.isRec && b.used < 28 || !b.isRec && b.used < 16)

/-- Cell blocks that a frame of `n` cells opens (R183). -/
def newBlocks (d : Dev) (q n : Nat) : Nat := ceilDiv (n - openFree d q) 16

/-- Cell blocks that a frame of `n` cells adds to the header of a record block: the open block that it starts
in, unless that is listed, and those it opens (R239). -/
def newListed (d : Dev) (q n : Nat) (r : SBlock) : Nat :=
  (match openCell d q with
    | some b => b2n (n != 0 && !r.lists.contains b.id)
    | none => 0) + newBlocks d q n

/-- The record block that takes the next frame's record: the open one, unless its list would need a seventeenth
cell block (R239). -/
def recFor (d : Dev) (q n : Nat) : Option SBlock :=
  match openRec d q with
  | some r => if r.lists.length + newListed d q n r ≤ 16 then some r else none
  | none => none

/-- Staged blocks of a cluster: cell blocks, or record blocks that are open (R195, R239). -/
def staged (d : Dev) (c : Nat) (isRec : Bool) : List SBlock :=
  d.fp.blocks.filter (fun b => queueCluster b.queue == c && b.isRec == isRec && b.st == 0 && (!isRec || b.isOpen))

/-- Staging has room for a frame's blocks: 256 cell blocks and as many open record blocks. DESIGN CHOICE, log entry 153. -/
def stagingRoom (d : Dev) (q n : Nat) : Bool :=
  let c := queueCluster q
  (staged d c false).length + newBlocks d q n ≤ 256 && ((recFor d q n).isSome || (staged d c true).length < 256)

/-- Free cells of the spill staging memory (R195). -/
def stagingFree (d : Dev) (c : Nat) : Nat :=
  4096 - ((d.fp.blocks.filter (fun b => queueCluster b.queue == c && !b.isRec && b.st == 0)).map (fun b => b.used)).sum

/-- Write tokens of a cluster (R197). -/
def tokens (d : Dev) (c : Nat) : Int := SMap.get 16 d.fp.tokens c
def setTokens (d : Dev) (c : Nat) (v : Int) : Dev := setFp d { d.fp with tokens := SMap.set 16 d.fp.tokens c v }
def wrCap (d : Dev) (c : Nat) : Nat := rdF d ⟨.bpm, c⟩ .bpmSpillCfg 63 48

/-- Checks 1, 2 and, when `six`, 6 of Table 8.2: the number of the BPM event of the first that fails. -/
def checkDie (d : Dev) (q p colour n : Nat) (six : Bool) : Option Nat :=
  let c := queueCluster q
  if countUe d c 1 p || fld (limRec d c 1 p) 18 0 < partCells d c p + n then some 0
  else if countUe d c 0 (ixCpc (queuePort d q) (queueTc d q))
      || colourLimit d c (queuePort d q) (queueTc d q) colour < portCells d c (queuePort d q) (queueTc d q) + n then some 1
  else if six && poolAvail d c < n then some 4
  else none

/-- Checks 3, 4 and 5 of Table 8.2. A stack without a free block fails check 4, and one that is
not ON fails check 5 (R250). DESIGN CHOICE, log entry 153. -/
def checkSpill (d : Dev) (q p n : Nat) : Option Nat :=
  let c := queueCluster q
  let b := newBlocks d q n
  let h := stackFor d c
  if countUe d c 1 p || fld (limRec d c 1 p) 42 19 < partBlocks d c p + b then some 0
  else if countUe d c 2 (queueRegion d q) || fld (limRec d c 2 (queueRegion d q)) 23 0 < regionBlocks d c (queueRegion d q) + b
      || stackBlocks d h < (stackUsed d h).length + b then some 2
  else if !isOn d h || (0 < b && (wrCap d c = 0 || tokens d c < b)) || stagingFree d c < n || !stagingRoom d q n then some 3
  else none

/-- The records and counts that AD and a pool read for a request of a partition for a queue: corrections and errors are
counted and reported (R253). -/
def askRecs (t : TimeState) (d : Dev) (q p : Nat) : Dev :=
  let b : Blk := ⟨.bpm, queueCluster q⟩
  let i := ixCpc (queuePort d q) (queueTc d q)
  let r := queueRegion d q
  let d := touch t d ⟨.sch, queueSlice q⟩ 0 (q % 16384)
  let d := touch t d b 3 (q % 131072)
  [i, countWord 0 i, 4096 + p, countWord 1 p, 8192 + r, countWord 2 r].foldl (fun d w => touch t d b 2 w) d

/-- Occupancies that a copy counts in are written: of its port and class, its partition, its queue, and its region when it
is spilled (R183). -/
def occWrite (d : Dev) (x : Copy) : Dev :=
  if 2 < x.kind then d
  else
    let q := x.queue
    let b : Blk := ⟨.bpm, queueCluster q⟩
    let ws := [countWord 0 (ixCpc (queuePort d q) (queueTc d q)), countWord 1 x.part]
      ++ (if x.spilt then [countWord 2 (queueRegion d q)] else [])
    recWrite (ws.foldl (fun d w => recWrite d b 2 w) d) b 3 (q % 131072)

/-- The lowest block of a stack that is not in use: blocks of the spill pseudo-channels have the lowest numbers,
`spillPcBlocks` of them, so that table-side blocks come last (R238). DESIGN CHOICE, log entry 154. -/
def freeBlock (d : Dev) (h : Blk) : Nat :=
  let used := stackUsed d h
  (findFirst (fun i => !used.contains i) (upto 0 (used.length + 1))).getD 0

/-- The lowest place of the staging memory that no cell block takes. -/
def freeSlot (d : Dev) (c : Nat) : Nat :=
  let used := (staged d c false).map (fun b => b.slot)
  (findFirst (fun i => !used.contains i) (upto 0 (used.length + 1))).getD 0

/-- Opens a block of a queue; it takes a write token (R197, R239). -/
def openBlock (d : Dev) (q p : Nat) (isRec : Bool) : Nat × Dev :=
  let c := queueCluster q
  let id := freeBlock d (stackFor d c)
  let slot := if isRec then 0 else freeSlot d c
  let d := setTokens d c (tokens d c - 1)
  (id, setFp d { d.fp with blocks := d.fp.blocks ++ [⟨id, q, p, isRec, 0, 0, false, [], slot⟩] })

/-- Applies a function to a block of a queue. -/
def mapBlock (d : Dev) (q id : Nat) (f : SBlock → SBlock) : Dev :=
  setFp d { d.fp with blocks := mapIf (fun b => b.queue == q && b.id == id) f d.fp.blocks }

/-- The words of `m` cells from cell `i` of a staging place, in memory 5 of BPM. -/
def slotWords (slot i m : Nat) : List Nat := upto (slot * 512 + i * 32) (m * 32)

/-- Places `n` cells in the queue's open block and in new ones; the number bounds the blocks. -/
def placeCells (d : Dev) (q p : Nat) : Nat → Nat → List (Nat × Nat × Nat) × Dev
  | 0, _ => ([], d)
  | k + 1, n =>
    if n = 0 then ([], d)
    else
      let (b, d) : Nat × Dev := match openCell d q with
        | some b => (b.id, d)
        | none => openBlock d q p false
      let x := findFirst (fun x => x.queue == q && x.id == b) d.fp.blocks
      let used := (x.map (fun x => x.used)).getD 0
      let m := min n (16 - used)
      let d := (slotWords ((x.map (fun x => x.slot)).getD 0) used m).foldl
        (fun d w => writeWord d ⟨.bpm, queueCluster q⟩ 5 w) d
      let (l, d) := placeCells (mapBlock d q b (fun x => { x with used := x.used + m })) q p k (n - m)
      ((b, used, m) :: l, d)

/-- The record block and the place in it that take a frame's record: the open one, or a new one (R239). -/
def placeRecord (d : Dev) (q p n : Nat) : (Nat × Nat) × Dev :=
  match recFor d q n with
  | some r => ((r.id, r.used), mapBlock d q r.id (fun r => { r with used := r.used + 1 }))
  | none =>
    let d := match openRec d q with
      | some r => mapBlock d q r.id (fun r => { r with shut := true })
      | none => d
    let (id, d) := openBlock d q p true
    ((id, 0), mapBlock d q id (fun r => { r with used := 1 }))

/-- The header of a record block lists the cell blocks of a frame (Table 10.4). -/
def listBlocks (d : Dev) (q r : Nat) (segs : List (Nat × Nat × Nat)) : Dev :=
  mapBlock d q r (fun r => { r with lists := segs.foldl (fun l s => if l.contains s.1 then l else l ++ [s.1]) r.lists })

/-- A spilled copy takes its record and its staging cells (R195, R239). -/
def spillCopy (d : Dev) (x : Copy) : Dev :=
  let (r, d) := placeRecord d x.queue x.part x.n
  let (segs, d) := placeCells d x.queue x.part (x.n + 1) x.n
  let d := listBlocks d x.queue r.1 segs
  let x := { x with st := 3, chain := 0, segs := segs, rblk := some r, spilt := true }
  let d := occWrite d x
  setFp d { d.fp with copies := d.fp.copies ++ [x] }

/-- Blocks of a queue that no copy uses any more are freed, and no header lists them. -/
def reapBlocks (d : Dev) (q : Nat) : Dev :=
  let mine := d.fp.copies.filter (fun x => x.queue == q && x.kind ≤ 2)
  let used (b : SBlock) : Bool :=
    if b.isRec then mine.any (fun x => match x.rblk with | some r => r.1 == b.id | none => false)
    else mine.any (fun x => x.segs.any (fun s => s.1 == b.id))
  let l := d.fp.blocks.filter (fun b => b.queue != q || used b)
  let there (i : Nat) : Bool := l.any (fun y => y.queue == q && !y.isRec && y.id == i)
  let l := mapIf (fun b => b.queue == q && b.isRec) (fun b => { b with lists := b.lists.filter there }) l
  setFp d { d.fp with blocks := l }

/-- The header of a record block (Table 10.4), as a number of 512 bits. -/
def recHeader (d : Dev) (b : SBlock) : Nat :=
  let next := ((d.fp.blocks.dropWhile (fun y => !(y.queue == b.queue && y.id == b.id))).drop 1).find?
    (fun y => y.queue == b.queue && y.isRec)
  b.queue <<< 492 + b.used <<< 487 + b.lists.length <<< 482 + ((next.map (fun y => y.id)).getD 0x7FFFFF) <<< 459
    + ((b.lists.zip (upto 0 16)).map (fun e => e.1 <<< (23 * e.2 + 91))).sum

/-- W16 of a record (Table 10.5). -/
def recWord16 (b : SBlock) (x : Copy) (len : Nat) (replayed : Bool) : Nat :=
  let s := x.segs.headD (0, 0, 0)
  ((b.lists.findIdx? (fun i => i == s.1)).getD 0) <<< 60 + s.2.1 <<< 56 + len <<< 42
    + (b2n (x.kind == 1) + b2n (x.kind == 2) <<< 1 + b2n (x.kind == 3) <<< 2) <<< 39 + b2n replayed <<< 38

end Sys2Proof.Machine
end

