-- ==== Sys2Proof/Machine/FlowCtr.lean ====
section
/-! DEFINITION. Rule and flow counters: accumulators, flushes, and the pairs in HBM. -/
namespace Sys2Proof.Machine

/-- Stores the flow counters. -/
def setFc (d : Dev) (f : FlowCtrs) : Dev := { d with fc := f }

/-- The storage key of a counter pair (R357). -/
def pairKey (c i : Nat) : Nat := c * 2 ^ 24 + i

/-- A pair after more packets and bytes, each 64 bits wrapping. -/
def pairAdd (v pk by' : Nat) : Nat :=
  (v % 2 ^ 64 + pk) % 2 ^ 64 + (v / 2 ^ 64 + by') % 2 ^ 64 * 2 ^ 64

/-- The 64-bit words of a pair in its cluster's share of the table region (R237). -/
def pairWords (d : Dev) (c i : Nat) : List Nat := upto (shareBase d c + 2 ^ 27 + 2 * i) 2

/-- The words of an index's slot of the delta log (Table 10.3). -/
def deltaWords (d : Dev) (c i : Nat) : List Nat := upto (shareBase d c + 2 ^ 27 + 2 ^ 25 + 2 * i) 2

/-- The words of a pair, or of its slot of the delta log. -/
def ctrWords (d : Dev) (c i : Nat) (delta : Bool) : List Nat := if delta then deltaWords d c i else pairWords d c i

/-- A pair, or its slot of the delta log. -/
def ctrPair (d : Dev) (c i : Nat) (delta : Bool) : Nat := SMap.get 0 (if delta then d.fc.deltas else d.fc.pairs) (pairKey c i)

/-- A pair, or its slot of the delta log, is written, both its words (R245). -/
def putCtr (d : Dev) (c i : Nat) (delta : Bool) (v : Nat) : Dev :=
  let d := (ctrWords d c i delta).foldl (fun d w => writeWord d (stackFor d c) 0 w) d
  let k := pairKey c i
  setFc d (if delta then { d.fc with deltas := SMap.set 0 d.fc.deltas k v } else { d.fc with pairs := SMap.set 0 d.fc.pairs k v })

/-- How an uncorrectable pair, or slot of the delta log, is remembered until a CTR_READ reports it (R359). -/
def ueKey (c i : Nat) (delta : Bool) : Nat := pairKey c i + b2n delta * 2 ^ 27

/-- Counts are added to a pair, or to its slot of the delta log, in one read-add-write (R244); one with an
uncorrectable word is rewritten with those counts alone, and the next CTR_READ of it reports it (R358, R359). -/
def addCtr (t : TimeState) (d : Dev) (c i : Nat) (delta : Bool) (pk by' : Nat) : Dev :=
  let (ue, d) := readWords t d (stackFor d c) 0 (ctrWords d c i delta) (some 1)
  let d := putCtr d c i delta (pairAdd (if ue then 0 else ctrPair d c i delta) pk by')
  let k := ueKey c i delta
  if ue && !d.fc.ues.contains k then setFc d { d.fc with ues := k :: d.fc.ues } else d

/-- A flush is applied: its counts are added to the pair, or to the delta log (R358, R359). -/
def applyFlush (t : TimeState) (d : Dev) (a : Acc) : Dev :=
  addCtr t (countN d evCtrFlushes a.cluster 0 a.cluster a.part 1) a.cluster a.index a.delta a.pkts a.bytes

/-- Flushes queued for a cluster. -/
def flushCount (d : Dev) (c : Nat) : Nat := countIf (fun a => a.cluster == c) d.fc.flush

/-- An increment of an index in a cluster (R358, R359): it joins its accumulator, takes a free way
of the set, or evicts the least recently incremented way. -/
def addFlow (d : Dev) (c p i : Nat) (delta : Bool) (pk by' : Nat) : Dev :=
  let same (a : Acc) : Bool := a.cluster == c && a.index == i && a.delta == delta
  let inSet (a : Acc) : Bool := a.cluster == c && a.index % 32768 == i % 32768
  match findFirst same d.fc.acc with
  | some a =>
    let a := { a with pkts := a.pkts + pk, bytes := a.bytes + by' }
    let rest := d.fc.acc.filter (fun x => !same x)
    if (2 ^ 31 ≤ a.pkts || 2 ^ 31 ≤ a.bytes) && flushCount d c < 4096 && isOn d (stackFor d c) then
      setFc d { d.fc with acc := rest ++ [{ a with pkts := 0, bytes := 0 }], flush := d.fc.flush ++ [a] }
    else setFc d { d.fc with acc := rest ++ [{ a with pkts := min (2 ^ 32 - 1) a.pkts, bytes := min (2 ^ 32 - 1) a.bytes }] }
  | none =>
    let new : Acc := ⟨c, i, p, delta, pk, by'⟩
    if countIf inSet d.fc.acc < 8 then setFc d { d.fc with acc := d.fc.acc ++ [new] }
    else if 4096 ≤ flushCount d c || !isOn d (stackFor d c) then countN d evCtrLost c 0 c p 1
    else match findFirst inSet d.fc.acc with
      | none => d
      | some v => setFc d { d.fc with acc := eraseFirst inSet d.fc.acc ++ [new], flush := d.fc.flush ++ [v] }

/-- ACCUMULATOR_FLUSH: the cluster's oldest queued flush is applied, if its stack is ON. -/
def accFlush (t : TimeState) (d : Dev) (c : Nat) : Dev :=
  if isOn d (stackFor d c) then
    match findFirst (fun a => a.cluster == c) d.fc.flush with
    | none => d
    | some a => applyFlush t (setFc d { d.fc with flush := eraseFirst (fun a => a.cluster == c) d.fc.flush }) a
  else d

/-- An increment for a partition; those of a frozen partition go to the delta log (R357). -/
def countRule (d : Dev) (c p i pk by' : Nat) : Dev := addFlow d c p i ((part d p).st == 6 || (part d p).folding) pk by'

end Sys2Proof.Machine
end

