-- ==== Sys2Proof/Machine/Fdh.lean ====
section
/-! DEFINITION. Fiddlehead's prediction cache and order guard. -/
namespace Sys2Proof.Machine

/-- An FDH block. -/
def fdhBlk (c : Nat) : Blk := ⟨.fdh, c⟩

/-- Counts an FDH event of Table 6.11 for a partition. -/
def countFdh (d : Dev) (ev c p n : Nat) : Dev := countN d (evFdh ev) c p c p n

/-- The number of a way: cluster, set and way (R129). -/
def predKey (c set way : Nat) : Nat := (c * 32768 + set) * 8 + way

/-- A way's present contents. -/
def predGet (d : Dev) (k : Nat) : Option PredEnt :=
  ((d.fp.preds.filter (fun e => e.1 == k)).map (fun e => e.2)).head?

/-- What a lookup at tick `now` sees of a way: a fill counts from 12 clocks after it (R131). -/
def predSeen (d : Dev) (now k : Nat) : Option PredEnt :=
  match findFirst (fun x => x.1 == k && now < x.2.1) d.fp.pold with
  | some x => x.2.2
  | none => predGet d k

/-- Stores or clears a way at once. -/
def predPut (d : Dev) (k : Nat) (e : Option PredEnt) : Dev :=
  setFp d { d.fp with preds := match e with
                                | some e => SMap.insert d.fp.preds k e
                                | none => SMap.erase d.fp.preds k }

/-- A fill at tick `now`: lookups see the old contents for 12 clocks. -/
def predFill (d : Dev) (now k : Nat) (e : PredEnt) : Dev :=
  let old := predGet d k
  predPut (setFp d { d.fp with pold := (d.fp.pold.filter (fun x => now < x.2.1)) ++ [(k, now + 12, old)] }) k (some e)

/-- Removes ways for which `p` holds, and what lookups still see of them. -/
def predDrop (d : Dev) (p : Nat → PredEnt → Bool) : Dev :=
  setFp d { d.fp with
    preds := d.fp.preds.filter (fun e => !p e.1 e.2)
    pold := d.fp.pold.map (fun x => (x.1, x.2.1, match x.2.2 with
      | some e => if p x.1 e then none else some e
      | none => none)) }

/-- The flush in progress covers a partition in a cluster (R148). -/
def flushing (d : Dev) (c p : Nat) : Bool :=
  let w := memGet d .fdhRun 0 c
  bit w 63 && (bit w 62 || fld w 11 0 == p)

/-- Sets that a scan of the caches has passed, one for each table clock: `k` is one more than the tick at which it
began, 0 for none (R148, R168). -/
def scanned (t : TimeState) (k : Nat) : Nat := if k = 0 then 0 else t.tick + 1 - k

/-- The flush of its cluster, or the retirement of its program, has passed an entry (R148, R168). -/
def swept (t : TimeState) (d : Dev) (k : Nat) (e : PredEnt) : Bool :=
  let c := k / 262144
  let set := k / 8 % 32768
  (flushing d c e.part && set < scanned t (memGet d .fdhRun 0 (8 + c)))
    || set < scanned t (memGet d .fdhRun 0 (16 + fld (e.action.headD 0) 43 32))

/-- Entries that a scan has passed are invalid. -/
def sweep (t : TimeState) (d : Dev) : Dev := predDrop d (swept t d)

/-- The tag of a flow hash (R129). -/
def predTag (h : Nat) : Nat := fld h 31 15

/-- The entry carries the key's tag. -/
def PredEnt.has (e : PredEnt) (p profile h : Nat) : Bool :=
  e.part == p && e.profile == profile && e.tag == predTag h

/-- The ways of a key's set. -/
def setWays (c h : Nat) : List Nat := (upto 0 8).map (predKey c (h % 32768))

/-- The words of a way in the prediction array. -/
def predWords (k : Nat) : List Nat := upto (k % 262144 * 10) 10

/-- A prediction lookup (R130, R132): the way that hits; an uncorrectable entry that the lookup
reads makes it a miss and is invalidated. -/
def predLookup (t : TimeState) (d : Dev) (c p profile h : Nat) : Option (Nat × PredEnt) × Dev :=
  let b := fdhBlk c
  let d := sweep t d
  let hit (k : Nat) : Option (Nat × PredEnt) := match predSeen d t.tick k with
    | some e => if e.has p profile h then some (k, e) else none
    | none => none
  let ways := setWays c h
  let bad := ways.filter (fun k => (predSeen d t.tick k).isSome && (predWords k).any (fun w => isUe d b 0 w))
  if bad = [] then
    match ways.findSome? hit with
    | some (k, e) => (some (k, e), (predWords k).foldl (fun d w => (readWord t d b 0 w).2) d)
    | none => (none, d)
  else
    let d := bad.foldl (fun d k =>
      let d := (predWords k).foldl (fun d w => if isUe d b 0 w then setMark (readWord t d b 0 w (some 0)).2 b 0 w 0 else d) d
      predDrop d (fun j _ => j == k)) d
    (none, d)

/-- Ageing of a set when way `k` is filled or confirmed: narrow writes of the ways' first words (R131, R254). -/
def predAge (t : TimeState) (d : Dev) (c h k : Nat) : Dev :=
  (setWays c h).foldl (fun d j => match predGet d j with
    | some e =>
      let d := mergeWord t d (fdhBlk c) 0 (j % 262144 * 10) (some 0)
      predPut d j (some { e with lrv := if j = k then 0 else min 7 (e.lrv + 1) })
    | none => d) d

/-- The way that a fill takes: the tag's, an invalid one, or the oldest, ties to the lowest (R131). -/
def fillWay (d : Dev) (c p profile h : Nat) : Nat :=
  let ways := setWays c h
  match findFirst (fun k => match predGet d k with | some e => e.has p profile h | none => false) ways with
  | some k => k
  | none => match findFirst (fun k => (predGet d k).isNone) ways with
    | some k => k
    | none => (ways.foldl (fun (a : Nat × Nat) k => match predGet d k with
        | some e => if a.2 < e.lrv + 1 then (k, e.lrv + 1) else a
        | none => a) (ways.headD 0, 0)).1

/-- The slice has written a fill or a refresh in this clock already (R131). -/
def filledNow (t : TimeState) (d : Dev) (s : Nat) : Bool := SMap.get 0 d.fp.filled s == t.tick + 1

/-- The slice's write of this clock is taken. -/
def markFilled (t : TimeState) (d : Dev) (s : Nat) : Dev :=
  setFp d { d.fp with filled := SMap.set 0 d.fp.filled s (t.tick + 1) }

/-- FDH_CFG.FILL_EN is 1 and the block is ON. -/
def fillOn (d : Dev) (c : Nat) : Bool := isOn d (fdhBlk c) && bit (rd d (fdhBlk c) .fdhCfg) 1

/-- PROG, KIND and the copies that an action image names (Table 7.1). -/
def imProg (im : List Nat) : Nat := fld (im.headD 0) 43 32
def imKind (im : List Nat) : Nat := fld (im.headD 0) 31 30
def imQueue (im : List Nat) : Nat := fld (im.headD 0) 63 44
def imMirror (im : List Nat) : Bool := bit (im.headD 0) 29
def imSession (im : List Nat) : Nat := fld (im.headD 0) 28 23
def imHost (im : List Nat) : Bool := bit (im.headD 0) 22
def imSampler (im : List Nat) : Nat := fld (im.headD 0) 21 16
def imGroup (im : List Nat) : Nat := fld (im.headD 0) 15 0

/-- The image replicates the frame by multicast, mirroring or a copy to the host. -/
def imCopies (im : List Nat) : Bool := imKind im == 1 || imMirror im || imHost im

/-- A fill at VE (R131, R168). -/
def fillPred (t : TimeState) (d : Dev) (f : Frame) : Dev :=
  let s := portSlice f.port
  let c := portCluster f.port
  let p := mPart f.sect
  if !(f.res.op == 1 || f.res.op == 3) || imCopies f.image || (part d p).mode || flushing d c p
      || !fillOn d c || fld (memGet d .edtProg 0 (imProg f.image)) 63 62 == 2 then d
  else if filledNow t d s then countFdh d 11 c p 1
  else
    let d := sweep t d
    let h := mFlowHash f.sect
    let k := fillWay d c p (mProfile f.sect) h
    let d := (predWords k).foldl (fun d w => writeWord d (fdhBlk c) 0 w) d
    let d := predFill d t.tick k ⟨p, mProfile f.sect, predTag h, 0, f.version, 0, f.image⟩
    predAge t (markFilled t d s) c h k

/-- A confirmed hit refreshes its entry (R131, Table 6.2). -/
def refreshPred (t : TimeState) (d : Dev) (f : Frame) : Dev :=
  let s := portSlice f.port
  let c := portCluster f.port
  let h := mFlowHash f.sect
  if !fillOn d c || filledNow t d s then d
  else
    let d := sweep t d
    match findFirst (fun k => match predGet d k with
        | some e => e.has (mPart f.sect) (mProfile f.sect) h
        | none => false) (setWays c h) with
    | none => d
    | some k =>
      let d := match predGet d k with
        | some e => predPut (mergeWord t d (fdhBlk c) 0 (k % 262144 * 10 + 1) (some 0)) k (some { e with hits := satAdd 0xFFFF e.hits 1 })
        | none => d
      predAge t (markFilled t d s) c h k

/-- A frame's prediction key (R128). -/
def predKeyOf (f : Frame) : Nat × Nat × Nat := (mPart f.sect, mProfile f.sect, mFlowHash f.sect)

/-- The keys that a slice's order guard holds (R141). -/
def guardKeys (d : Dev) (s : Nat) : List (Nat × Nat × Nat) :=
  (d.fp.frames.filter (fun f => portSlice f.port == s && f.guard == 1)).foldl
    (fun l f => if l.contains (predKeyOf f) then l else predKeyOf f :: l) []

/-- Frames that a slice counts beside its guard (R141). -/
def guardExtra (d : Dev) (s : Nat) : Nat := countIf (fun f => portSlice f.port == s && f.guard == 2) d.fp.frames

/-- The guard acts as full (R141). -/
def guardFull (d : Dev) (s : Nat) : Bool := 1024 ≤ (guardKeys d s).length || guardExtra d s != 0

/-- The guard demotes a hit on this frame's key. -/
def guarded (d : Dev) (f : Frame) : Bool :=
  guardFull d (portSlice f.port) || (guardKeys d (portSlice f.port)).contains (predKeyOf f)

/-- The frame's key enters the guard (R141). -/
def guardEnter (t : TimeState) (d : Dev) (fid : Nat) : Dev :=
  match frameOf d fid with
  | none => d
  | some f =>
    if f.guard ≠ 0 then d
    else
      let s := portSlice f.port
      let b := fdhBlk (portCluster f.port)
      let keys := guardKeys d s
      let full := 1024 ≤ keys.length
      let was := guardFull d s
      let d := mapFrame d fid (fun f => { f with guard := if full then 2 else 1 })
      let n := (guardKeys d s).length
      let d := if rdF d b .fdhOcc 42 32 < n then wrF d b .fdhOcc 42 32 n else d
      if guardFull d s && !was then errFault t d b 1 19 0 0 else d

/-- The frame's key leaves the guard. -/
def guardLeave (d : Dev) (fid : Nat) : Dev := mapFrame d fid (fun f => { f with guard := 0 })

/-- FDH_OCC.VALID (Table 6.8). -/
def predValid (t : TimeState) (d : Dev) (c : Nat) : Nat :=
  countIf (fun e => e.1 / 262144 == c && !swept t d e.1 e.2) d.fp.preds

/-- A word of an entry as FDH_DIAG_DATA reads it (Table 6.1). -/
def predWord (t : TimeState) (d : Dev) (c set way w : Nat) : Nat :=
  match (predGet d (predKey c set way)).filter (fun e => !swept t d (predKey c set way) e) with
  | none => 0
  | some e => match w with
    | 0 => 1 <<< 63 + e.part <<< 51 + e.profile <<< 45 + e.tag <<< 28 + e.lrv <<< 25
    | 1 => e.version <<< 32 + e.hits <<< 16
    | _ => e.action.getD (w - 2) 0

/-- The port has frames in the reorder buffer that took their entries in Lookup-reorder mode or in a transition: until
they are released, the port's frames go on through the buffer and none is launched (Table 6.5, step 4). -/
def portBuffered (d : Dev) (port : Nat) : Bool := d.fp.frames.any (fun f => f.port == port && f.rob && f.reorder)

/-- FLUSH_COMPLETE: the flush in progress ends (R148). -/
def flushComplete (d : Dev) (c : Nat) : Dev :=
  let w := memGet d .fdhRun 0 c
  if bit w 63 then
    wrF (predDrop (memSet d .fdhRun 0 c 0) (fun k e => k / 262144 == c && (bit w 62 || e.part == fld w 11 0))) (fdhBlk c) .fdhFlush 63 63 0
  else d

end Sys2Proof.Machine
end

