-- ==== Sys2Proof/Machine/Gates.lean ====
section
/-! DEFINITION. Instants of device time, gate lists, pauses, and pause frames sent. -/
namespace Sys2Proof.Machine

/-- Device time in units of 2^-32 ns. -/
def dtNum (x : DTime) : Nat := (x.sec * 1000000000 + x.ns) * 2 ^ 32 + x.frac

/-- Device time of a number of units of 2^-32 ns. -/
def numDt (n : Nat) : DTime := ⟨n / 2 ^ 32 / 1000000000, n / 2 ^ 32 % 1000000000, n % 2 ^ 32⟩

/-- An instant moved by a signed number of picoseconds in 16 bits (Table 18.10); before zero is zero. -/
def addPs (n ps : Nat) : Nat :=
  if ps < 2 ^ 15 then n + ps * 2 ^ 32 / 1000 else n - ceilDiv ((2 ^ 16 - ps) * 2 ^ 32) 1000

/-- An instant given in seconds and nanoseconds. -/
def instant (sec ns : Nat) : Nat := (sec * 1000000000 + ns) * 2 ^ 32

/-- Device time at a tick that is not past. -/
def timeAt (t : TimeState) (k : Nat) : Nat := dtNum t.now + (k - t.tick) * t.incr

/-- The tick of an instant (R218) by the course of device time since its last step: the first at whose start it has
come; none is never. -/
def tickIn : List (Nat × Nat × Nat) → Nat → Option Nat
  | [], _ => none
  | (k, n, i) :: r, x =>
    if n < x then (if i = 0 then none else some (k + ceilDiv (x - n) i))
    else match r with
      | [] => some k
      | _ => tickIn r x

/-- `tick(T)` of R218. -/
def tickOf (t : TimeState) (x : Nat) : Option Nat := tickIn t.hist x

/-- A port's gates, and a gate list. -/
def gateOf (d : Dev) (port : Nat) : Gate := SMap.get ⟨0, false, none⟩ d.fp.gates port
def setGate (d : Dev) (port : Nat) (g : Gate) : Dev :=
  setFp d { d.fp with gates := SMap.set ⟨0, false, none⟩ d.fp.gates port g }
def gateList (d : Dev) (port l : Nat) : GateList := SMap.get ⟨0, 0, 0, 0⟩ d.fp.lists (port * 2 + l)
def setGateList (d : Dev) (port l : Nat) (g : GateList) : Dev :=
  setFp d { d.fp with lists := SMap.set ⟨0, 0, 0, 0⟩ d.fp.lists (port * 2 + l) g }

/-- An entry of a gate list: STATES in bits 39:32, INTERVAL in bits 29:0; at reset every class is open. -/
def gateEntry (d : Dev) (port l i : Nat) : Nat := memGetD d .gcl port (l * 256 + i) (0xFF <<< 32)

/-- The word of a gate list entry in memory 2 of SCH. -/
def gclWord (port l i : Nat) : Nat := (port % 16 * 2 + l) * 256 + i

/-- The words of a gate list's cycle and length, base seconds, and base nanoseconds, behind the entries. DESIGN CHOICE,
log entry 162. -/
def gclHead (port l i : Nat) : Nat := 8192 + (port % 16 * 2 + l) * 4 + i

/-- The words that a gate list is read from. -/
def gclWords (d : Dev) (port l : Nat) : List Nat :=
  (upto 0 3).map (gclHead port l) ++ (upto 0 (gateList d port l).len).map (gclWord port l)

/-- SC reads the list in force of a port whose gates are enabled (R253). -/
def gateRead (t : TimeState) (d : Dev) (port : Nat) : Dev :=
  let g := gateOf d port
  if g.enable then (readWords t d ⟨.sch, portSlice port⟩ 2 (gclWords d port g.oper)).2 else d

/-- The state of a gate list at an instant: the classes that are open, and the instant of its next
boundary. A list without entries, or with an uncorrectable word, opens every gate (R220, Table 11.2). DEDUCED, log
entry 88. -/
def listAt (d : Dev) (port l x : Nat) : Nat × Option Nat :=
  let g := gateList d port l
  let bad := (gclWords d port l).any (isUe d ⟨.sch, portSlice port⟩ 2)
  if g.len = 0 || g.cycle = 0 || bad then (0xFF, none)
  else
    let base := instant g.sec (min 999999999 g.ns)
    let cyc := g.cycle * 2 ^ 32
    let off := if base ≤ x then (x - base) % cyc else (cyc - (base - x) % cyc) % cyc
    let rec walk : List Nat → Nat → Nat → Nat × Nat
      | [], last, _ => (last, cyc)
      | e :: r, _, acc =>
        let stop := acc + fld e 29 0 * 2 ^ 32
        if off < stop then (fld e 39 32, min stop cyc) else walk r (fld e 39 32) stop
    let (st, b) := walk ((upto 0 g.len).map (gateEntry d port l)) 0 0
    (st, some (x + (b - off)))

/-- The instant at which a pending list takes over: its first cycle start that is equal to or
later than its base time and the GO write plus 1 µs (R221). -/
def takeoverAt (d : Dev) (port : Nat) : Option Nat :=
  match (gateOf d port).pend with
  | none => none
  | some go =>
    let g := gateList d port (1 - (gateOf d port).oper)
    let base := instant g.sec (min 999999999 g.ns)
    let cyc := g.cycle * 2 ^ 32
    if go ≤ base || cyc = 0 then some base else some (base + ceilDiv (go - base) cyc * cyc)

/-- The gates of a port at an instant, with the next boundary. DEDUCED, log entry 88. -/
def gatesAt (d : Dev) (port x : Nat) : Nat × Option Nat :=
  let g := gateOf d port
  if !g.enable then (0xFF, none)
  else match takeoverAt d port with
    | some y =>
      if y ≤ x then listAt d port (1 - g.oper) x
      else match listAt d port g.oper x with
        | (s, some b) => (s, some (min b y))
        | (s, none) => (s, some y)
    | none => listAt d port g.oper x

/-- The close of the class's window that holds instant `x`; none when it has none within `k` boundaries. -/
def closeAfter (d : Dev) (port tc : Nat) : Nat → Nat → Option Nat
  | 0, _ => none
  | k + 1, x =>
    match gatesAt d port x with
    | (s, b) => if !bit s tc then some x else match b with
      | some y => closeAfter d port tc k y
      | none => none

/-- The open of the class's window that holds the end of a walk of boundaries from instant `x`
to `stop`; `o` is the open found so far. -/
def openBefore (d : Dev) (port tc stop : Nat) : Nat → Nat → Option Nat → Option Nat
  | 0, _, o => o
  | k + 1, x, o =>
    if stop < x then o
    else match gatesAt d port x with
      | (s, b) =>
        let o := if bit s tc then (match o with | some y => some y | none => some x) else none
        match b with
        | some y => openBefore d port tc stop k y o
        | none => o

/-- The window of a class around an instant at which it is open: its open and its close. -/
def windowAt (d : Dev) (port tc x : Nat) : Option (Nat × Nat) :=
  match closeAfter d port tc 600 x with
  | none => none
  | some c =>
    let g := gateList d port (gateOf d port).oper
    let start := x - 2 * g.cycle * 2 ^ 32
    match openBefore d port tc x 1200 start none with
    | some o => some (o, c)
    | none => some (x, c)

/-- What the window test of R222 and R223 says of a head: grant, wait for the class to open, wait
because it would not fit in the window that closes at `close`, or too long for that whole window. -/
inductive GateTest
  | grant (close : Option Nat)
  | shut
  | wait (close : Nat)
  | long
  deriving DecidableEq, Repr

/-- Serialisation time in clocks (R222). -/
def serClocks (len gbps : Nat) : Nat := ceilDiv (len * 144) (10 * max 1 gbps)

/-- The window test for a head of `len` bytes that waited already for the window closing at `w`. DEDUCED, log entry 89. -/
def gateTest (t : TimeState) (d : Dev) (port tc len : Nat) (w : Option Nat) : GateTest :=
  if !(gateOf d port).enable then .grant none
  else
    let e := t.tick + 45 + txClocks d port
    let x := timeAt t e
    let ser := serClocks (len + rdF d ⟨.sch, portSlice port⟩ .schPort 47 40 (port % 16)) (portGbps d port)
    if !bit (gatesAt d port x).1 tc then .shut
    else match windowAt d port tc x with
      | none => .grant none
      | some (o, c) =>
        match tickOf t c with
        | none => .grant none
        | some ct =>
          if e + ser ≤ ct then .grant (some ct)
          else
            let span := match tickOf t o with
              | some ot => ct - ot
              | none => 0
            if span < ser && w.isSome && w ≠ some c then .long else .wait c

/-- The class is paused by received frames: from the tick of the frame to the end of its timer (R225). -/
def paused (t : TimeState) (d : Dev) (port tc : Nat) : Bool :=
  d.fp.pause.any (fun x => x.1 == port && x.2.1 == tc && t.tick < x.2.2)

/-- Ends the pause of a class. -/
def unpause (d : Dev) (port tc : Nat) : Dev :=
  setFp d { d.fp with pause := d.fp.pause.filter (fun x => !(x.1 == port && x.2.1 == tc)) }

/-- PAUSE_EXPIRY: a pause whose end has come is forgotten (R225). -/
def pauseExpiry (t : TimeState) (d : Dev) (port tc : Nat) : Dev := if paused t d port tc then d else unpause d port tc

/-- MODE of SCH_PFC: 3 acts as 0 (Table 9.8). -/
def pfcReg (d : Dev) (port : Nat) : Nat := rd d ⟨.sch, portSlice port⟩ .schPfc (port % 16)
def pfcMode (d : Dev) (port : Nat) : Nat := let m := fld (pfcReg d port) 1 0; if m = 3 then 0 else m

/-- A class is paused for `timer` quanta from this tick, or its pause ends (R225). -/
def pauseClass (t : TimeState) (d : Dev) (port tc timer : Nat) : Dev :=
  if d.fp.deaf.contains (port, tc) then d
  else
    let d := unpause d port tc
    if timer = 0 then d
    else setFp d { d.fp with pause := d.fp.pause ++
                                        [(port, tc, t.tick + ceilDiv (timer * 9216) (10 * max 1 (portGbps d port)))] }

/-- PFC_FRAME: a MAC control frame is received and consumed (R225, R228). -/
def pfcFrame (t : TimeState) (d : Dev) (port opcode enables : Nat) (timers : List Nat) : Dev :=
  let b : Blk := ⟨.mac, port⟩
  if portWidth d port = 0 || !isOn d b || !linkUp d port then d
  else if opcode = 0x0101 && pfcMode d port = 2 && crustState d = 0 then
    (setBits enables 8).foldl (fun d c =>
      let d := countN d (Ev.plain .mac 12) port c 0 0 1
      if bit (pfcReg d port) (8 + c) then pauseClass t d port c (timers.getD c 0) else d) d
  else if opcode = 1 && pfcMode d port = 1 then
    (upto 0 8).foldl (fun d c =>
      pauseClass t (countN d (Ev.plain .mac 12) port c 0 0 1) port c (timers.headD 0)) d
  else countN d (Ev.plain .mac 14) port 0 0 0 1

/-- PFC_STORM: the class has been paused without a break for WD_MS (R227). -/
def pfcStorm (t : TimeState) (d : Dev) (port tc : Nat) : Dev :=
  if fld (pfcReg d port) 59 48 = 0 || !paused t d port tc then d
  else
    let d := countN (errFault t d ⟨.sch, portSlice port⟩ 1 20 0 0) (Ev.plain .mac 15) port tc 0 0 1
    if bit (pfcReg d port) 60 && !d.fp.deaf.contains (port, tc) then
      setFp d { d.fp with deaf := (port, tc) :: d.fp.deaf }
    else d

/-- PFC_WATCHDOG_END: pause frames for the class are honoured again (R227). -/
def pfcWatchdogEnd (d : Dev) (port tc : Nat) : Dev :=
  setFp d { d.fp with deaf := d.fp.deaf.filter (fun x => x != (port, tc)) }

/-- Chains that a frame's copies and transfers stand on. -/
def frameCells (d : Dev) (fid : Nat) : Nat :=
  ((d.fp.chains.filter (fun x => x.fid == fid)).map (fun x => x.cells.length + x.rsv)).sum
    + ((d.fp.xfers.filter (fun x => x.fid == fid)).map (fun x => x.held)).sum

/-- Ingress occupancy of a port and class (R226). -/
def ingressCells (d : Dev) (port tc : Nat) : Nat :=
  ((d.fp.frames.filter (fun f => f.port == port && f.adTc == tc)).map (fun f => frameCells d f.fid)).sum

/-- XOFF and XON of a port and class; XON above XOFF acts as XOFF (R226). -/
def pfcTh (d : Dev) (port tc : Nat) : Nat × Nat :=
  let v := memGetD d .pfcTh (portSlice port) (8 * (port % 16) + tc) (0x40000 <<< 32 + 0x40000)
  (fld v 18 0, min (fld v 18 0) (fld v 50 32))

/-- A pause frame leaves the port: timers for the classes in `on`, timer 0 for those in `off` (R226). -/
def sendPause (d : Dev) (port : Nat) (on off : List Nat) : Dev :=
  let q := fld (pfcReg d port) 47 32
  if pfcMode d port = 2 then
    let en := (on ++ off).foldl (fun a c => a.lor (2 ^ c)) 0
    let d := send d (.pause port 0x0101 en ((upto 0 8).map (fun c => if on.contains c then q else 0)))
    (on ++ off).foldl (fun d c => countN d (Ev.plain .mac 13) port c 0 0 1) d
  else if pfcMode d port = 1 then
    let d := send d (.pause port 1 0 [if on = [] then 0 else q])
    (upto 0 8).foldl (fun d c => countN d (Ev.plain .mac 13) port c 0 0 1) d
  else d

/-- Classes of a port in XOFF. -/
def xoffOf (d : Dev) (port : Nat) : List Nat :=
  (upto 0 8).filter (fun c => d.fp.xoff.contains (port, c))

/-- A slice is asked to wake: a dozing one records the cause and wakes (R326). Causes as Table 15.6. DEDUCED, log entry
103. -/
def wakeSlice (d : Dev) (s cause : Nat) : Dev :=
  if slcState d s = 1 && memGet d .slcWake 0 s = 0 then
    memSet (wrF d ⟨.slc, s⟩ .slcPwrStat 3 0 cause) .slcWake 0 s cause
  else d

/-- The class's ingress occupancy is compared with XOFF and XON after a change of it (R226);
Crust mode generates none (R228); without a MODE that sends them, XOFF is entered and left and no frame leaves. -/
def pfcCheck (d : Dev) (port tc : Nat) : Dev :=
  let (xoff, xon) := pfcTh d port tc
  let n := ingressCells d port tc
  let inX := d.fp.xoff.contains (port, tc)
  if crustState d ≠ 0 then d
  else if !inX && xoff ≤ n && bit (pfcReg d port) (16 + tc) then
    let d := setFp d { d.fp with xoff := (port, tc) :: d.fp.xoff }
    sendPause (if pfcMode d port = 0 then d else wakeSlice d (portSlice port) 5) port (xoffOf d port) []
  else if inX && n < xon then
    let d := setFp d { d.fp with xoff := d.fp.xoff.filter (fun x => x != (port, tc)) }
    let d := if pfcMode d port = 0 then d else wakeSlice d (portSlice port) 5
    if pfcMode d port = 1 then (if xoffOf d port = [] then sendPause d port [] [] else d)
    else sendPause d port [] [tc]
  else d

/-- The same for the port and class of a frame. -/
def pfcFrameCheck (d : Dev) (f : Frame) : Dev := pfcCheck d f.port f.adTc

/-- PFC_REFRESH: while a class stays in XOFF the pause frame is repeated (R226). -/
def pfcRefresh (d : Dev) (port : Nat) : Dev :=
  if xoffOf d port = [] || crustState d ≠ 0 || pfcMode d port = 0 then d
  else sendPause (wakeSlice d (portSlice port) 5) port (xoffOf d port) []

end Sys2Proof.Machine
end

