-- ==== Sys2Proof/Machine/Meter.lean ====
section
/-! DEFINITION. Ingress meters and group shapers. -/
namespace Sys2Proof.Machine

/-- Balance units of a byte (R211, R214). -/
def unitsPerByte : Nat := 144000

/-- The slice whose bank holds meter `m` of a cluster, and its entry there (R212). -/
def meterSlice (c m : Nat) : Nat := c * 8 + m / 16384 % 8
def meterEntry (m : Nat) : Nat := m % 16384

/-- A meter of a cluster. -/
def meterOf (d : Dev) (c m : Nat) : Meter := SMap.get Meter.empty d.fp.meters (c * 131072 + m)
def setMeter (d : Dev) (c m : Nat) (x : Meter) : Dev :=
  setFp d { d.fp with meters := SMap.set Meter.empty d.fp.meters (c * 131072 + m) x }

/-- Words of a meter in memory 0 of its bank: profile, rates and bursts, and buckets. -/
def meterWord (m k : Nat) : Nat := meterEntry m * 4 + k

/-- Fields of a meter's profile, rates and bursts (Table 9.9). -/
def Meter.valid (x : Meter) : Bool := bit x.prof 63
def Meter.rfc4115 (x : Meter) : Bool := bit x.prof 62
def Meter.aware (x : Meter) : Bool := bit x.prof 61
def Meter.coupled (x : Meter) : Bool := bit x.prof 60
def Meter.redDrop (x : Meter) : Bool := bit x.prof 59
def Meter.owner (x : Meter) : Nat := fld x.prof 55 44
def Meter.cir (x : Meter) : Nat := fld x.rate 23 0
def Meter.pir (x : Meter) : Nat := fld x.rate 55 32
def Meter.cbs (x : Meter) : Nat := fld x.burst 23 0 * unitsPerByte
def Meter.pbs (x : Meter) : Nat := fld x.burst 55 32 * unitsPerByte

/-- `refill` of R214 at tick `t`. -/
def meterRefill (x : Meter) (t : Nat) : Meter :=
  let n := t - x.last
  let c := x.tc + n * x.cir
  let spill := if x.rfc4115 && x.coupled then c - x.cbs else 0
  { x with tc := min c x.cbs, tp := min (x.tp + n * x.pir + spill) x.pbs, last := t }

/-- `charge` of R214 for `len` bytes: the colour returned (1 green, 2 yellow, 3 red) and the meter. -/
def meterCharge (x : Meter) (len colour t : Nat) : Nat × Meter :=
  let x := meterRefill x t
  let b := len * unitsPerByte
  let cin := if x.aware && colour ≠ 0 then colour else 1
  if x.rfc4115 then
    if cin = 1 && b ≤ x.tc then (1, { x with tc := x.tc - b })
    else if cin ≠ 3 && b ≤ x.tp then (2, { x with tp := x.tp - b })
    else (3, x)
  else if cin = 3 || x.tp < b then (3, x)
  else
    let x := { x with tp := x.tp - b }
    if cin = 2 || x.tc < b then (2, x) else (1, { x with tc := x.tc - b })

/-- A meter's buckets after an uncorrectable word of them was met: full, at the present tick (Table 11.2). -/
def Meter.full (x : Meter) (t : Nat) : Meter := { x with tc := x.cbs, tp := x.pbs, last := t }

/-- The colour of metadata: 0 green, 1 yellow, 2 red in COLOUR; as a meter's colour. -/
def colourIn (m : List Nat) : Nat := mColour m + 1

/-- A counter that restarts at 0 with WRAP set, since its word cannot be read (R350). -/
def ctrLost (d : Dev) (k : BlkKind) (inst ev ix : Nat) : Dev :=
  { d with ctr := SMap.set 0 d.ctr (ctrKey k inst ev ix) (2 ^ 48) }

/-- The word of a colour counter of a meter bank, in memory 1 of MTR (R230). DESIGN CHOICE, log entry 162. -/
def colourWord (entry ev : Nat) : Nat := ev * 16384 + entry

/-- A reader meets the word of a colour counter: one that is uncorrectable restarts at 0 with WRAP set (R350). -/
def readColour (t : TimeState) (d : Dev) (s entry ev : Nat) : Dev :=
  let (u, d) := readWord t d ⟨.mtr, s⟩ 1 (colourWord entry ev)
  if u then writeWord (ctrLost d .mtr s ev entry) ⟨.mtr, s⟩ 1 (colourWord entry ev) else d

/-- A colour counter counts: a full-word read, add and write (R254, R350). -/
def countColour (t : TimeState) (d : Dev) (s entry ev : Nat) : Dev :=
  let d := countN (readColour t d s entry ev) (Ev.plain .mtr ev) s entry (s / 8) 0 1
  writeWord d ⟨.mtr, s⟩ 1 (colourWord entry ev)

/-- Every colour counter of the device is read: what a snapshot or a dump meets. -/
def readColours (t : TimeState) (d : Dev) : Dev :=
  (upto 0 64).foldl (fun d s => (badWords d ⟨.mtr, s⟩ 1 (fun _ => true)).foldl
    (fun d x => readColour t d s (x.2.2 % 16384) (x.2.2 / 16384)) d) d

/-- A frame charges the meter that its result names (R213, R215): the outcome as `Frame.chg`, the
colour as COLOUR, and the state. DEDUCED, log entry 78. -/
def chargeMeter (t : TimeState) (d : Dev) (f : Frame) (m : Nat) : Nat × Nat × Dev :=
  let c := portCluster f.port
  let s := meterSlice c m
  let b : Blk := ⟨.mtr, s⟩
  let (ue, d) := readWords t d b 0 (upto (meterWord m 0) 3)
  let x := meterOf d c m
  if !isOn d b || ue || !x.valid then (2, mColour f.sect, d)
  else if x.owner ≠ 0 && x.owner ≠ mPart f.sect then (3, mColour f.sect, d)
  else
    let (bad, d) := readWord t d b 0 (meterWord m 3)
    let x := if bad then x.full t.tick else x
    let (col, x) := meterCharge x (mLen f.sect) (colourIn f.sect) t.tick
    let d := writeWord (setMeter d c m x) b 0 (meterWord m 3)
    let d := countColour t d s (meterEntry m) (col - 1)
    (if col = 3 && x.redDrop then 4 else 1, col - 1, d)

/-- A group node of a slice: 2,048 × port position + 256 × class + group (Table 9.5). -/
def groupNode (port tc g : Nat) : Nat := port % 16 * 2048 + tc * 256 + g

/-- A group's record: SHAPE_RATE, SHAPE_BURST, WEIGHT; one that was never written has WEIGHT 1. -/
def groupRec (d : Dev) (port tc g : Nat) : Nat :=
  okRec d ⟨.sch, portSlice port⟩ 1 (groupNode port tc g) (memGetD d .schG (portSlice port) (groupNode port tc g) 1)

/-- A shaper's storage key. -/
def shaperKey (port tc g : Nat) : Nat := portSlice port * 32768 + groupNode port tc g

/-- A group shaper's balance at a tick (R211). -/
def shaperBal (d : Dev) (port tc g t : Nat) : Int :=
  let r := groupRec d port tc g
  let x := SMap.get ⟨0, 0⟩ d.fp.shapes (shaperKey port tc g)
  min (x.bal + ((t - x.last) * fld r 55 32 : Nat)) ((fld r 23 8 * 64 * unitsPerByte : Nat) : Int)

/-- The shaper lets its group through. -/
def shaperOk (d : Dev) (port tc g t : Nat) : Bool :=
  fld (groupRec d port tc g) 55 32 == 0 || 0 ≤ shaperBal d port tc g t

/-- Stores a shaper's balance. -/
def setShaper (d : Dev) (port tc g t : Nat) (bal : Int) : Dev :=
  let d := recWrite d ⟨.sch, portSlice port⟩ 1 (groupNode port tc g)
  setFp d { d.fp with shapes := SMap.set ⟨0, 0⟩ d.fp.shapes (shaperKey port tc g) ⟨bal, t⟩ }

/-- A grant of `len` bytes is charged (R211). -/
def shaperCharge (d : Dev) (port tc g t len : Nat) : Dev :=
  if fld (groupRec d port tc g) 55 32 = 0 then d
  else setShaper d port tc g t (shaperBal d port tc g t - ((len * unitsPerByte : Nat) : Int))

end Sys2Proof.Machine
end

