-- ==== Sys2Proof/Machine/Path.lean ====
section
/-! DEFINITION. Links, virtual output queues and credits, requests to the pool, and the entry of a
copy into its queue and its removal. -/
namespace Sys2Proof.Machine

/-- The D2D instance at cluster `a` of the link to cluster `b`: position in ascending order of the peer (R38). -/
def d2dInst (a b : Nat) : Nat := 7 * a + (if b < a then b else b - 1)

/-- Both ends of the link are ON. -/
def linkHealthy (d : Dev) (a b : Nat) : Bool := isOn d ⟨.d2d, d2dInst a b⟩ && isOn d ⟨.d2d, d2dInst b a⟩

/-- The relay of a pair: the lowest third cluster with healthy links to both ends (R23). -/
def relayFor (d : Dev) (a b : Nat) : Option Nat :=
  findFirst (fun k => k != a && k != b && linkHealthy d a k && linkHealthy d k b) (upto 0 8)

/-- Link crossings from one cluster to another; none without a path (R23, R143). -/
def crossings (d : Dev) (a b : Nat) : Option Nat :=
  if a = b then some 0 else if linkHealthy d a b then some 1 else (relayFor d a b).map (fun _ => 2)

/-- Settings of VOQ_CFG (Table 1.2). -/
def srcCap (d : Dev) (s : Nat) : Nat := min 2048 (rdF d ⟨.voq, s⟩ .voqCfg 43 32)
def creditWindow (d : Dev) (s : Nat) : Nat := max 16 (rdF d ⟨.voq, s⟩ .voqCfg 27 16)

/-- Cells that a virtual output queue and a transfer buffer hold. -/
def voqHeld (d : Dev) (src dst : Nat) : Nat :=
  ((d.fp.xfers.filter (fun x => x.src == src && x.dst == dst)).map (fun x => x.held)).sum
def bufHeld (d : Dev) (src : Nat) : Nat := ((d.fp.xfers.filter (fun x => x.src == src)).map (fun x => x.held)).sum

/-- Credits of a destination slice that a source slice has used and not got back (R21). -/
def outstanding (d : Dev) (src dst : Nat) : Nat :=
  countIf (fun x => x.1 == src && x.2.1 == dst) d.fp.flight + SMap.get 0 d.fp.backs (src * 64 + dst)

/-- True length of a frame from destination address to FCS. -/
def Frame.len (f : Frame) : Nat := f.bytes.length

/-- The frame's length as its metadata has it, or its true length once stored (R208, R222). -/
def Frame.knownLen (f : Frame) : Nat := if f.tail then f.len else mLen f.sect

/-- Cells that the bytes received so far fill. -/
def Frame.cellsIn (f : Frame) : Nat := if f.tail then cellsOf f.len else cellsOf f.len - 1

/-- Cells that a request for the frame asks for (R179). -/
def Frame.want (f : Frame) : Nat := cellsOf (mLen f.sect)

/-- Cells of the head of a virtual output queue cross while credits last (R21). -/
def pump (d : Dev) (src dst : Nat) : Nat → Dev
  | 0 => d
  | k + 1 =>
    match findFirst (fun x => x.src == src && x.dst == dst && (x.phase ≠ 3 || x.held ≠ 0)) d.fp.xfers with
    | none => d
    | some x =>
      match frameOf d x.fid with
      | none => d
      | some f =>
        if x.phase = 3 && x.sent < f.cellsIn && outstanding d src dst < creditWindow d dst then
          pump (setFp d { d.fp with
            xfers := mapIf (fun y => y.id == x.id) (fun y => { y with held := y.held - 1, sent := y.sent + 1 }) d.fp.xfers
            flight := d.fp.flight ++ [(src, dst, x.id)] }) src dst k
        else d

/-- The same with the bound that the transfer buffer gives. -/
def pumpVoq (d : Dev) (src dst : Nat) : Dev := pump d src dst (voqHeld d src dst + 1)

/-- The slice and its cluster are not fenced. DEDUCED, log entry 82. -/
def fencedFor (d : Dev) (s : Nat) : Bool := sliceFenced d s || clusterFenced d (s / 8)

/-- Why a copy is refused before or at its pool (R20, R23, R183, R204, Table 12.4). -/
inductive Refuse
  | fenced | down | invalid | noPath | voqFull | pool (ev : Nat)
  deriving DecidableEq, Repr

/-- Where a copy of any kind goes: its port, slice and cluster. A Crust copy's queue is its port. -/
def copyPort (d : Dev) (x : Copy) : Nat := if x.kind = 5 then x.queue else queuePort d x.queue
def copyTc (d : Dev) (x : Copy) : Nat := if x.kind = 5 then 0 else queueTc d x.queue
def copySlice (x : Copy) : Nat := if x.kind = 5 then portSlice x.queue else queueSlice x.queue

/-- Counts a BPM event for a copy's port and class. DEDUCED, log entry 82. -/
def countCopy (d : Dev) (ev : Nat) (x : Copy) : Dev :=
  match x.kind with
  | 3 => countN d evHostDrop x.cluster 0 x.cluster x.part 1
  | 4 => countN d evSporeDrop x.cluster 0 x.cluster x.part 1
  | _ => countN d (evBpm ev) x.cluster (ixCpc (copyPort d x) (copyTc d x)) x.cluster x.part 1

/-- Counts a refusal of a frame's copy for a queue. DEDUCED, log entries 81 and 82. -/
def countRefuse (d : Dev) (f : Frame) (q p : Nat) : Refuse → Dev
  | .fenced => countN d evFenced (portSlice f.port) (f.port % 16) (portCluster f.port) p 1
  | .down => countQ d 6 q p 1
  | .invalid => countN d evQInvalid (queueCluster q) 0 (queueCluster q) p 1
  | .noPath => countN d (Ev.plain .voq 1) (portSlice f.port) (ixSpc f.port (mTc f.sect)) 0 0 1
  | .voqFull => countN d (Ev.plain .voq 0) (portSlice f.port) (ixSpc f.port (mTc f.sect)) 0 0 1
  | .pool n => countQ d n q p 1

/-- Refusals that no check of Table 8.2 makes: the queue's slice and record. DEDUCED, log entry 81. -/
def refuseQueue (d : Dev) (q : Nat) : Option Refuse :=
  let s := queueSlice q
  if fencedFor d s then some .fenced
  else if 2 ≤ slcState d s then some .down
  else if !queueValid d q then some .invalid
  else none

/-- Refusals at AD of a frame that must cross to another cluster (R20, R23). DEDUCED, log entry 81. -/
def refuseVoq (d : Dev) (src dst n : Nat) : Option Refuse :=
  if (crossings d (src / 8) (dst / 8)).isNone then some .noPath
  else if srcCap d src < voqHeld d src dst + n || 2048 < bufHeld d src + n then some .voqFull
  else none

/-- The pool's judgement of a new frame for a queue (Table 8.2, R203); `new`: it needs cells of its own, which check 6
grants. DEDUCED, log entry 81. -/
def judge (d : Dev) (q p colour n : Nat) (new : Bool) : Option Refuse :=
  if !isOn d ⟨.bpm, queueCluster q⟩ then some (.pool 5)
  else (if spillBound d q n then checkSpill d q p n else checkDie d q p colour n new).map .pool

/-- The pool's judgement of a chain that only check 6 applies to (R190). -/
def judgeChain (d : Dev) (c n : Nat) : Option Refuse :=
  if !isOn d ⟨.bpm, c⟩ then some (.pool 5) else if poolAvail d c < n then some (.pool 4) else none

/-- A request reaches a pool port (R181, Table 8.1): a requester's requests of one clock take its ports in turn, and
the first request of the clock that is granted moves PTR past its port. Requests of one clock are judged in the order
of the commands. DESIGN CHOICE, log entry 155. -/
def poolAsk (t : TimeState) (d : Dev) (c base : Nat) (ok : Bool) : Dev :=
  let l := d.fp.arb.filter (fun x => x.1 == t.tick)
  let mine := l.filter (fun x => x.2.1 == c)
  let lane := if base < 60 then min 3 (countIf (fun x => x.2.2.1 == base) mine) else 0
  let d := setFp d { d.fp with arb := l ++ [(t.tick, c, base, ok)] }
  if ok && !mine.any (fun x => x.2.2.2) then wrF d ⟨.bpm, c⟩ .bpmArb 5 0 ((base + lane + 1) % 64) else d

/-- The first pool port of a slice's requests in its own cluster, and in another (Table 8.1). DESIGN CHOICE, log entry
155. -/
def poolPort (c s : Nat) : Nat :=
  if s / 8 = c then 4 * (s % 8) else 32 + 4 * (if s / 8 < c then s / 8 else s / 8 - 1)

/-- Void entries that no entry of their queue stands before any more leave it (R210). -/
def purgeVoids (d : Dev) : Dev :=
  setFp d { d.fp with copies := (d.fp.copies.foldl (fun (s : List Copy × List Nat) x =>
    if x.kind ≤ 2 && x.void then
      (if s.2.contains x.queue then (s.1 ++ [x], s.2) else s)
    else if x.kind ≤ 2 && (x.st = 1 || x.st = 3) && !s.2.contains x.queue then (s.1 ++ [x], x.queue :: s.2)
    else (s.1 ++ [x], s.2)) ([], [])).1 }

/-- Something still stands on the frame: its own way to AD, a chain, a copy, a transfer, a
replication, or a verdict on its way. -/
def frameHeld (d : Dev) (f : Frame) : Bool :=
  !f.tail || (f.stage < 2 && !f.gone) || (f.adm ≠ 0 && !f.gone) || f.rob || f.verdict ≠ 0 || f.chain.isSome
    || d.fp.copies.any (fun x => x.fid == f.fid) || d.fp.xfers.any (fun x => x.fid == f.fid)
    || d.fp.repls.any (fun x => x.fid == f.fid)

/-- Frames that nothing stands on any more are forgotten. -/
def reapFrames (d : Dev) : Dev :=
  setFp d { d.fp with frames := d.fp.frames.filter (frameHeld d) }

/-- What is left after copies went: voids at heads go, spill blocks in no use are freed, the ingress
occupancy is compared with its thresholds, and frames are forgotten. -/
def settleFrame (d : Dev) (fid : Nat) : Dev :=
  let d := purgeVoids d
  let d := match frameOf d fid with
    | some f => pfcFrameCheck d f
    | none => d
  reapFrames d

/-- A copy that leaves: its program reference, its chain's reference or its spill cells, and a
transfer that brings it. -/
def dropCopy (t : TimeState) (d : Dev) (cid : Nat) : Dev :=
  match copyOf d cid with
  | none => d
  | some x =>
    let d := match x.refAt with
      | some s => dropRef t d s x.prog
      | none => d
    let d := if x.onDie then occWrite d x else d
    let d := setFp d { d.fp with
      copies := d.fp.copies.filter (fun y => y.cid != cid)
      xfers := mapIf (fun y => y.cid == some cid) (fun y => { y with cid := none, dead := true, held := 0 }) d.fp.xfers }
    let d := if x.segs ≠ [] || x.rblk.isSome then reapBlocks d x.queue else d
    if x.chain ≠ 0 then releaseChain d x.chain else d

/-- A copy is discarded. -/
def killCopy (t : TimeState) (d : Dev) (cid : Nat) : Dev :=
  match copyOf d cid with
  | none => d
  | some x => settleFrame (dropCopy t d cid) x.fid

/-- Counts an EDT event for a copy's egress port. -/
def countEdt (d : Dev) (x : Copy) (ev : Nat) : Dev :=
  countN d (Ev.plain .edt ev) (copySlice x) (copyPort d x % 16) 0 0 1

/-- A verified copy counts as enqueued; a spilled one counts as spilled too (R135, Table 16.2). -/
def countEnq (d : Dev) (x : Copy) : Dev :=
  let len := match frameOf d x.fid with
    | some f => f.knownLen
    | none => 0
  let d := countCopy d 13 x
  let d := countN d (evBpm 14) x.cluster (ixCpc (copyPort d x) (copyTc d x)) x.cluster x.part len
  if x.spilt then countCopy d 15 x else d

/-- The entry of a copy that stands in the list as `st` 1 or 3 into its queue (EQ): its program
reference passes to the egress slice, the slice wakes, and a verified copy is counted. -/
def enterQueue (t : TimeState) (d : Dev) (cid cause : Nat) : Dev :=
  match copyOf d cid with
  | none => d
  | some x =>
    let s := copySlice x
    let d := match x.refAt with
      | some r => if r = s then d else mapCopy (dropRef t (takeRef t d s x.prog) r x.prog) cid (fun y => { y with refAt := some s })
      | none => d
    let d := wakeSlice d s cause
    if x.verified && x.kind ≤ 2 then countEnq d x else d

/-- First bit out of a granted copy: 45 clocks of ED and those of TX after the grant (R143). -/
def firstBit (d : Dev) (x : Copy) (g : Grant) : Nat := g.tick + 45 + txClocks d (copyPort d x)

/-- A machine check of its slice holds the copy in the step stages, with nothing sent (Table 7.13). -/
def laneHeld (d : Dev) (x : Copy) (g : Grant) : Bool :=
  memGet d .edtMcTime (copySlice x) 8192 != 0 && memGet d .edtMcTime (copySlice x) 8193 < g.tick + 45

/-- The first bit of a granted copy has left. -/
def begun (t : TimeState) (d : Dev) (x : Copy) (g : Grant) : Bool := firstBit d x g ≤ t.tick && !laneHeld d x g

/-- The last `k` bytes of a list replaced by zeros. -/
def zeroTail (l : List Byte) (k : Nat) : List Byte := l.take (l.length - k) ++ List.replicate (min k l.length) 0

/-- A copy loses its tail (R180): one whose first bit has left sends zeros for what was not stored and
is stomped, another is discarded. `kept` cells are stored. -/
def tailLost (t : TimeState) (d : Dev) (x : Copy) (kept : Nat) : Dev :=
  let d := countCopy d 7 x
  match x.grant, frameOf d x.fid with
  | some g, some f =>
    if begun t d x g then
      mapCopy d x.cid (fun y => { y with grant := some { g with stomp := true, bytes := zeroTail g.bytes (f.len - 4 - 256 * kept) } })
    else dropCopy t d x.cid
  | _, _ => dropCopy t d x.cid

/-- The true number of cells is known: a chain returns what it did not use, or is extended one cell at a time
while free − reserved − SPILL_RSV is at least 1, and the transfer that fills it holds what is left to cross (R179,
R180). Bytes of a failed extension are stored nowhere. -/
def fixChain (t : TimeState) (d : Dev) (x : Chain) (need : Nat) : Dev :=
  let have' := x.cells.length + x.rsv
  let k := if need ≤ have' then need else have' + min (need - have') (poolFree d x.cluster - poolRsv d x.cluster - spillRsv d x.cluster)
  let d := mapChain d x.id (fun y => { y with rsv := k - y.cells.length, fixed := true })
  let d := setFp d { d.fp with
    copies := mapIf (fun y => y.chain == x.id) (fun y => { y with n := k }) d.fp.copies
    xfers := mapIf (fun y => y.id == x.xfer && !y.dead) (fun y => { y with held := k - y.sent }) d.fp.xfers }
  if need ≤ k then d
  else
    let late := d.fp.repls.filter (fun r => r.chain == x.id)
    let d := late.foldl (fun d _ => releaseChain d x.id) (setFp d { d.fp with repls := d.fp.repls.filter (fun r => r.chain != x.id) })
    (d.fp.copies.filter (fun y => y.chain == x.id)).foldl (fun d y => tailLost t d y k) d

/-- Spill cells without the last `k`: the segments in reverse order come and go. -/
def trimSegs : List (Nat × Nat × Nat) → Nat → List (Nat × Nat × Nat)
  | [], _ => []
  | (b, i, m) :: r, k => if m ≤ k then trimSegs r (k - m) else (b, i, m - k) :: r

/-- A spilled copy's cells follow its true length (R195). -/
def fixSpill (t : TimeState) (d : Dev) (x : Copy) (need : Nat) : Dev :=
  if need ≤ x.n then
    let segs := (trimSegs x.segs.reverse (x.n - need)).reverse
    let d := match x.segs.getLast?, segs.getLast? with
      | some (b, i, m), some (b', _, m') =>
        if b = b' then mapBlock d x.queue b (fun y => if y.used = i + m then { y with used := y.used - (m - m') } else y) else d
      | _, _ => d
    let d := setFp d { d.fp with xfers := mapIf (fun y => y.cid == some x.cid) (fun y => { y with held := need - y.sent }) d.fp.xfers }
    reapBlocks (mapCopy d x.cid (fun y => { y with n := need, segs := segs })) x.queue
  else
    let c := queueCluster x.queue
    let lists := ((d.fp.blocks.find? (fun b => b.queue == x.queue && (match x.rblk with | some r => r.1 == b.id | none => false))).map
      (fun b => b.lists.length)).getD 0
    let blocks := min (256 - (staged d c false).length) (min (16 - lists) (tokens d c).toNat)
    let m := min (need - x.n) (min (stagingFree d c) (openFree d x.queue + 16 * blocks))
    let (l, d) := placeCells d x.queue x.part (m + 1) m
    let d := match x.rblk with
      | some r => listBlocks d x.queue r.1 l
      | none => d
    let y := { x with n := x.n + m, segs := x.segs ++ l }
    let d := setFp (mapCopy d x.cid (fun _ => y)) { (mapCopy d x.cid (fun _ => y)).fp with
      xfers := mapIf (fun z => z.cid == some x.cid) (fun z => { z with held := y.n - z.sent }) d.fp.xfers }
    if x.n + m < need then tailLost t d y y.n else d

/-- A stored tail: every chain of the frame takes its true size, and chains of the ingress cluster,
which no transfer fills, are written (R179, R180). -/
def storeTail (t : TimeState) (d : Dev) (fid : Nat) : Dev :=
  match frameOf d fid with
  | none => d
  | some f =>
    let need := cellsOf f.len
    let d := (d.fp.chains.filter (fun x => x.fid == fid && !x.fixed)).foldl (fun d x => fixChain t d x need) d
    let d := (d.fp.copies.filter (fun x => x.fid == fid && x.segs ≠ [] && x.n ≠ need)).foldl (fun d x => fixSpill t d x need) d
    (d.fp.chains.filter (fun x => x.fid == fid && x.xfer == 0)).foldl (fun d x => fillChain d x.id x.rsv) d

/-- A chain of the frame in its ingress cluster, whole or with its tail to come. -/
def ownChain (d : Dev) (f : Frame) : Option Chain :=
  findFirst (fun x => x.fid == f.fid && x.cluster == portCluster f.port && x.xfer == 0) d.fp.chains

/-- A copy at its start. -/
def Copy.start (cid fid kind part queue prog : Nat) (image : List Nat) (cluster n : Nat) : Copy :=
  ⟨cid, fid, kind, part, queue, prog, image, cluster, 0, n, 1, false, false, none, none, none, [], none, false, [], false⟩

/-- Adds a copy. -/
def addCopy (d : Dev) (x : Copy) : Dev :=
  let d := if x.st = 0 then d else occWrite d x
  setFp d { d.fp with copies := d.fp.copies ++ [x] }

/-- A granted copy takes its place in a queue of its cluster: in spill staging, on the chain that the frame has
there, which is written once (R19, R188), or on a new one. -/
def placeCopy (d : Dev) (x : Copy) (own : Option Chain) : Dev :=
  if spillBound d x.queue x.n then spillCopy d x
  else match own with
    | some k => addCopy (mapChain d k.id (fun k => { k with refs := k.refs + 1 })) { x with chain := k.id, n := k.cells.length + k.rsv }
    | none =>
      let (id, d) := newChain d x.cluster x.fid x.n 1 0
      addCopy d { x with chain := id }

/-- The colour that a request carries (R184): 1 green, 2 yellow, 3 red. -/
def reqColour (f : Frame) : Nat := mColour f.sect + 1

/-- A frame's request for a queue (R182): the refusal, or the state with the copy admitted in its own
cluster or waiting in the virtual output queue. `launch` marks a predicted one; `old` is a chain that
the transfer copies from. -/
def requestCopy (t : TimeState) (d : Dev) (f : Frame) (q prog : Nat) (image : List Nat) (verified launch : Bool)
    (old : Option Nat) : Option Refuse × Option Nat × Dev :=
  let s := portSlice f.port
  let c := queueCluster q
  let n := f.want
  match refuseQueue d q with
  | some r => (some r, none, d)
  | none =>
    if c = portCluster f.port then
      let own := ownChain d f
      let d := askRecs t d q (mPart f.sect)
      match judge d q (mPart f.sect) (reqColour f) n own.isNone with
      | some r => (some r, none, poolAsk t d c (poolPort c s) false)
      | none =>
        let (cid, d) := nextId (poolAsk t d c (poolPort c s) true)
        let d := placeCopy d { Copy.start cid f.fid 0 (mPart f.sect) q prog image c n with
                                   verified := verified, refAt := some s } own
        let d := if f.tail then storeTail t d f.fid else d
        let d := match old with
          | some o => releaseChain d o
          | none => d
        (none, some cid, enterQueue t d cid (if launch then 3 else 2))
    else
      match refuseVoq d s (queueSlice q) n with
      | some r => (some r, none, d)
      | none =>
        let (cid, d) := nextId d
        let (id, d) := nextId d
        let d := addCopy d { Copy.start cid f.fid 0 (mPart f.sect) q prog image c n with
                               st := 0, verified := verified, refAt := some s }
        let d := setFp d { d.fp with xfers := d.fp.xfers ++
                                       [⟨id, f.fid, s, queueSlice q, n, 0, n, 0, 0, some cid, launch, old, false⟩] }
        (none, some cid, wakeSlice d (queueSlice q) (if launch then 3 else 2))

end Sys2Proof.Machine
end

