-- ==== Sys2Proof/Machine/Repl.lean ====
section
/-! DEFINITION. Replication: multicast groups, mirror sessions, copies to the host, and Spores. -/
namespace Sys2Proof.Machine

/-- Records of memory 4 of BPM: groups, list entries, sessions and samplers (Tables 8.13, 8.14). -/
def mcgRec (d : Dev) (c g : Nat) : Nat := okRec d ⟨.bpm, c⟩ 4 g (memGet d .mcg c g)
def mclRec (d : Dev) (c e : Nat) : Nat := okRec d ⟨.bpm, c⟩ 4 (65536 + e) (memGet d .mcl c e)
def mirRec (d : Dev) (c s : Nat) : Nat := okRec d ⟨.bpm, c⟩ 4 (196608 + s) (memGet d .mir c s)
def smpRec (d : Dev) (c p s : Nat) : Nat := okRec d ⟨.bpm, c⟩ 4 (196672 + p * 64 + s) (memGet d .smp c (p * 64 + s))

/-- A copy that the engine has to make: kind, queue, program. -/
structure Target where
  kind  : Nat
  queue : Nat
  prog  : Nat
  deriving DecidableEq, Repr

/-- The members of a list in a cluster, in list order (R189): entries whose queue lies elsewhere come
as none, and a pruned source is left out. -/
def listTargets (d : Dev) (c base len port : Nat) : List (Option Target) :=
  (upto base len).filterMap (fun e =>
    let w := mclRec d c e
    let q := fld w 63 44
    if queueCluster q ≠ c then some none
    else if bit w 31 && queuePort d q == port then none
    else some (some ⟨1, q, fld w 43 32⟩))

/-- The copies of a replication: its list, then its mirror copy. -/
def replTargets (d : Dev) (r : Repl) (port : Nat) : List (Option Target) :=
  listTargets d r.cluster r.base r.len port
    ++ (match r.mirror with
        | some w => [some ⟨2, fld w 50 31, fld w 30 19⟩]
        | none => [])

/-- The chain of a replication was refused: each copy of it is counted (R190). -/
def countEach (d : Dev) (f : Frame) (r : Repl) (e : Refuse) : Dev :=
  (replTargets d r f.port).foldl (fun d x => match x with
    | some x => countRefuse d f x.queue (mPart f.sect) e
    | none => d) d

/-- The slice through whose virtual output queue a chain for a cluster travels: that of the first
copy bound for it (R188). -/
def replSlice (d : Dev) (r : Repl) : Nat :=
  let l := (upto r.base r.len).map (fun e => fld (mclRec d r.cluster e) 63 44)
  match findFirst (fun q => queueCluster q == r.cluster) l with
  | some q => queueSlice q
  | none => match r.mirror with
    | some w => queueSlice (fld w 50 31)
    | none => r.cluster * 8

/-- A replication in a cluster starts (R188): on a chain that the frame has there, on the transfer that takes the
frame there, on a new chain of the ingress cluster, or on one that crosses a link. Without a
path to the cluster it is counted once, whatever its list holds. DEDUCED, log entries 92 and 156. -/
def startRepl (t : TimeState) (d : Dev) (f : Frame) (r : Repl) (shared via : Option Nat) : Dev :=
  let s := portSlice f.port
  if r.len = 0 && r.mirror.isNone then d
  else match shared, via with
    | some id, _ =>
      let d := mapChain d id (fun x => { x with refs := x.refs + 1 })
      setFp d { d.fp with repls := d.fp.repls ++ [{ r with chain := id }] }
    | none, some id => setFp d { d.fp with repls := d.fp.repls ++ [{ r with xfer := some id }] }
    | none, none =>
      if r.cluster = portCluster f.port then
        match judgeChain d r.cluster f.want with
        | some e => countEach (poolAsk t d r.cluster (poolPort r.cluster s) false) f r e
        | none =>
          let (id, d) := newChain (poolAsk t d r.cluster (poolPort r.cluster s) true) r.cluster f.fid f.want 1 0
          let d := setFp d { d.fp with repls := d.fp.repls ++ [{ r with chain := id }] }
          if f.tail then storeTail t d f.fid else d
      else
        let dst := replSlice d r
        match refuseVoq d s dst f.want with
        | some e => countRefuse d f (dst * 16384) (mPart f.sect) e
        | none =>
          let (id, d) := nextId d
          let d := setFp d { d.fp with
            repls := d.fp.repls ++ [{ r with xfer := some id }]
            xfers := d.fp.xfers ++ [⟨id, f.fid, s, dst, f.want, 0, f.want, 0, 0, none, false, none, false⟩] }
          wakeSlice d dst 2

/-- The partition that owns a queue is being reset: no copy is made for it (Table 13.6). -/
def ownerResetting (d : Dev) (q : Nat) : Bool := (part d (queueOwner d q)).st == 4

/-- What the engine carries through the copies of a chain: the chain it stands on, none once a
new chain was refused. -/
def makeCopy (t : TimeState) (f : Frame) (image : List Nat) (c : Nat) (s : Option Nat × Dev) (x : Option Target) :
    Option Nat × Dev :=
  let (ch, d) := s
  let p := mPart f.sect
  match x with
  | none => (ch, countN d evReplSkip c 0 c p 1)
  | some x =>
    if ownerResetting d x.queue then (ch, countQ d 12 x.queue p 1)
    else
    let d := askRecs t d x.queue p
    match refuseQueue d x.queue with
      | some e => (ch, countRefuse d f x.queue p e)
      | none =>
        match ch.bind (chainOf d) with
        | none => (ch, countQ d 4 x.queue p 1)
        | some k =>
          let n := k.cells.length + k.rsv
          let (cid, d1) := nextId d
          let es := queueSlice x.queue
          let y : Copy := { Copy.start cid f.fid x.kind p x.queue x.prog image c n with verified := true, refAt := some es }
          if spillBound d x.queue n then
            match checkSpill d x.queue p n with
            | some e => (ch, countQ d e x.queue p 1)
            | none => (ch, enterQueue t (spillCopy (takeRef t d1 es x.prog) y) cid 2)
          else match checkDie d x.queue p (reqColour f) n false with
            | some e => (ch, countQ d e x.queue p 1)
            | none =>
              if k.refs < 4095 then
                let d := mapChain d1 k.id (fun k => { k with refs := k.refs + 1 })
                (ch, enterQueue t (addCopy (takeRef t d es x.prog) { y with chain := k.id }) cid 2)
              else match judgeChain d c n with
                | some e => (none, countRefuse (releaseChain (poolAsk t d c 60 false) k.id) f x.queue p e)
                | none =>
                  let (id, d) := newChain (poolAsk t d1 c 60 true) c f.fid n 2 k.xfer k.fixed
                  let d := fillChain d id k.cells.length
                  let d := releaseChain d k.id
                  (some id, enterQueue t (addCopy (takeRef t d es x.prog) { y with chain := id }) cid 2)

/-- REPL_CHAIN_ARRIVAL: the engine of a cluster serves a chain that has arrived (R190). DEDUCED, log entry 92. -/
def replArrival (t : TimeState) (d : Dev) (fid c : Nat) : Dev :=
  match findFirst (fun r => r.fid == fid && r.cluster == c) d.fp.repls, frameOf d fid with
  | some r, some f =>
    let there := match r.xfer with
      | none => true
      | some x => match xferOf d x with
        | some y => y.phase == 3 && 0 < y.arrived
        | none => true
    if r.chain = 0 || !there then d
    else
      let d := setFp d { d.fp with
        repls := eraseFirst (fun x => x == r) d.fp.repls
        engine := d.fp.engine.filter (fun e => t.tick < e.2) }
      let busy := d.fp.engine.filter (fun e => e.1 == c)
      if 4096 ≤ busy.length then
        settleFrame (releaseChain (countN d evReplFull c 0 c (mPart f.sect) 1) r.chain) fid
      else
        let d := (readSpan t d ⟨.bpm, c⟩ 4 (65536 + r.base) r.len).2
        let l := replTargets d r f.port
        let from' := busy.foldl (fun a e => max a e.2) t.tick
        let d := setFp d { d.fp with engine := d.fp.engine ++ [(c, from' + ceilDiv l.length 2)] }
        let (ch, d) := l.foldl (makeCopy t f f.image c) (some r.chain, d)
        let d := if f.tail then storeTail t d fid else d
        settleFrame (match ch with
          | some k => releaseChain d k
          | none => d) fid
  | _, _ => d

/-- A copy that the ingress cluster holds outside the queues: a host copy or a Spore. It joins the
frame's chain there, or takes one of its own (R188, R193). DEDUCED, log entry 93. -/
def heldCopy (t : TimeState) (d : Dev) (f : Frame) (kind : Nat) (info : List Nat) : Dev :=
  let c := portCluster f.port
  let (cid, d) := nextId d
  let y := { Copy.start cid f.fid kind (mPart f.sect) 0 0 f.image c f.want with verified := true, info := info }
  match ownChain d f with
  | some k => addCopy (mapChain d k.id (fun k => { k with refs := k.refs + 1 })) { y with chain := k.id, n := k.cells.length + k.rsv }
  | none =>
    let (id, d) := newChain (poolAsk t d c (poolPort c (portSlice f.port)) true) c f.fid f.want 1 0
    let d := addCopy d { y with chain := id }
    if f.tail then storeTail t d f.fid else d

/-- Pool cells held by copies of a kind in a cluster. -/
def heldCells (d : Dev) (c kind : Nat) : Nat :=
  ((d.fp.copies.filter (fun x => x.kind == kind && x.cluster == c)).map (fun x => x.n)).sum

/-- A held copy fits: its own limit, and check 6 when it needs a chain of its own. DEDUCED, log entry 93. -/
def heldFits (d : Dev) (f : Frame) (kind limit : Nat) : Bool :=
  let c := portCluster f.port
  heldCells d c kind + f.want ≤ limit && ((ownChain d f).isSome || (judgeChain d c f.want).isNone)

/-- The host copy of a frame (R193); whether the host takes it is told when it is served (R287). -/
def hostCopy (t : TimeState) (d : Dev) (f : Frame) : Dev :=
  let c := portCluster f.port
  let p := mPart f.sect
  if isOn d ⟨.bpm, c⟩ && heldFits d f 3 (rdF d ⟨.bpm, c⟩ .bpmCopyCfg 18 0) then
    let seq := memGet d .hostSeq c p
    heldCopy t (memSet d .hostSeq c p ((seq + 1) % 2 ^ 32)) f 3 [seq, 0, 0, 0]
  else countN d evHostDrop c 0 c p 1

/-- A Spore of a frame for a sampler of its partition: SEQ counts the selection, and the copy is held
or dropped (R202). -/
def sporeCopy (t : TimeState) (d : Dev) (f : Frame) (smp : Nat) : Dev :=
  let c := portCluster f.port
  let p := mPart f.sect
  let w := smpRec d c p smp
  let seq := memGet d .smpSeq c (p * 64 + smp)
  let d := memSet d .smpSeq c (p * 64 + smp) ((seq + 1) % 2 ^ 32)
  if isOn d ⟨.bpm, c⟩ && heldFits d f 4 (rdF d ⟨.bpm, c⟩ .bpmCopyCfg 50 32) then
    heldCopy t d f 4 [seq, smp, fld w 61 58, fld w 57 55]
  else countN d evSporeDrop c 0 c p 1

/-- A sampler judges a frame at VE (R201): every Nth by a countdown, or with probability 1/N by a free
value in the place of the cluster's pseudo-random generator. DEDUCED, log entry 79. -/
def sampleFrame (t : TimeState) (d : Dev) (f : Frame) : Dev :=
  let c := portCluster f.port
  let p := mPart f.sect
  let s := imSampler f.image
  let d := if s = 0 then d else touch t d ⟨.bpm, c⟩ 4 (196672 + p * 64 + s)
  let w := smpRec d c p s
  if s = 0 || !bit w 63 then d
  else
    let n := fld w 23 0 + 1
    if bit w 62 then
      let (v, d) := fresh d
      if v % n = 0 then sporeCopy t d f s else d
    else
      let left := memGet d .smpCount c (p * 64 + s)
      let left := if left = 0 || n < left then n else left
      if left = 1 then sporeCopy t (memSet d .smpCount c (p * 64 + s) 0) f s
      else memSet d .smpCount c (p * 64 + s) (left - 1)

/-- A mirror session that serves the frame: its word; a frame that asks for one it may not use is
counted (R192). -/
def mirrorOf (t : TimeState) (d : Dev) (f : Frame) : Option Nat × Dev :=
  let c := portCluster f.port
  let d := if imMirror f.image then touch t d ⟨.bpm, c⟩ 4 (196608 + imSession f.image) else d
  let w := mirRec d c (imSession f.image)
  if !imMirror f.image then (none, d)
  else if bit w 63 && (fld w 62 51 == mPart f.sect || fld w 62 51 == 0) then (some w, d)
  else (none, countN d evMirrorDenied c 0 c (mPart f.sect) 1)

/-- The replications of a frame: its multicast lists by cluster, and its mirror copy (R188, R189).
`uni` is the copy that its unicast admission made, `old` the chain that a squash left. Copies of one cluster share a
chain and a crossing (R22). -/
def replicate (t : TimeState) (d : Dev) (f : Frame) (uni : Option Nat) (old : Option Chain) : Dev :=
  let g := imGroup f.image
  let own := portCluster f.port
  let d := if imKind f.image = 1 then touch t d ⟨.bpm, own⟩ 4 g else d
  let mask := if imKind f.image = 1 then fld (mcgRec d own g) 63 56 else 0
  let (mir, d) := mirrorOf t d f
  let mc := mir.map (fun w => queueCluster (fld w 50 31))
  let here (d : Dev) (c : Nat) : Option Nat :=
    let x := (uni.bind (copyOf d)).filter (fun x => x.cluster == c && x.chain != 0)
    (x.map (fun x => x.chain)).orElse (fun _ => ((old.filter (fun k => k.cluster == c)).map (fun k => k.id)).orElse (fun _ =>
      if c = own then (ownChain d f).map (fun k => k.id) else none))
  let coming (d : Dev) (c : Nat) : Option Nat :=
    (findFirst (fun x => x.fid == f.fid && x.cid.isSome && x.cid == uni && x.dst / 8 == c && !x.dead) d.fp.xfers).map (fun x => x.id)
  let start (d : Dev) (c : Nat) : Dev :=
    let d := if bit mask c && c ≠ own then touch t d ⟨.bpm, c⟩ 4 g else d
    let w := if bit mask c then mcgRec d c g else 0
    let m := if mc == some c then mir else none
    startRepl t d f ⟨f.fid, c, 0, none, fld w 55 39, fld w 38 25, m, false⟩ (here d c) (coming d c)
  (upto 0 8).foldl (fun d c => if bit mask c || mc == some c then start d c else d) d

end Sys2Proof.Machine
end

