-- ==== Sys2Proof/Machine/Verify.lean ====
section
/-! DEFINITION. From a frame's result to its queue: completion of the match chain, launch, verification,
squash, replay, and release from the reorder buffer. -/
namespace Sys2Proof.Machine

/-- Everything that holds a frame lets go of it: its copies, transfers, replications and chain. -/
def stripFrame (t : TimeState) (d : Dev) (fid : Nat) : Dev :=
  let d := (d.fp.copies.filter (fun x => x.fid == fid)).foldl (fun d x => dropCopy t d x.cid) d
  let d := (d.fp.repls.filter (fun r => r.fid == fid && r.chain ≠ 0)).foldl (fun d r => releaseChain d r.chain) d
  let d := match (frameOf d fid).bind (fun f => f.chain) with
    | some k => releaseChain d k
    | none => d
  let d := setFp d { d.fp with
    repls := d.fp.repls.filter (fun r => r.fid != fid)
    xfers := mapIf (fun x => x.fid == fid) (fun x => { x with dead := true, held := 0, cid := none }) d.fp.xfers }
  mapFrame d fid (fun f => { f with chain := none })

/-- A frame is discarded: it is in flight no more, and its key leaves the order guard. -/
def dropFrame (t : TimeState) (d : Dev) (fid : Nat) : Dev :=
  let d := match frameOf d fid with
    | some f => if f.stage = 2 && f.adm = 1 then dropRef t d (portSlice f.port) (imProg f.image) else d
    | none => d
  mapFrame d fid (fun f => { f with gone := true, guard := 0, adm := 0, verdict := 0 })

/-- The discarded frame and all that holds it. -/
def killFrame (t : TimeState) (d : Dev) (fid : Nat) : Dev :=
  settleFrame (dropFrame t (stripFrame t d fid) fid) fid

/-- A word of a stored action image. DESIGN CHOICE, log entry 77. -/
def zeroImage : List Nat := List.replicate 8 0

/-- The action image that a result selects: an index that the version does not hold reads zero. DESIGN CHOICE, log entry
77. -/
def fetchImage (t : TimeState) (d : Dev) (v c : Nat) (r : Res) : List Nat × Res × Dev :=
  if r.drop ≠ 0 then (zeroImage, r, d)
  else match r.inl with
    | some im => (im, r, d)
    | none => match indexEntry d v 5 c r.index with
      | none => (zeroImage, r, d)
      | some e =>
        let (r, d) := readIndex t d r e
        (if r.drop = 3 then zeroImage else e.data, r, d)

/-- A frame's authoritative result is complete: its class and colour, its action image, and the charge
of its meter (R83, R213). DEDUCED, log entry 78. -/
def complete (t : TimeState) (d : Dev) (fid : Nat) (r : Res) : Dev :=
  match frameOf d fid with
  | none => d
  | some f =>
    let v := epochVersion d (mEpoch f.sect)
    let (im, r, d) := fetchImage t d v (portCluster f.port) r
    let sect := match r.tc with
      | some c => setMetaF f.sect 0 22 20 c
      | none => f.sect
    let sect := if r.colour = 0 then sect else setMetaF sect 0 19 18 (r.colour - 1)
    let (chg, col, d) := match r.meter with
      | some m => if r.drop ≤ 2 then chargeMeter t d { f with sect := sect } m else (0, mColour sect, d)
      | none => (0, mColour sect, d)
    mapFrame d fid (fun f => { f with
      res := r, image := im, fin := setMetaF sect 0 19 18 col, chg := chg, version := v, ready := true, hbm := false })

/-- The frame counts for its rule counters: packets, bytes (R89, R357). -/
def countHits (d : Dev) (f : Frame) (pk by' : Nat) : Dev :=
  f.res.hits.foldl (fun d i => countRule d (portCluster f.port) (mPart f.sect) i pk by') d

/-- Counts a discard at VE that the result or the meter causes. -/
def countDrop (d : Dev) (f : Frame) : Dev :=
  let s := portSlice f.port
  let c := portCluster f.port
  let p := mPart f.sect
  let exm (e : Ev) := countN d e c (f.port % 128) c p 1
  match f.res.drop with
  | 1 => exm evTableDrop
  | 2 => exm evNoAction
  | 3 => exm evTableUe
  | 4 => d
  | _ => if f.chg = 4 then countN d evMeterDrop s (ixSpc f.port (mTc f.sect)) c p 1 else d

/-- Counts what its meter did for a frame that it neither dropped nor charged (R215). DEDUCED, log entry 78. -/
def countMeter (d : Dev) (f : Frame) : Dev :=
  let s := portSlice f.port
  let e := if f.chg = 2 then some evMeterSkip else if f.chg = 3 then some evMeterDenied else none
  match e with
  | some e => countN d e s (ixSpc f.port (mTc f.sect)) (portCluster f.port) (mPart f.sect) 1
  | none => d

/-- The undo of a launched frame's copy (Table 6.3, R144). `keep` keeps its chain for the replay. -/
def undoLaunch (t : TimeState) (d : Dev) (f : Frame) (keep : Bool) : Dev :=
  match copyOf d f.lcid with
  | none => d
  | some x =>
    let d := if x.onDie then occWrite d x else d
    let d := match x.refAt with
      | some s => dropRef t d s x.prog
      | none => d
    let d := mapCopy d x.cid (fun y => { y with refAt := none })
    let c := portCluster f.port
    let p := mPart f.sect
    let hand (d : Dev) : Dev := if keep && x.chain ≠ 0 then mapFrame d f.fid (fun f => { f with chain := some x.chain })
      else if x.chain ≠ 0 then releaseChain d x.chain else d
    match x.st, x.grant with
    | 2, some g =>
      if !g.done && (g.drop || !begun t d x g) then
        let d := countFdh d 7 c p 1
        hand (setFp d { d.fp with copies := d.fp.copies.filter (fun y => y.cid != x.cid) })
      else if g.done then
        hand (setFp d { d.fp with copies := d.fp.copies.filter (fun y => y.cid != x.cid) })
      else
        let d := countFdh d 8 c p 1
        let d := mapCopy d x.cid (fun y => { y with grant := some { g with stomp := true } })
        if keep && x.chain ≠ 0 then
          mapFrame (mapChain d x.chain (fun k => { k with refs := k.refs + 1 })) f.fid (fun f => { f with chain := some x.chain })
        else d
    | 1, _ => purgeVoids (hand (mapCopy d x.cid (fun y => { y with void := true, chain := 0 })))
    | 0, _ =>
      let stay := keep && x.chain ≠ 0
      let d := setFp d { d.fp with
        copies := d.fp.copies.filter (fun y => y.cid != x.cid)
        xfers := mapIf (fun y => y.cid == some x.cid)
          (fun y => if stay then { y with cid := none } else { y with dead := true, held := 0, cid := none }) d.fp.xfers }
      if x.chain ≠ 0 then hand d else reapBlocks d x.queue
    | _, _ => dropCopy t d x.cid

/-- A verdict takes effect at the launched copy: 1 confirms it, 2 squashes it, 3 cancels it. -/
def applyVerdict (t : TimeState) (d : Dev) (fid v : Nat) : Dev :=
  match frameOf d fid with
  | none => d
  | some f =>
    let d := mapFrame d fid (fun f => { f with verdict := 0 })
    if v = 1 then
      match copyOf d f.lcid with
      | none => d
      | some x =>
        match x.grant with
        | some g =>
          if g.done then
            let d := takeRef t (undoLaunch t d f true) (portSlice f.port) (imProg f.image)
            mapFrame d fid (fun f => { f with adm := 1, replayed := true })
          else
            let d := countEnq (mapCopy d x.cid (fun y => { y with verified := true, grant := some { g with owed := [] } })) x
            let d := g.owed.foldl (fun d e => countEdt d x e) d
            if g.drop then dropCopy t d x.cid else d
        | none =>
          let d := mapCopy d x.cid (fun y => { y with verified := true })
          if x.st = 0 then d else countEnq d x
    else undoLaunch t d f (v == 2)

/-- The launched copy waits in another cluster than the frame's ingress slice. -/
def launchedAway (d : Dev) (f : Frame) : Bool :=
  match copyOf d f.lcid with
  | some x => x.cluster != portCluster f.port
  | none => false

/-- Gives a verdict: at once in the ingress cluster, or on its way to another (R139). DEDUCED, log entry 83. -/
def giveVerdict (t : TimeState) (d : Dev) (f : Frame) (v : Nat) : Dev :=
  if launchedAway d f then mapFrame d f.fid (fun f => { f with verdict := v }) else applyVerdict t d f.fid v

/-- A squash of one frame: it is counted, its key enters the guard, and it is to be admitted anew. DEDUCED, log entry
80. -/
def squashOne (t : TimeState) (d : Dev) (f : Frame) : Dev :=
  let d := countFdh d 5 (portCluster f.port) (mPart f.sect) 1
  let d := guardEnter t d f.fid
  let d := mapFrame d f.fid (fun f => { f with adm := 1, launch := 0, replayed := true })
  giveVerdict t d f 2

/-- The followers of a leader: launched after it, which the numbers of the launched copies tell, and not yet verified
(R138). DEDUCED, log entry 134. -/
def followers (d : Dev) (f : Frame) : List Frame :=
  d.fp.frames.filter (fun x => x.fid != f.fid && portSlice x.port == portSlice f.port && predKeyOf x == predKeyOf f
    && x.launch ≠ 0 && f.lcid < x.lcid && x.stage == 1 && !x.gone)

/-- The followers of a leader are squashed. DEDUCED, log entry 134. -/
def squashFollowers (t : TimeState) (d : Dev) (f : Frame) : Dev :=
  (followers d f).foldl (fun d x => squashOne t d x) d

/-- A refused launch, told by the answer of another cluster's pool: the frames of its key that were launched after it
must not overtake it (R142), so their launches are undone and refused with it. DESIGN CHOICE, log entry 157. -/
def refuseLater (t : TimeState) (d : Dev) (f : Frame) : Dev :=
  (followers d f).foldl (fun d x =>
    let d := guardEnter t (countFdh d 3 (portCluster x.port) (mPart x.sect) 1) x.fid
    giveVerdict t (mapFrame d x.fid (fun x => { x with launch := 0 })) x 3) d

/-- A squashed frame's chain goes to its true queue in the same cluster: relinked, with the first cell when none has
crossed yet, or copied into staging when the queue spills (Table 6.3, R185). DEDUCED, log entry 80. -/
def relink (t : TimeState) (d : Dev) (f : Frame) (k : Chain) (q prog : Nat) : Option Refuse × Option Nat × Dev :=
  match refuseQueue d q with
  | some r => (some r, none, d)
  | none =>
    let (cid, d) := nextId (askRecs t d q (mPart f.sect))
    let y : Copy := { Copy.start cid f.fid 0 (mPart f.sect) q prog f.image k.cluster (k.cells.length + k.rsv) with
                        verified := true, refAt := some (portSlice f.port) }
    let n := f.want
    if spillBound d q n then
      match checkSpill d q (mPart f.sect) n with
      | some e => (some (.pool e), none, d)
      | none =>
        let d := spillCopy d { y with n := n }
        let d := if f.tail then storeTail t d f.fid else d
        (none, some cid, enterQueue t (releaseChain d k.id) cid 2)
    else match findFirst (fun x => x.id == k.xfer && x.arrived == 0 && !x.dead) d.fp.xfers with
      | some x =>
        let d := addCopy d { y with chain := k.id, st := 0 }
        (none, some cid, mapXfer d x.id (fun x => { x with cid := some cid }))
      | none => (none, some cid, enterQueue t (addCopy d { y with chain := k.id }) cid 2)

/-- The unicast copy of a frame past VE: `old` is the chain that a squash left. -/
def admitUnicast (t : TimeState) (d : Dev) (f : Frame) (old : Option Chain) : Option Refuse × Option Nat × Dev :=
  let q := imQueue f.image
  match old with
  | some k =>
    if k.cluster = queueCluster q then relink t d f k q (imProg f.image)
    else requestCopy t d f q (imProg f.image) f.image true false (some k.id)
  | none => requestCopy t d f q (imProg f.image) f.image true false none

/-- The copy has not reached its queue yet. -/
def copyAway (d : Dev) (cid : Option Nat) : Bool :=
  match cid.bind (copyOf d) with
  | some x => x.st == 0
  | none => false

/-- The frame's copies at AD on its authoritative result (R140, R182, R188): its unicast copy and the replications. -/
def admitNow (t : TimeState) (d : Dev) (fid : Nat) : Dev :=
  match frameOf d fid with
  | none => d
  | some f =>
    let s := portSlice f.port
    let prog := imProg f.image
    let old := f.chain.bind (chainOf d)
    let free (d : Dev) : Dev := match old with
      | some k => releaseChain d k.id
      | none => d
    let copies := imKind f.image = 1 || imMirror f.image
    let f := { f with adTc := mTc f.sect, chain := none, adm := 0, rob := false }
    let d := mapFrame d fid (fun _ => f)
    let d := match old with
      | some k => if copies then mapChain d k.id (fun k => { k with refs := k.refs + 1 }) else d
      | none => d
    let (uni, d) : Option Nat × Dev :=
      if imKind f.image = 0 then
        match admitUnicast t d f old with
        | (none, cid, d) => (cid, d)
        | (some r, _, d) => (none, free (dropRef t (countRefuse d f (imQueue f.image) (mPart f.sect) r) s prog))
      else (none, free (dropRef t d s prog))
    let d := if copies then free (replicate t d f uni old) else d
    settleFrame (if copyAway d uni then d else guardLeave d fid) fid

/-- The first frame of a key in its slice that is to be admitted, reorder buffers apart. -/
def turnOf (d : Dev) (s : Nat) (key : Nat × Nat × Nat) : Option Frame :=
  findFirst (fun f => f.adm == 1 && !f.gone && !f.rob && portSlice f.port == s && predKeyOf f == key) d.fp.frames

/-- Frames of one key are admitted in arrival order, each once its own VE and its verdict allow it (R140). -/
def runTurn (t : TimeState) (s : Nat) (key : Nat × Nat × Nat) : Nat → Dev → Dev
  | 0, d => d
  | k + 1, d =>
    match turnOf d s key with
    | none => d
    | some f => if f.stage = 2 && f.verdict = 0 then runTurn t s key k (admitNow t d f.fid) else d

/-- Frames of a port that the reorder buffer releases in arrival order (R149, R150): each waits for
every earlier frame of its port to have left the buffer, to have passed VE, and to be admitted; the entry of a frame
that was discarded frees in its turn. -/
def runRob (t : TimeState) (port : Nat) : Nat → Dev → Dev
  | 0, d => d
  | k + 1, d =>
    match findFirst (fun f => f.port == port && f.stage ≠ 0 && (f.rob || !f.gone && (f.stage == 1 || f.adm ≠ 0))) d.fp.frames with
    | none => d
    | some f =>
      if f.rob && (f.gone || f.stage = 2) then
        runRob t port k (if f.adm = 1 && !f.gone then admitNow t d f.fid
          else settleFrame (mapFrame d f.fid (fun f => { f with rob := false })) f.fid)
      else d

/-- Ports of a slice that the reorder buffer holds frames of. -/
def robPorts (d : Dev) (s : Nat) : List Nat :=
  d.fp.frames.foldl (fun l f => if f.rob && portSlice f.port == s && !l.contains f.port then l ++ [f.port] else l) []

/-- What waited for this frame goes on: its key's turn, and the reorder buffer of its slice's ports. -/
def goOn (t : TimeState) (d : Dev) (f : Frame) : Dev :=
  let n := d.fp.frames.length + 1
  let d := runTurn t (portSlice f.port) (predKeyOf f) n d
  (robPorts d (portSlice f.port)).foldl (fun d p => runRob t p n d) d

/-- A frame is discarded at VE: its reorder entry frees in its turn. -/
def veDrop (t : TimeState) (d : Dev) (f : Frame) : Dev :=
  goOn t (killFrame t d f.fid) f

/-- The frame fails the check of R184 that its final colour asks for at VE. -/
def colourFails (d : Dev) (f : Frame) : Bool :=
  match copyOf d f.lcid with
  | some x => mColour f.sect ≠ 0 && x.segs == []
      && colourLimit d x.cluster (copyPort d x) (copyTc d x) (reqColour f) < portCells d x.cluster (copyPort d x) (copyTc d x)
  | none => false

/-- A launched frame is cancelled at VE (Table 6.2, R137). -/
def cancel (t : TimeState) (d : Dev) (f : Frame) : Dev :=
  let c := portCluster f.port
  let p := mPart f.sect
  let d := countFdh (countFdh d 4 c p 1) 6 c p 1
  let d := squashFollowers t d f
  let d := giveVerdict t (mapFrame d f.fid (fun f => { f with launch := 0, guard := 0 })) f 3
  let d := mapFrame d f.fid (fun f => { f with gone := true, adm := 0 })
  goOn t (settleFrame d f.fid) f

/-- What VE counts for a frame: its rule counters, its discard, its meter (R89, R215). DEDUCED, log entry 134. -/
def veCount (d : Dev) (f : Frame) : Dev :=
  countMeter (countDrop (countHits d f 1 (if f.tail || mLenSrc f.sect = 0 then f.len else 0)) f) f

/-- A frame whose prediction was right is confirmed, unless its final colour forbids the copy (R136, R137). DEDUCED, log
entry 79. -/
def veConfirm (t : TimeState) (d : Dev) (f : Frame) : Dev :=
  if colourFails d f then
    cancel t (match copyOf d f.lcid with
      | some x => countCopy d 1 x
      | none => d) f
  else
    goOn t (settleFrame (giveVerdict t (refreshPred t (mapFrame d f.fid (fun f => { f with launch := 0 })) f) f 1) f.fid) f

/-- A frame that was not launched, or wrongly, is admitted on its result in its turn (R137, R140, R142); its copy for the
host is made here, so that host copies stand in the order in which their frames passed VE (R288). -/
def veAdmit (t : TimeState) (d : Dev) (f : Frame) : Dev :=
  let d := takeRef t (fillPred t d f) (portSlice f.port) (imProg f.image)
  let d := if f.launch = 2 then squashOne t (squashFollowers t (countFdh d 4 (portCluster f.port) (mPart f.sect) 1) f) f
    else mapFrame d f.fid (fun f => { f with adm := 1 })
  goOn t (if imHost f.image then hostCopy t d f else d) f

/-- What VE decides of a frame (Table 6.2). DEDUCED, log entry 79. -/
def veDecide (t : TimeState) (d : Dev) (f : Frame) : Dev :=
  if f.res.drop ≠ 0 || f.chg = 4 then
    if f.launch = 2 then cancel t d f else veDrop t d f
  else
    let d := sampleFrame t d f
    if f.launch = 2 && f.pred = f.image then veConfirm t d f else veAdmit t d f

/-- The frame is not due at VE. -/
def veEarly (f : Frame) : Bool := f.stage ≠ 1 || !f.ready || f.launch = 1 || f.gone

/-- The frame as VE hands it on. -/
def Frame.past (f : Frame) : Frame := { f with stage := 2, sect := if mDrop f.sect then f.sect else f.fin }

/-- VERIFY: the frame reaches VE (R136 to R142, Table 6.2). -/
def verifyFrame (t : TimeState) (d : Dev) (fid : Nat) : Dev :=
  match frameOf d fid with
  | none => d
  | some f =>
    if veEarly f || gated d (portSlice f.port) then d
    else
      let f := f.past
      let d := mapFrame d f.fid (fun _ => f)
      if mDrop f.sect then veDrop t d f else veDecide t (veCount d f) f

/-- VERDICT_ARRIVAL: the verdict on a frame reaches its egress slice (R139). -/
def verdictArrival (t : TimeState) (d : Dev) (fid : Nat) : Dev :=
  match frameOf d fid with
  | none => d
  | some f =>
    if f.verdict = 0 then d
    else goOn t (settleFrame (applyVerdict t d fid f.verdict) fid) f

end Sys2Proof.Machine
end

