-- ==== Sys2Proof/Machine/Rx.lean ====
section
/-! DEFINITION. The receiving side: RX, PA and KB, prediction and launch, the Crust path, admission
requests to other clusters, cells that cross, and the tail. -/
namespace Sys2Proof.Machine

/-- The settings that the parser's port gives (Table 3.14). -/
def prsPort (d : Dev) (port : Nat) : Nat := rd d ⟨.prs, portSlice port⟩ .prsPort (port % 16)

/-- A frame at its start. -/
def Frame.start (fid port : Nat) (bytes : List Byte) (ts : DTime) : Frame :=
  ⟨fid, port, bytes, ts, 0, false, false, false, false, List.replicate 8 0, [], false, false, Res.start 0, false, false,
   0, [], 0, 0, 0, 0, false, zeroImage, 0, 0, 0, List.replicate 8 0, 0, none, false, false, false⟩

/-- Bytes in a slice's elastic buffer. -/
def elastic (d : Dev) (s : Nat) : Nat :=
  ((d.fp.frames.filter (fun f => portSlice f.port == s && f.stage == 0 && !f.gone)).map (fun f => f.len)).sum

/-- RX_FRAME_START: the ingress time is recorded, a dozing slice wakes, and a frame that does not fit
while its slice is not ACTIVE is lost whole (R17, R29). -/
def rxStart (t : TimeState) (d : Dev) (port : Nat) (data : List Byte) : Dev :=
  if halted d || portWidth d port = 0 || !isOn d ⟨.mac, port⟩ || !linkUp d port || data = [] then d
  else
    let s := portSlice port
    let d := wakeSlice d s 1
    if slcState d s ≠ 0 && 16384 < elastic d s + data.length then countN d (Ev.plain .mac 8) port 0 0 0 1
    else
      let (fid, d) := nextId d
      setFp d { d.fp with frames := d.fp.frames ++ [Frame.start fid port data
                                              (numDt (addPs (dtNum t.now) (rdF d ⟨.mac, port⟩ .macTsAdj 15 0)))] }

/-- A frame is a MAC control frame. -/
def Frame.control (f : Frame) : Bool := u16 f.bytes 12 == 0x8808

/-- Counts an event of the parser for a frame. -/
def countPrs (d : Dev) (f : Frame) (ev : Nat) (b : Bool) : Dev :=
  if b then countN d (Ev.plain .prs ev) (portSlice f.port) (f.port % 16) 0 0 1 else d

/-- What PA makes of a frame: its parse section, and the events it counts (R50 to R63). -/
def parseFrame (d : Dev) (f : Frame) : List Nat × Dev :=
  let s := portSlice f.port
  let x := paCtx d f.port f.bytes
  let p := paParse x
  let r := prsPort d f.port
  let cfg := rd d ⟨.prs, s⟩ .prsCfg
  let owner := memGet d .partPort 0 f.port
  let useFab := bit r 6 && owner == 0 && p.fabSeen
  let (len, src) := paLength x p f.len (portMtu d f.port)
  let tc := if p.fabSeen then p.fabTc else if p.tags ≠ 0 then p.opcp else fld r 2 0
  let m := paWords p f.port (if useFab then p.fabPart else owner) len src tc p.odei
    (selectProfile d s f.port p.hv p.pend) useFab (paDrop cfg p) f.ts
  let d := countPrs d f 0 (p.pend == 9)
  let d := countPrs d f 1 (p.pend == 1)
  let d := countPrs d f 2 (p.pend == 2)
  let d := countPrs d f 3 (p.pend == 8)
  let d := countPrs d f 4 (p.hop0 && p.fabSeen && bit cfg 5)
  (m, countPrs d f 7 p.csumBad)

/-- Counts an event of the slice for a frame. -/
def countSlc (d : Dev) (f : Frame) (e : Ev) : Dev :=
  countN d e (portSlice f.port) (f.port % 16) (portCluster f.port) (mPart f.sect) 1

/-- Crust table and LAG (Table 12.11): the entry of an ingress port, and the members that may carry. -/
def crustEntry (d : Dev) (port : Nat) : Nat := okRec d (devBlk .flt) 1 port (memGet d .crust 0 port)
def portUp (d : Dev) (port : Nat) : Bool := portWidth d port != 0 && linkUp d port && !fencedFor d (portSlice port)
def crustLag (d : Dev) : List Nat :=
  ((upto 0 16).map (fun i => rd d (devBlk .flt) .fltCrustLag i)).filterMap (fun w =>
    if bit w 63 && portUp d (fld w 9 0) then some (fld w 9 0) else none)

/-- The egress port of a frame in Crust mode (R279). -/
def crustOut (d : Dev) (f : Frame) : Option Nat :=
  let e := crustEntry d f.port
  let out : Option Nat := match fld e 63 62 with
    | 1 => some (fld e 9 0)
    | 2 =>
      let l := crustLag d
      let h := crustHash d (portSlice f.port) f.sect f.bytes
      l[((fld h 31 16).xor (fld h 15 0) * l.length) >>> 16]?
    | _ => none
  match out with
  | some p => if portUp d p then some p else none
  | none => none

/-- Cells of a port's Crust queue: those that its pool has granted. -/
def crustCells (d : Dev) (port : Nat) : Nat := cellSum d (fun x => x.kind == 5 && x.queue == port && x.chain != 0)

/-- A frame takes the Crust path (R279). -/
def crustFrame (t : TimeState) (d : Dev) (fid : Nat) : Dev :=
  match frameOf d fid with
  | none => d
  | some f =>
    let s := portSlice f.port
    let n := f.want
    let lost (d : Dev) (e : Ev) : Dev := killFrame t (countSlc d f e) fid
    if mDrop f.sect then killFrame t d fid
    else
    let d := touch t d (devBlk .flt) 1 f.port
    match crustOut d f with
      | none => lost d evCrustNoPath
      | some out =>
        let c := portCluster out
        let d := mapFrame d fid (fun f => { f with stage := 2, crust := true })
        let full (d : Dev) : Bool := rdF d (devBlk .flt) .fltCrustCfg 18 0 < crustCells d out + n
        if c = portCluster f.port then
          if full d || (judgeChain d c n).isSome then lost (poolAsk t d c (poolPort c s) false) evCrustDrop
          else
            let (cid, d) := nextId (poolAsk t d c (poolPort c s) true)
            let (id, d) := newChain d c fid n 1 0
            let d := addCopy d { Copy.start cid fid 5 (mPart f.sect) out 0 zeroImage c n with verified := true, chain := id }
            let d := if f.tail then storeTail t d fid else d
            wakeSlice d (portSlice out) 2
        else match refuseVoq d s (portSlice out) n with
          | some r => killFrame t (countRefuse d f 0 (mPart f.sect) r) fid
          | none =>
            let (cid, d) := nextId d
            let (id, d) := nextId d
            let d := addCopy d { Copy.start cid fid 5 (mPart f.sect) out 0 zeroImage c n with st := 0, verified := true }
            wakeSlice (setFp d { d.fp with xfers := d.fp.xfers ++
              [⟨id, fid, s, portSlice out, n, 0, n, 0, 0, some cid, false, none, false⟩] }) (portSlice out) 2

/-- Entries that a slice's reorder buffer holds, of one port or of all (R151); a discarded frame's frees in its turn
(R150). -/
def robHeld (d : Dev) (s : Nat) (port : Option Nat) : Nat :=
  countIf (fun f => f.rob && portSlice f.port == s && (port == none || port == some f.port)) d.fp.frames

/-- PORT_CAP of a cluster (Table 6.10). -/
def portCap (d : Dev) (c : Nat) : Nat :=
  let n := rdF d (fdhBlk c) .fdhRobCfg 9 0
  if n = 0 || 512 < n then 512 else n

/-- The hit on an entry is demoted (R130). -/
def demoted (d : Dev) (f : Frame) (e : PredEnt) : Bool :=
  let c := portCluster f.port
  let x := part d (mPart f.sect)
  x.mode || x.trans || f.rob || !isOn d (fdhBlk c) || !bit (rd d (fdhBlk c) .fdhCfg) 0 || guarded d f
    || progState d (imProg e.action) == 2

/-- The launch of a frame with a predicted image (R133, R134); a granted one counts in its ingress occupancy (R226). -/
def launch (t : TimeState) (d : Dev) (f : Frame) (im : List Nat) : Dev :=
  let s := portSlice f.port
  let c := portCluster f.port
  let p := mPart f.sect
  let d := countFdh d 0 c p 1
  let d := takeRef t d s (imProg im)
  match requestCopy t d f (imQueue im) (imProg im) im false true none with
  | (some _, _, d) => guardEnter t (countFdh (dropRef t d s (imProg im)) 3 c p 1) f.fid
  | (none, cid, d) =>
    let away := copyAway d cid
    let d := mapFrame d f.fid (fun f => { f with pred := im, launch := if away then 1 else 2, lcid := cid.getD 0, adTc := mTc f.sect })
    match frameOf d f.fid with
    | some f => pfcFrameCheck d f
    | none => d

/-- PR: the prediction lookup of a frame (R129, R130, R148). -/
def predict (t : TimeState) (d : Dev) (f : Frame) : Dev :=
  let c := portCluster f.port
  let p := mPart f.sect
  let miss (d : Dev) (ev : Nat) : Dev := guardEnter t (countFdh d ev c p 1) f.fid
  if flushing d c p then miss d 1
  else match predLookup t d c p (mProfile f.sect) (mFlowHash f.sect) with
    | (none, d) => miss d 1
    | (some (_, e), d) => if demoted d f e then miss d 2 else launch t d f e.action

/-- FLOW lookups queued in a cluster. -/
def flowDepth (d : Dev) (c : Nat) : Nat := countIf (fun x => x.1 == c) d.fp.flow

/-- A FLOW lookup that cannot be made, or whose stack left ON before it was: counted, and treated under BUSY_ACT (R94,
R250). -/
def flowBusy (d : Dev) (f : Frame) (r : Res) : Res × Dev :=
  let c := portCluster f.port
  (if bit (chainWord d c (mProfile f.sect) 0) 61 then r else { r with drop := 4 },
    countN d evHbmLkpBusy c (f.port % 128) c (mPart f.sect) 1)

/-- M1 to M12 of a frame, and its FLOW lookup if it needs one (R84 to R86, R94). -/
def matchFrame (t : TimeState) (d : Dev) (f : Frame) (keys : List (List Byte)) : Dev :=
  let c := portCluster f.port
  let (r, want, d) := runChain t d c f.sect keys
  if want then
    if 4096 ≤ flowDepth d c || !isOn d (stackFor d c) then
      let (r, d) := flowBusy d f r
      complete t d f.fid r
    else
      let d := mapFrame d f.fid (fun f => { f with res := r, hbm := true, k0 := keys.headD [] })
      let d := setFp d { d.fp with flow := d.fp.flow ++ [(c, f.fid)] }
      let d := countN d (Ev.plain .hbm 1) (stackFor d c).inst 0 0 0 1
      if rdF d ⟨.exm, c⟩ .exmHbmq 44 32 < flowDepth d c then wrF d ⟨.exm, c⟩ .exmHbmq 44 32 (flowDepth d c) else d
  else complete t d f.fid r

/-- The frame with its keys enters PR and the match chain, once KB has read its profile's words (R75, R253), through the reorder buffer in the modes that have one; an
entry beyond the buffer's room is lost, and a frame that PA drops waits for VE alone (R129, R150, R151). -/
def keyedFrame (t : TimeState) (d : Dev) (f : Frame) (k : Keys) : Dev :=
  let s := portSlice f.port
  let c := portCluster f.port
  let x := part d (mPart f.sect)
  let d := (readWords t d ⟨.prs, s⟩ 0 (kbWords (mProfile f.sect))).2
  let d := countPrs d f 6 (k.ue && !mDrop f.sect)
  let slow := x.mode || x.trans
  let rob := slow || portBuffered d f.port
  let f := { f with sect := k.sect, stage := 1, kb := t.tick, rob := rob, reorder := slow, adTc := mTc f.sect }
  let d := mapFrame d f.fid (fun _ => f)
  if rob && (512 < robHeld d s none || portCap d c < robHeld d s (some f.port)) then
    killFrame t (mapFrame (countFdh d 10 c (mPart f.sect) 1) f.fid (fun f => { f with rob := false })) f.fid
  else if mDrop f.sect then mapFrame d f.fid (fun f => { f with ready := true })
  else matchFrame t (if x.mode && !x.trans then d else predict t d f) f k.keys

/-- A parsed frame: Crust mode takes it, or its partition's state discards it, or KB makes its keys (R67, R279, R295, R296). -/
def parsedFrame (t : TimeState) (d : Dev) (f : Frame) : Dev :=
  let s := portSlice f.port
  let x := part d (mPart f.sect)
  if crustState d ≠ 0 then crustFrame t d f.fid
  else if x.st = 2 || x.st = 3 then killFrame t (countSlc d f evPartQuiesce) f.fid
  else if x.st = 4 || x.st = 5 then killFrame t (countSlc d f evPartResetDrop) f.fid
  else keyedFrame t d f (keyBuild d s (unitVersion d s % 8) f.sect f.bytes)

/-- The frame's header window is not released: it has been, its slice is not ACTIVE, or the frame does not go on from RX. -/
def windowShut (d : Dev) (f : Frame) : Bool :=
  f.stage ≠ 0 || f.gone || slcState d (portSlice f.port) ≠ 0 || gated d (portSlice f.port) || f.len < 64 || f.control
    || (f.len ≤ 384 && portMtu d f.port < f.len)

/-- HEADER_WINDOW_RELEASE: PA, KB, PR and the match chain take the frame (R48 to R72, R129). -/
def releaseFrame (t : TimeState) (d : Dev) (fid : Nat) : Dev :=
  match frameOf d fid with
  | none => d
  | some f =>
    if windowShut d f then d
    else if !isOn d ⟨.prs, portSlice f.port⟩ then killFrame t (countPrs d f 5 true) f.fid
    else
      let m := parseFrame d f
      let f := { f with sect := m.1 }
      parsedFrame t (mapFrame m.2 f.fid (fun _ => f)) f

/-- FLOW_LOOKUP_RESULT: the oldest FLOW lookup of a cluster returns (R86, R87). -/
def flowReturn (t : TimeState) (d : Dev) (c : Nat) : Dev :=
  match findFirst (fun x => x.1 == c) d.fp.flow with
  | none => d
  | some (_, fid) =>
    let d := setFp d { d.fp with flow := eraseFirst (fun x => x.1 == c) d.fp.flow }
    match frameOf d fid with
    | none => d
    | some f =>
      if f.gone || !f.hbm then d
      else if !isOn d (stackFor d c) then
        let (r, d) := flowBusy d f f.res
        complete t d fid r
      else
        let v := epochVersion d (mEpoch f.sect)
        let r := searchFlow d v c (mPart f.sect) f.k0
        let (r0, d) := resHurt t d f.res r.bad
        if r0.drop = 3 && f.res.drop ≠ 3 then complete t d fid r0
        else match r.hit with
          | none => complete t d fid f.res
          | some e =>
            let (r, d) := flowRes t d v c (mLsHash f.sect) (mProfile f.sect) e
            complete t d fid r

/-- What the pool of another cluster says to a copy that asks for its cells (R182, R279). -/
def judgeFar (d : Dev) (f : Frame) (y : Copy) (n : Nat) : Option Refuse :=
  if y.kind = 5 then
    (if rdF d (devBlk .flt) .fltCrustCfg 18 0 < crustCells d y.queue + n then some (.pool 4) else judgeChain d y.cluster n)
  else (refuseQueue d y.queue).orElse (fun _ => judge d y.queue y.part (reqColour f) n true)

/-- A refused copy is counted, unless it was launched (R134, R182). -/
def countFar (d : Dev) (f : Frame) (x : Xfer) (y : Copy) (r : Refuse) : Dev :=
  if x.launch then d else if y.kind = 5 then countSlc d f evCrustDrop else countRefuse d f y.queue y.part r

/-- A chain of another cluster is reserved for the replications that wait for a transfer, or refused (R190). -/
def chainForRepls (d : Dev) (f : Frame) (x : Xfer) (c : Nat) : Bool × Dev :=
  let mine := d.fp.repls.filter (fun r => r.xfer == some x.id)
  if mine = [] then (false, d)
  else match judgeChain d c x.n with
    | some r =>
      let d := mine.foldl (fun d z => countEach d f z r) d
      (false, setFp d { d.fp with repls := d.fp.repls.filter (fun z => z.xfer != some x.id) })
    | none =>
      let (id, d) := newChain d c x.fid x.n mine.length x.id
      (true, setFp d { d.fp with repls := mapIf (fun r => r.xfer == some x.id) (fun r => { r with chain := id }) d.fp.repls })

/-- POOL_REQUEST: a request reaches the pool of another cluster (R182). A copy and the replications that travel with
it share one chain (R188); where the copy is refused, or spilled, the replications have one of their own. -/
def poolRequest (t : TimeState) (d : Dev) (fid c : Nat) : Dev :=
  match findFirst (fun x => x.fid == fid && x.dst / 8 == c && x.phase == 0) d.fp.xfers, frameOf d fid with
  | some x, some f =>
    let phase (d : Dev) (n : Nat) : Dev := mapXfer (poolAsk t d c (poolPort c x.src) (n == 1)) x.id (fun x => { x with phase := n })
    let mine := d.fp.repls.filter (fun r => r.xfer == some x.id)
    if x.dead then setFp d { d.fp with xfers := d.fp.xfers.filter (fun y => y.id != x.id) }
    else match x.cid.bind (copyOf d) with
      | some y =>
        let d := if y.kind = 5 then d else askRecs t d y.queue y.part
        match judgeFar d f y x.n with
        | some r =>
          match chainForRepls (countFar d f x y r) f x c with
          | (true, d) =>
            let d := dropCopy t (mapXfer d x.id (fun x => { x with cid := none })) y.cid
            phase (guardLeave d fid) 1
          | (false, d) => phase d 2
        | none =>
          if y.kind ≠ 5 && spillBound d y.queue x.n then
            let d := setFp d { d.fp with copies := d.fp.copies.filter (fun z => z.cid != y.cid) }
            let d := mapCopy (spillCopy d y) y.cid (fun z => { z with st := 0 })
            phase (chainForRepls d f x c).2 1
          else
            let (id, d) := newChain d c fid x.n (1 + mine.length) x.id
            let d := occWrite (mapCopy d y.cid (fun z => { z with chain := id })) y
            let d := setFp d { d.fp with repls := mapIf (fun r => r.xfer == some x.id) (fun r => { r with chain := id }) d.fp.repls }
            phase d 1
      | none =>
        let (ok, d) := chainForRepls d f x c
        phase d (if ok then 1 else 2)
  | _, _ => d

/-- A transfer whose last cell has arrived ends; a chain that it was copied from is freed. -/
def endXfer (d : Dev) (x : Xfer) : Dev :=
  let d := setFp d { d.fp with
    xfers := d.fp.xfers.filter (fun y => y.id != x.id)
    repls := mapIf (fun r => r.xfer == some x.id) (fun r => { r with xfer := none }) d.fp.repls }
  match x.old with
  | some k => releaseChain d k
  | none => d

/-- Transfers that are over: all cells in after the tail, or dead with no cell in flight. -/
def endXfers (d : Dev) : Dev :=
  (d.fp.xfers.filter (fun x =>
    if x.dead then x.phase ≠ 0 && x.phase ≠ 1 && !d.fp.flight.any (fun y => y.2.2 == x.id)
    else x.phase = 3 && x.held = 0 && x.arrived = x.sent && (match frameOf d x.fid with | some f => f.tail | none => true))).foldl
    endXfer d

/-- POOL_GRANT: the pool's answer returns to the ingress slice (R134, R182). DESIGN CHOICE, log entry 157. -/
def poolGrant (t : TimeState) (d : Dev) (fid c : Nat) : Dev :=
  match findFirst (fun x => x.fid == fid && x.dst / 8 == c && (x.phase == 1 || x.phase == 2)) d.fp.xfers, frameOf d fid with
  | some x, some f =>
    if x.phase = 1 then
      let d := mapXfer d x.id (fun x => { x with phase := 3 })
      let d := if x.launch && f.launch = 1 then mapFrame d fid (fun f => { f with launch := 2 }) else d
      let d := if f.tail then storeTail t d fid else d
      settleFrame (endXfers (pumpVoq d x.src x.dst)) fid
    else
      let d := match x.cid with
        | some cid => dropCopy t d cid
        | none => d
      let d := match x.old with
        | some k => releaseChain d k
        | none => d
      let d := setFp d { d.fp with xfers := d.fp.xfers.filter (fun y => y.id != x.id) }
      let d := pumpVoq d x.src x.dst
      if x.launch then
        if f.launch = 1 then
          let d := refuseLater t (countFdh d 3 (portCluster f.port) (mPart f.sect) 1) f
          settleFrame (guardEnter t (mapFrame d fid (fun f => { f with launch := 0 })) fid) fid
        else settleFrame d fid
      else settleFrame (if x.cid.isSome then guardLeave d fid else d) fid
  | _, _ => d

/-- CREDIT_RETURN: a credit returns to its source slice, and waiting cells cross (R21). -/
def creditReturn (d : Dev) (src dst : Nat) : Dev :=
  let n := SMap.get 0 d.fp.backs (src * 64 + dst)
  if n = 0 then d else pumpVoq (setFp d { d.fp with backs := SMap.set 0 d.fp.backs (src * 64 + dst) (n - 1) }) src dst

/-- The first cell of a copy is in its pool: the copy enters its queue behind those there (R22). -/
def arriveCopy (t : TimeState) (d : Dev) (cid : Nat) : Dev :=
  match copyOf d cid with
  | none => d
  | some y =>
    let y := { y with st := if y.segs = [] then 1 else 3 }
    let d := setFp d { d.fp with copies := d.fp.copies.filter (fun z => z.cid != cid) ++ [y] }
    let d := enterQueue t d cid (if y.verified then 2 else 3)
    if y.verified then guardLeave d y.fid else d

/-- D2D_CELL_ARRIVAL: the oldest cell in flight between two slices is written into its chain, and its
credit sets out (R21, R22). -/
def cellArrival (t : TimeState) (d : Dev) (src dst : Nat) : Dev :=
  match findFirst (fun x => x.1 == src && x.2.1 == dst) d.fp.flight with
  | none => d
  | some (_, _, id) =>
    let n := SMap.get 0 d.fp.backs (src * 64 + dst)
    let d := setFp d { d.fp with
      flight := eraseFirst (fun x => x.1 == src && x.2.1 == dst) d.fp.flight
      backs := SMap.set 0 d.fp.backs (src * 64 + dst) (n + 1) }
    match xferOf d id with
    | none => d
    | some x =>
      let d := mapXfer d id (fun x => { x with arrived := x.arrived + 1 })
      if x.dead then endXfers d
      else
        let d := (d.fp.chains.filter (fun k => k.xfer == id)).foldl (fun d k => fillChain d k.id 1) d
        let d := match x.cid with
          | some cid => if x.arrived = 0 then arriveCopy t d cid else d
          | none => d
        settleFrame (endXfers d) x.fid

/-- D2D_RETRY: a bad flit is recovered at one end of a link (R23). -/
def d2dRetry (d : Dev) (l : Nat) : Dev :=
  if l < 56 && isOn d ⟨.d2d, l⟩ then countN d (Ev.plain .d2d 0) l 0 0 0 1 else d

/-- A copy of the frame has been granted before its tail (R186). -/
def cutOut (d : Dev) (fid : Nat) : Bool :=
  d.fp.copies.any (fun x => x.fid == fid && (match x.grant with | some g => g.cut | none => false))

/-- What the MAC counts at a tail (Table 16.2). DEDUCED, log entry 90. -/
def tailCount (d : Dev) (f : Frame) (fcsGood fecGood : Bool) : Dev :=
  let mac (d : Dev) (ev n : Nat) : Dev := countN d (Ev.plain .mac ev) f.port 0 0 0 n
  let d := mac (mac d 0 1) 1 f.len
  let d := if fcsGood then d else mac d 2 1
  let d := if fecGood then d else mac d 7 1
  if portMtu d f.port < f.len then mac d 4 1 else d

/-- A MAC control frame is consumed (R228). -/
def tailControl (t : TimeState) (d : Dev) (f : Frame) (good : Bool) : Dev :=
  killFrame t (if good then
      pfcFrame t d f.port (u16 f.bytes 14) (u16 f.bytes 16 % 256)
        (if u16 f.bytes 14 = 1 then [u16 f.bytes 16] else (upto 0 8).map (fun k => u16 f.bytes (18 + 2 * k)))
    else d) f.fid

/-- The tail is stored, and what waited for it goes on. -/
def tailStore (t : TimeState) (d : Dev) (fid : Nat) : Dev :=
  let d := storeTail t d fid
  let d := (d.fp.xfers.filter (fun x => x.fid == fid)).foldl (fun d x => pumpVoq d x.src x.dst) d
  settleFrame (endXfers d) fid

/-- FRAME_TAIL: what RX found, and the true length (R179, R180, R187, R394). DEDUCED, log entry 90. -/
def frameTail (t : TimeState) (d : Dev) (fid : Nat) (fcsGood fecGood : Bool) : Dev :=
  match frameOf d fid with
  | none => d
  | some f =>
    if f.tail then d
    else if f.len < 64 then
      setFp (countN d (Ev.plain .mac 3) f.port 0 0 0 1) { d.fp with frames := d.fp.frames.filter (fun x => x.fid != fid) }
    else
      let tooLong := portMtu d f.port < f.len
      let cut := cutOut d fid
      let d := mapFrame (tailCount d f fcsGood fecGood) fid (fun f => { f with tail := true, bad := !fcsGood || !fecGood || tooLong, fcsBad := !fcsGood })
      let d := if f.stage = 2 && !mDrop f.sect && mLenSrc f.sect ≠ 0 then countHits d f 0 f.len else d
      if f.control then tailControl t d f (fcsGood && fecGood && !tooLong)
      else if tooLong && !cut then goOn t (killFrame t d fid) f
      else tailStore t d fid

end Sys2Proof.Machine
end

