-- ==== Sys2Proof/Machine/Spill.lean ====
section
/-! DEFINITION. Spill to HBM and back, its losses, and the free-list auditor. -/
namespace Sys2Proof.Machine

/-- Words of a spill block that hold data: the cells of a cell block; the header and the records, of 18 words
each, of a record block (R239). -/
def SBlock.words (b : SBlock) : Nat := if b.isRec then 8 + 18 * b.used else 32 * b.used

/-- Words of a block as a read of it finds them: those that are uncorrectable, numbered within the block. A block that
is still staged is read in the staging memory, where record blocks have no protected word of their own. -/
def readBlock (t : TimeState) (d : Dev) (b : SBlock) : List Nat × Dev :=
  let c := queueCluster b.queue
  let step (blk : Blk) (m base : Nat) (e : Option Nat) (s : List Nat × Dev) (w : Nat) : List Nat × Dev :=
    if mark s.2 blk m (base + w) = 0 then s
    else let (u, d) := readWord t s.2 blk m (base + w) e; (if u then s.1 ++ [w] else s.1, d)
  if b.st = 0 then
    if b.isRec then ([], d) else (upto 0 b.words).foldl (step ⟨.bpm, c⟩ 5 (512 * b.slot) none) ([], d)
  else (upto 0 b.words).foldl (step (stackFor d c) 1 (512 * b.id) (some 1)) ([], d)

/-- The copy's cells in a block, or its record, lie in one of the damaged words: of a record the whole 64-byte line
counts (R198, R240). -/
def Copy.hurtBy (x : Copy) (b : SBlock) (bad : List Nat) : Bool :=
  if b.isRec then
    match x.rblk with
    | some r => r.1 == b.id && bad.any (fun w => w < 8 || (w / 8 * 8 < 8 + 18 * (r.2 + 1) && 8 + 18 * r.2 < w / 8 * 8 + 8))
    | none => false
  else x.segs.any (fun s => s.1 == b.id && bad.any (fun w => 32 * s.2.1 ≤ w && w < 32 * (s.2.1 + s.2.2)))

/-- Copies of a block's queue that a damaged word of it reaches are to be discarded at dequeue (R198). -/
def hurtCopies (t : TimeState) (d : Dev) (b : SBlock) (bad : List Nat) : Dev :=
  if bad = [] then d
  else
    let d := setFp d { d.fp with
      copies := mapIf (fun x => x.queue == b.queue && x.kind ≤ 2 && x.hurtBy b bad) (fun x => { x with hurt := true }) d.fp.copies }
    errSet t d ⟨.bpm, queueCluster b.queue⟩ 2

/-- SPILL_BLOCK_FLUSH: the queue's oldest staged block is written to HBM (R195). DEDUCED, log entry 95. -/
def spillFlush (t : TimeState) (d : Dev) (q : Nat) : Dev :=
  let h := stackFor d (queueCluster q)
  match findFirst (fun b => b.queue == q && b.st == 0) d.fp.blocks with
  | none => d
  | some b =>
    if 2 ≤ (blkSt d h).cur then
      let (bad, d) := readBlock t d b
      let d := (upto 0 b.words).foldl (fun d w => writeWord d h 1 (512 * b.id + w)) (hurtCopies t d b bad)
      countN (mapBlock d q b.id (fun b => { b with st := 1, shut := true })) (Ev.plain .hbm 2) h.inst 0 0 0 1
    else d

/-- The number under which a block that is being read holds its pool cells. -/
def readChain (q b : Nat) : Nat := 2 ^ 60 + q * 2 ^ 30 + b

/-- The copy's age is past its limit (R199): an age that a step of time made negative counts as 0. -/
def aged (t : TimeState) (d : Dev) (x : Copy) : Bool :=
  let lim := fld (limRec d x.cluster 3 (ixCpc (copyPort d x) (copyTc d x))) 23 0
  match frameOf d x.fid with
  | some f => lim != 0 && instant 0 (lim * 1000) < dtNum t.now - dtNum f.ts
  | none => false

/-- One spilled copy takes what a block that came back holds of it: its cells go to the pool, and its
record is there; a copy wholly on die is tested for its age. -/
def restoreCopy (t : TimeState) (b : SBlock) (d : Dev) (x : Copy) : Dev :=
  let mine := x.segs.filter (fun s => s.1 == b.id && !b.isRec)
  let n := (mine.map (fun s => s.2.2)).sum
  let c := queueCluster x.queue
  let (ch, d) := if n = 0 then (x.chain, d)
    else if x.chain = 0 then newChain d c x.fid n 1 0 true
    else (x.chain, mapChain d x.chain (fun k => { k with rsv := k.rsv + n }))
  let d := mapChain d (readChain x.queue b.id) (fun k => { k with rsv := k.rsv - n })
  let d := if n = 0 then d else fillChain d ch n
  let segs := if b.isRec then x.segs else x.segs.filter (fun s => s.1 != b.id)
  let rblk := x.rblk.filter (fun r => !(b.isRec && r.1 == b.id))
  let whole := segs = [] && rblk.isNone
  let d := mapCopy d x.cid (fun y => { y with chain := ch, segs := segs, rblk := rblk, st := if whole && y.st = 3 then 1 else y.st })
  let late := match frameOf d x.fid with
    | some f => !f.tail
    | none => false
  let d := if whole && late then mapChain d ch (fun k => { k with fixed := false }) else d
  if whole && aged t d x then dropCopy t (countCopy d 8 x) x.cid else d

/-- A block is back: every copy in it takes its part, and the block and what it held of the pool are freed. Copies
whose records a damaged line holds are discarded as SPILL_UE, all of the block's where it is the header's, and the
cell blocks that no copy is left in are freed (R240). DEDUCED, log entry 95. -/
def blockBack (t : TimeState) (d : Dev) (b : SBlock) : Dev :=
  let (bad, d) := readBlock t d b
  let d := hurtCopies t d b bad
  let d := if !b.isRec then d
    else (d.fp.copies.filter (fun x => x.queue == b.queue && x.kind ≤ 2 && x.hurtBy b bad)).foldl
      (fun d x => dropCopy t (countCopy d 10 x) x.cid) d
  let d := (d.fp.copies.filter (fun x => x.queue == b.queue && x.kind ≤ 2
              && (x.segs.any (fun s => s.1 == b.id) || (match x.rblk with | some r => r.1 == b.id | none => false)))).foldl
              (restoreCopy t b) d
  let d := setFp d { d.fp with
    chains := d.fp.chains.filter (fun k => k.id != readChain b.queue b.id)
    blocks := d.fp.blocks.filter (fun y => !(y.queue == b.queue && y.id == b.id)) }
  purgeVoids d

/-- SPILL_READ_BACK: the engine turns to the queue's oldest block (R196). An open block is copied within the cluster; the
read of a closed one whose write is still queued waits until the write has been issued, and counts in HBM_RAW (R244).
Blocks come back while the stack is DISABLING too (R250). DEDUCED, log entry 95. -/
def spillRead (t : TimeState) (d : Dev) (q : Nat) : Dev :=
  let c := queueCluster q
  let h := stackFor d c
  let reads := countIf (fun b => b.queue == q && b.st == 2) d.fp.blocks
  match findFirst (fun b => b.queue == q && b.st ≤ 1) d.fp.blocks with
  | none => d
  | some b =>
    let room := poolFree d c - poolRsv d c - tailRsv d c
    if queueCells d q < rdF d ⟨.bpm, c⟩ .bpmSpillCfg 47 32 && (b.isRec || 16 ≤ room) && reads < 4
        && (b.isOpen || 2 ≤ (blkSt d h).cur) then
      let d := if b.isRec then d
        else setFp (poolAsk t d c 61 true) { (poolAsk t d c 61 true).fp with
          chains := (poolAsk t d c 61 true).fp.chains ++ [⟨readChain q b.id, c, 0, [], 16, 1, 0, true⟩] }
      if b.isOpen then blockBack t d b
      else
        let d := if b.st = 0 then countN (spillFlush t d q) (Ev.plain .hbm 0) h.inst 0 0 0 1 else d
        countN (mapBlock d q b.id (fun b => { b with st := 2 })) (Ev.plain .hbm 3) h.inst 0 0 0 1
    else d

/-- SPILL_BLOCK_RETURN: the queue's oldest outstanding read returns (R196, R198, R240). DEDUCED, log entry 95. -/
def spillReturn (t : TimeState) (d : Dev) (q : Nat) : Dev :=
  match findFirst (fun b => b.queue == q && b.st == 2) d.fp.blocks with
  | none => d
  | some b => reapFrames (blockBack t d b)

/-- SPILL_TOKEN_REFILL: one token, up to 16 (R197). -/
def tokenRefill (d : Dev) (c : Nat) : Dev := if wrCap d c = 0 then d else setTokens d c (min 16 (tokens d c + 1))

/-- Spilled frames of a cluster are lost (R198). -/
def spillLost (t : TimeState) (d : Dev) (c : Nat) : Dev :=
  let l := d.fp.copies.filter (fun x => x.kind ≤ 2 && queueCluster x.queue == c && (x.segs ≠ [] || x.rblk.isSome))
  let d := l.foldl (fun d x => dropCopy t (countCopy d 9 x) x.cid) d
  let d := setFp d { d.fp with
    blocks := d.fp.blocks.filter (fun b => queueCluster b.queue != c)
    chains := d.fp.chains.filter (fun k => !(k.cluster == c && k.fid == 0)) }
  let d := if l = [] then d else errFault t d ⟨.bpm, c⟩ 3 21 0 0
  reapFrames (purgeVoids d)

/-- A pass of the auditor ends for the counts of a cluster that cannot be read: one whose loss an earlier pass end has
seen has had a complete pass since, and is rewritten; another is noted (Table 11.2). The note stands 2^20 words above. -/
def auditCounts (d : Dev) (c : Nat) : Dev :=
  let b : Blk := ⟨.bpm, c⟩
  let lost := badWords d b 2 (fun w => 16384 ≤ w && w < 2 ^ 20 && isUe d b 2 w)
    ++ badWords d b 3 (fun w => 2 ^ 18 ≤ w && w < 2 ^ 20 && isUe d b 3 w)
  lost.foldl (fun d x =>
    let note := x.2.2 + 2 ^ 20
    if mark d b x.2.1 note = 0 then setMark d b x.2.1 note 1
    else writeWord (setMark d b x.2.1 note 0) b x.2.1 x.2.2) d

/-- AUDIT_PASS_END: cells that no owner reached on two passes are reclaimed (R200). DEDUCED, log entry 94. -/
def auditEnd (t : TimeState) (d : Dev) (c us : Nat) : Dev :=
  let b : Blk := ⟨.bpm, c⟩
  if !isOn d b || !bit (rd d b .bpmCfg) 48 then d
  else
    let up := d.fp.leaks.map (fun x => if x.1 = c then (x.1, x.2.1, x.2.2 + 1) else x)
    let back := up.filter (fun x => x.1 == c && 2 ≤ x.2.2)
    let d := setFp d { d.fp with leaks := up.filter (fun x => !(x.1 == c && 2 ≤ x.2.2)) }
    let d := back.foldl (fun d x => setMark d b 1 x.2.1 0) d
    let n := satAdd (2 ^ 32 - 1) (rdF d b .bpmAudit 31 0) back.length
    let d := auditCounts (wr d b .bpmAudit ((us % 2 ^ 32) <<< 32 + n)) c
    back.foldl (fun d x => errFault t d b 0 6 1 x.2.1) d

end Sys2Proof.Machine
end

