-- ==== Sys2Proof/Machine/Sched.lean ====
section
/-! DEFINITION. The schedulers: heads and their eligibility, weighted fair queueing, and the choice of a
port's next copy. -/
namespace Sys2Proof.Machine

/-- Keys of finish times and virtual times: a queue, a group, a class, a band, and a port's turn. -/
def qKey (q : Nat) : Nat := q * 4
def gKey (port tc g : Nat) : Nat := ((port * 8 + tc) * 256 + g) * 4 + 1
def cKey (port tc : Nat) : Nat := (port * 8 + tc) * 4 + 2
def bKey (port band : Nat) : Nat := (port * 8 + band) * 4 + 3
def turnKey (port : Nat) : Nat := (8192 + port) * 4 + 3

/-- The record word that holds a node's times, if it is a queue's or a group's (R229). DESIGN CHOICE, log entry 162. -/
def nodeWord (k : Nat) : Option (Blk × Nat × Nat) :=
  let at' (s m w : Nat) : Option (Blk × Nat × Nat) := if s < 64 then some (⟨.sch, s⟩, m, w) else none
  match k % 4 with
  | 0 => at' (queueSlice (k / 4)) 0 (k / 4 % 16384)
  | 1 => at' (portSlice (k / 4 / 2048)) 1 (k / 4 % 32768)
  | _ => none

/-- A node's times are written with the record that holds them. -/
def nodeWrite (d : Dev) (k : Nat) : Dev :=
  match nodeWord k with
  | some x => recWrite d x.1 x.2.1 x.2.2
  | none => d

/-- The finish time of a child: stored as one more, 0 is unset (R208), with the copy it was set for (R210). -/
def finish (d : Dev) (k : Nat) : Nat := SMap.get 0 d.fp.wf k - 1
def setF (d : Dev) (k f cid : Nat) : Dev :=
  let d := nodeWrite d k
  setFp d { d.fp with wf := SMap.insert d.fp.wf k (f + 1), heads := SMap.set 0 d.fp.heads k cid }
def unsetF (d : Dev) (k : Nat) : Dev := setFp d { d.fp with wf := SMap.erase d.fp.wf k, heads := SMap.erase d.fp.heads k }
/-- A virtual time. -/
def vtime (d : Dev) (k : Nat) : Nat := SMap.get 0 d.fp.wv k
def setV (d : Dev) (k v : Nat) : Dev :=
  let d := nodeWrite d k
  setFp d { d.fp with wv := SMap.set 0 d.fp.wv k v }

/-- `units`, `inv` and `before` of R208. -/
def units (len : Nat) : Nat := ceilDiv len 64
def invW (w : Nat) : Nat := 65536 / max w 1
def before (a b : Nat) : Bool := let x := (b + 2 ^ 32 - a) % 2 ^ 32; 1 ≤ x && x < 2 ^ 31

/-- A child of a scheduling node that could be served: its key, its node's key, its weight, and its head. -/
structure Child where
  key    : Nat
  node   : Nat
  weight : Nat
  head   : Copy
  deriving DecidableEq, Repr

/-- The length of a copy's frame as the scheduler knows it. -/
def copyLen (d : Dev) (x : Copy) : Nat :=
  match frameOf d x.fid with
  | some f => f.knownLen
  | none => 0

/-- The finish time of a child stays: of a queue while the head it was set for stands there (R210). -/
def keepsF (d : Dev) (k : Nat) (c : Child) : Bool := c.key == k && (k % 4 != 0 || SMap.get 0 d.fp.heads k == c.head.cid)

/-- Children that are not eligible lose their finish times, and eligible ones without get one (R208). -/
def refreshLevel (d : Dev) (l : List Child) (mine : Nat → Bool) : Dev :=
  let stays (k : Nat) : Bool := !mine k || l.any (keepsF d k)
  let d := setFp d { d.fp with wf := d.fp.wf.filter (fun e => stays e.1), heads := d.fp.heads.filter (fun e => stays e.1) }
  l.foldl (fun d c =>
    if SMap.get 0 d.fp.wf c.key = 0 then
      setF d c.key ((vtime d c.node + units (copyLen d c.head) * invW c.weight) % 2 ^ 32) c.head.cid
    else d) d

/-- `select` of R208: the child whose finish time comes first; of equal ones the lowest index. -/
def selectChild (d : Dev) (l : List Child) : Option Child :=
  l.foldl (fun a c => match a with
    | none => some c
    | some b => if before (finish d c.key) (finish d b.key) || (finish d c.key == finish d b.key && c.key < b.key)
                then some c else some b) none

/-- The head of a queue: its first entry that is not void. -/
def headOf (d : Dev) (q : Nat) : Option Copy :=
  findFirst (fun x => x.kind ≤ 2 && x.queue == q && !x.void && (x.st == 1 || x.st == 3)) d.fp.copies

/-- The heads of a port's queues. -/
def portHeads (d : Dev) (port : Nat) : List Copy :=
  let qs := d.fp.copies.foldl (fun (l : List Nat) x =>
    if x.kind ≤ 2 && queuePort d x.queue == port && (x.st == 1 || x.st == 3) && !x.void && !l.contains x.queue
    then l ++ [x.queue] else l) []
  qs.filterMap (headOf d)

/-- FDH_SAFE of an egress port and class (Table 6.11). -/
def safeBit (d : Dev) (port tc : Nat) : Bool :=
  bit (rd d (fdhBlk (portCluster port)) .fdhSafe (port % 128 / 8)) (8 * (port % 8) + tc)

/-- `may_start` of R143 at a tick. -/
def mayStart (d : Dev) (x : Copy) (f : Frame) (g : Nat) : Bool :=
  let port := copyPort d x
  x.verified ||
    (bit (rd d (fdhBlk (portCluster port)) .fdhCfg) 2 && safeBit d port (mTc f.sect) && !f.hbm &&
      match crossings d (portCluster f.port) x.cluster with
      | none => false
      | some n =>
        let v := f.kb + 109 + 81 * n
        let lmin := if mLenSrc f.sect = 0 then mLen f.sect else 384
        v + 4 ≤ g + 45 + txClocks d port + lmin * 144 / (10 * max 1 (portGbps d port)))

/-- The copy is cut-through eligible (R186). -/
def cutOk (d : Dev) (x : Copy) (f : Frame) : Bool :=
  let port := copyPort d x
  bit (rd d ⟨.bpm, portCluster port⟩ .bpmPort (port % 128)) 0 && portGbps d port ≤ portGbps d f.port
    && x.segs == [] && x.kind != 3 && x.kind != 4 && !(progNeedsLen d x.prog && mLenSrc f.sect == 2)

/-- The copy's cells are on die, and its tail is stored or it may cut through. -/
def ready (d : Dev) (x : Copy) (f : Frame) : Bool := x.st == 1 && (f.tail || cutOk d x f)

/-- A port can be granted for: its slice is awake and SCH is ON, and its link is up. -/
def portServes (d : Dev) (port : Nat) : Bool :=
  !halted d && portWidth d port != 0 && linkUp d port && isOn d ⟨.sch, portSlice port⟩ && slcState d (portSlice port) == 0

/-- The window test for a copy. -/
def gateFor (t : TimeState) (d : Dev) (x : Copy) : GateTest :=
  gateTest t d (copyPort d x) (copyTc d x) (copyLen d x) x.gateWait

/-- The copy's gate admits it. -/
def gateOpen (t : TimeState) (d : Dev) (x : Copy) : Bool :=
  match gateFor t d x with
  | .grant _ => true
  | _ => false

/-- A verified head that is past its age limit (R199). DEDUCED, log entry 85. -/
def agedHead (t : TimeState) (d : Dev) (x : Copy) : Bool := x.verified && x.st == 1 && aged t d x

/-- A queue with this head is eligible, gates apart (R207); that its head is not aged is tested when SC selects it (R199). -/
def eligibleButGate (t : TimeState) (d : Dev) (x : Copy) : Bool :=
  match frameOf d x.fid with
  | none => false
  | some f =>
    let port := copyPort d x
    let tc := copyTc d x
    portServes d port && ready d x f && mayStart d x f t.tick && !paused t d port tc
      && shaperOk d port tc (queueGroup d x.queue) t.tick

/-- A queue with this head is eligible (R207). -/
def eligible (t : TimeState) (d : Dev) (x : Copy) : Bool := eligibleButGate t d x && gateOpen t d x

/-- The children of a port's three lower levels that heads make eligible. -/
def queueChildren (d : Dev) (port : Nat) (l : List Copy) : List Child :=
  l.map (fun x => ⟨qKey x.queue, gKey port (queueTc d x.queue) (queueGroup d x.queue), queueWeight d x.queue, x⟩)

/-- The nodes that children name. -/
def nodesOf (l : List Child) : List Nat :=
  l.foldl (fun s c => if s.contains c.node then s else s ++ [c.node]) []

/-- The group children: each node of the queues with the head that it would serve. -/
def groupChildren (d : Dev) (port : Nat) (l : List Child) : List Child :=
  (nodesOf l).filterMap (fun n => (selectChild d (l.filter (fun c => c.node == n))).map (fun c =>
    let tc := queueTc d c.head.queue
    let g := queueGroup d c.head.queue
    ⟨n, cKey port tc, fld (groupRec d port tc g) 7 0, c.head⟩))

/-- The band and the weight of a class (Table 9.4). -/
def bandOf (d : Dev) (port tc : Nat) : Nat :=
  rdF d ⟨.sch, portSlice port⟩ .schPort (3 * tc + 2) (3 * tc) (port % 16)
def classWeight (d : Dev) (port tc : Nat) : Nat :=
  rdF d ⟨.sch, portSlice port⟩ .schCwgt (8 * tc + 7) (8 * tc) (port % 16)

/-- The class children. -/
def classChildren (d : Dev) (port : Nat) (l : List Child) : List Child :=
  (nodesOf l).filterMap (fun n => (selectChild d (l.filter (fun c => c.node == n))).map (fun c =>
    let tc := queueTc d c.head.queue
    ⟨n, bKey port (bandOf d port tc), classWeight d port tc, c.head⟩))

/-- Finish times of a port follow the eligibility of its queues, groups and classes. -/
def refreshPort (t : TimeState) (d : Dev) (port : Nat) : Dev :=
  if crustState d ≠ 0 then d
  else
    let qs := queueChildren d port ((portHeads d port).filter (eligible t d))
    let d := refreshLevel d qs (fun k => k % 4 == 0 && queuePort d (k / 4) == port)
    let gs := groupChildren d port qs
    let d := refreshLevel d gs (fun k => k % 4 == 1 && k / 4 / 2048 == port)
    let cs := classChildren d port gs
    refreshLevel d cs (fun k => k % 4 == 2 && k / 4 / 8 == port)

/-- The times of a node whose record cannot be read: its finish time is unset, and its virtual time is the lowest set
finish time of its children, or 0 (Table 11.2). -/
def loseTimes (d : Dev) (k : Nat) (children : List Nat) : Dev :=
  let fs := children.filterMap (fun c => if SMap.get 0 d.fp.wf c = 0 then none else some (finish d c))
  let v := fs.foldl (fun (a : Option Nat) f => match a with
    | some b => some (if before f b then f else b)
    | none => some f) none
  setV (unsetF d k) k (v.getD 0)

/-- SC reads the records of the queues and groups that hold entries for a port, and the age limits of their heads
(R253). -/
def readNodes (t : TimeState) (d : Dev) (port : Nat) : Dev :=
  let qs := (portHeads d port).map (fun x => x.queue)
  let d := (portHeads d port).foldl (fun d x => touch t d ⟨.bpm, x.cluster⟩ 2 (3 * 4096 + ixCpc port (copyTc d x))) d
  let d := qs.foldl (fun d q =>
    let (u, d) := readWord t d ⟨.sch, queueSlice q⟩ 0 (q % 16384)
    if u then unsetF d (qKey q) else d) d
  let node (q : Nat) : Nat := gKey port (queueTc d q) (queueGroup d q)
  ((qs.map node).eraseDups).foldl (fun d k =>
    let (u, d) := readWord t d ⟨.sch, portSlice port⟩ 1 (k / 4 % 32768)
    if u then loseTimes d k ((qs.filter (fun q => node q == k)).map qKey) else d) d

/-- Ports that hold an entry or a finish time. -/
def busyPorts (d : Dev) : List Nat :=
  let add (l : List Nat) (p : Nat) : List Nat := if l.contains p then l else l ++ [p]
  let l := d.fp.copies.foldl (fun l x => if x.kind ≤ 2 && (x.st == 1 || x.st == 3) then add l (queuePort d x.queue) else l) []
  d.fp.wf.foldl (fun l e => match e.1 % 4 with
    | 0 => add l (queuePort d (e.1 / 4))
    | 1 => add l (e.1 / 4 / 2048)
    | _ => add l (e.1 / 4 / 8)) l

/-- Finish times after a command: every port's follow its present eligibility. DESIGN CHOICE, log entry 10. -/
def settleSched (t : TimeState) (d : Dev) : Dev := (busyPorts d).foldl (refreshPort t) d

/-- The class, group and queue that a port serves next: strict priority of bands, then R208. DEDUCED, log entry 87. -/
def pick (t : TimeState) (d : Dev) (port : Nat) : Option (Child × Child × Child) :=
  let qs := queueChildren d port ((portHeads d port).filter (eligible t d))
  let gs := groupChildren d port qs
  let cs := classChildren d port gs
  let band := (upto 0 8).find? (fun b => cs.any (fun c => c.node == bKey port b))
  match band with
  | none => none
  | some b =>
    match selectChild d (cs.filter (fun c => c.node == bKey port b)) with
    | none => none
    | some c => match selectChild d (gs.filter (fun g => g.node == c.key)) with
      | none => none
      | some g => match selectChild d (qs.filter (fun q => q.node == g.key)) with
        | none => none
        | some q => some (c, g, q)

/-- A grant passes through a node from a child (R208). -/
def passNode (d : Dev) (c : Child) : Dev := unsetF (setV d c.node (finish d c.key)) c.key

/-- Copies of the port's Crust queue that SC could grant. -/
def crustHead (t : TimeState) (d : Dev) (port : Nat) : Option Copy :=
  match findFirst (fun x => x.kind == 5 && x.queue == port && x.st == 1) d.fp.copies with
  | some x => match frameOf d x.fid with
    | some f => if ready d x f && !(pfcMode d port == 1 && paused t d port 0) then some x else none
    | none => none
  | none => none

/-- What SC takes in turn in Crust mode: the heads of the queues, and the Crust queue last in number (R228). -/
def crustSources (t : TimeState) (d : Dev) (port : Nat) : List (Nat × Copy) :=
  ((portHeads d port).filter (fun x => x.verified && x.st == 1 && (match frameOf d x.fid with
      | some f => ready d x f
      | none => false) && !(pfcMode d port == 1 && paused t d port (copyTc d x)))).map (fun x => (x.queue, x))
    ++ (match crustHead t d port with
        | some x => [(2 ^ 20, x)]
        | none => [])

/-- The next source after the last one served, the lowest number when none is higher. DEDUCED, log entry 87. -/
def crustPick (t : TimeState) (d : Dev) (port : Nat) : Option (Nat × Copy) :=
  let l := crustSources t d port
  let last := vtime d (turnKey port)
  let least (l : List (Nat × Copy)) : Option (Nat × Copy) :=
    l.foldl (fun a x => match a with
      | some y => if x.1 < y.1 then some x else some y
      | none => some x) none
  match least (l.filter (fun x => last ≤ x.1)) with
  | some x => some x
  | none => least l

/-- A copy that was granted for the port and whose window closes before its end holds the port (R223). -/
def overrun (d : Dev) (x : Copy) : Bool :=
  match x.grant with
  | none => false
  | some g => match g.close with
    | none => false
    | some c =>
      let len := max 64 (g.bytes.length + 4)
      c < g.tick + 45 + txClocks d (copyPort d x) + serClocks len (portGbps d (copyPort d x))

/-- SC may make another grant for the port in this clock (R206, R223, R172). DESIGN CHOICE, log entry 84. -/
def grantRoom (t : TimeState) (d : Dev) (port : Nat) : Bool :=
  let now := d.fp.grants.filter (fun x => x.2 == t.tick)
  countIf (fun x => x.1 == port) now < 2 && countIf (fun x => portSlice x.1 == portSlice port) now < 4
    && memGet d .edtMcTime (portSlice port) 8192 == 0
    && !d.fp.copies.any (fun x => x.kind != 3 && x.kind != 4 && copyPort d x == port
          && (match x.grant with | some g => !g.done && overrun d x | none => false))

/-- A head that SC selects and finds past its age is discarded: one for a port in a clock, which `grants` keeps under
a number above the ports' (R199). DEDUCED, log entry 85. -/
def ageOut (t : TimeState) (d : Dev) (port : Nat) (x : Copy) : Dev :=
  let d := setFp d { d.fp with grants := (d.fp.grants.filter (fun e => e.2 == t.tick)) ++ [(2 ^ 20 + port, t.tick)] }
  killCopy t (unsetF (countCopy d 8 x) (qKey x.queue)) x.cid

/-- The port may discard one more aged copy in this clock. DEDUCED, log entry 85. -/
def mayAge (t : TimeState) (d : Dev) (port : Nat) : Bool := !d.fp.grants.contains (2 ^ 20 + port, t.tick)

/-- What the window test says of a head that is eligible otherwise: too long, or a wait, counted once
for each window in which it does not fit. DEDUCED, log entry 89. -/
def gateHead (t : TimeState) (d : Dev) (x : Copy) : Dev :=
  if eligibleButGate t d x then
    let port := copyPort d x
    let sch (d : Dev) (ev : Nat) : Dev := countN d (Ev.plain .sch ev) (portSlice port) (ixSpc port (copyTc d x)) 0 0 1
    match gateFor t d x with
    | .long => killCopy t (unsetF (sch d 2) (qKey x.queue)) x.cid
    | .wait c => if x.gateWait = some c then d else mapCopy (sch d 1) x.cid (fun y => { y with gateWait := some c })
    | .shut => if x.gateWait.isSome then d else mapCopy d x.cid (fun y => { y with gateWait := some 0 })
    | .grant _ => d
  else d

/-- The window that opens now is shorter than what the head takes (R223). -/
def tooLong (t : TimeState) (d : Dev) (x : Copy) : Bool :=
  let port := copyPort d x
  let now := dtNum t.now
  if !(gateOf d port).enable || !bit (gatesAt d port now).1 (copyTc d x) then false
  else match windowAt d port (copyTc d x) now with
    | none => false
    | some (o, c) => match tickOf t o, tickOf t c with
      | some a, some b =>
        b - a < serClocks (copyLen d x + rdF d ⟨.sch, portSlice port⟩ .schPort 47 40 (port % 16)) (portGbps d port)
          && (a == t.tick || (x.gateWait.isSome && x.gateWait != some c))
      | _, _ => false

/-- GATE_ENTRY_CHANGE: heads that waited for a window that is too short for them are discarded as it opens (R223).
DEDUCED, log entry 89. -/
def gateOpens (t : TimeState) (d : Dev) (port : Nat) : Dev :=
  if crustState d ≠ 0 then d
  else (portHeads d port).foldl (fun d x =>
    if eligibleButGate t d x && tooLong t d x then
      killCopy t (unsetF (countN d (Ev.plain .sch 2) (portSlice port) (ixSpc port (copyTc d x)) 0 0 1) (qKey x.queue)) x.cid
    else d) d

/-- The discards and waits of a port before a grant. -/
def groom (t : TimeState) (d : Dev) (port : Nat) : Dev :=
  let d := readNodes t (purgeVoids d) port
  let d := gateRead t d port
  refreshPort t ((portHeads d port).foldl (gateHead t) d) port

/-- SC's choice for a port: the copy, the close of its window, and the state with virtual times,
finish times, shaper and turn moved on (R206 to R211, R228). DEDUCED, log entry 86. -/
def choose (t : TimeState) (d : Dev) (port : Nat) : Option (Copy × Option Nat × Dev) :=
  if !portServes d port || !grantRoom t d port then none
  else if crustState d ≠ 0 then
    (crustPick t d port).map (fun x => (x.2, none, setV d (turnKey port) (if x.1 = 2 ^ 20 then 0 else x.1 + 1)))
  else
    let normal : Option (Copy × Option Nat × Dev) := (pick t d port).map (fun x =>
      let (c, g, q) := x
      let close := match gateFor t d q.head with
        | .grant w => w
        | _ => none
      let d := passNode (passNode (passNode d q) g) c
      let tc := queueTc d q.head.queue
      let d := shaperCharge d port tc (queueGroup d q.head.queue) t.tick (copyLen d q.head)
      (q.head, close, setV d (turnKey port) 0))
    let crust : Option (Copy × Option Nat × Dev) := (crustHead t d port).map (fun x => (x, none, setV d (turnKey port) 1))
    if vtime d (turnKey port) = 0 then crust.orElse (fun _ => normal) else normal.orElse (fun _ => crust)

end Sys2Proof.Machine
end

