-- ==== Sys2Proof/Machine/Tx.lean ====
section
/-! DEFINITION. The sending side: the grant and ED, the tail of a cut-through copy, and TX. -/
namespace Sys2Proof.Machine

/-- The flags that a branch of an edit program tests (Table 7.8), but for those the program makes. -/
def edFlags (x : Copy) (f : Frame) (cut : Bool) : Nat :=
  let m (b : Nat) : Nat := metaF f.sect 2 b b
  metaF f.sect 2 56 32 + m 23 <<< 25 + m 22 <<< 26 + m 21 <<< 27 + m 20 <<< 28 + m 19 <<< 29 + m 16 <<< 30 + m 18 <<< 31
    + fld (x.image.getD 1 0) 7 0 <<< 32 + b2n (x.kind == 1) <<< 40 + b2n (x.kind == 2) <<< 41 + b2n (x.kind == 3) <<< 42
    + b2n f.replayed <<< 44 + b2n (f.tail || mLenSrc f.sect == 0) <<< 45 + b2n cut <<< 46

/-- TS_FAB (R157). -/
def tsFab (f : Frame) : Nat := (f.ts.sec * 1000000000 + f.ts.ns) % 2 ^ 32

/-- What ED knows of a copy (Tables 7.2, 7.8). -/
def edCtx (d : Dev) (x : Copy) (f : Frame) : EdCtx :=
  let ver := if f.ready then f.version else epochVersion d (mEpoch f.sect)
  let w16 := rdF d ⟨.edt, copySlice x⟩ .edtCfg 49 32 <<< 46 + copyPort d x <<< 36
  let h := min 384 (f.len - 4)
  ⟨f.sect, edMeta f.sect x.image w16 (tsFab f <<< 32 + ver), edFlags x f (!f.tail), f.knownLen - 4 - h, none⟩

/-- The cell data and link words of a copy's chain as its reader meets them: whether a data word, and
whether a link word, is uncorrectable (R187, R191). -/
def readCells (t : TimeState) (d : Dev) (x : Copy) (len : Nat) : Bool × Bool × Dev :=
  match chainOf d x.chain with
  | none => (false, false, d)
  | some k =>
    let b : Blk := ⟨.bpm, k.cluster⟩
    let word (m : Nat) (e : Option Nat) (s : Bool × Dev) (w : Nat) : Bool × Dev :=
      if mark s.2 b m w = 0 then s else let (u, d) := readWord t s.2 b m w e; (s.1 || u, d)
    let cells := k.cells.zip (upto 0 k.cells.length)
    let (u, d) := cells.foldl (fun s c =>
      (upto (c.1 * 32) (min 32 (ceilDiv (len - 256 * c.2) 8))).foldl (word 0 (some 1)) s) (false, d)
    let (l, d) := k.cells.foldl (word 1 none) (false, d)
    (u, l, d)

/-- EDT events of a copy: counted, or kept until it is verified (R175). -/
def edEvents (d : Dev) (x : Copy) (l : List Nat) : Dev :=
  if x.verified then l.foldl (fun d e => countEdt d x e) d
  else mapCopy d x.cid (fun y => { y with grant := y.grant.map (fun g => { g with owed := g.owed ++ l }) })

/-- A copy that was granted ends at ED: discarded, or kept for its verdict. DEDUCED, log entry 83. -/
def edDiscard (t : TimeState) (d : Dev) (x : Copy) (l : List Nat) : Dev :=
  let d := edEvents d x l
  if x.verified then killCopy t d x.cid
  else mapCopy d x.cid (fun y => { y with grant := y.grant.map (fun g => { g with drop := true }) })

/-- A parity error of a slice's edit store is counted and recorded in PROT_LAST, its quarter in BIT (Table 11.6). -/
def storeError (d : Dev) (s word quarters : Nat) : Dev :=
  let b : Blk := ⟨.edt, s⟩
  let c := preg d b 0 .cnt
  let d := setPreg d b 0 .cnt (putFld c 31 0 (satAdd (2 ^ 32 - 1) (fld c 31 0) 1))
  let w := 4 * word + lowBit quarters
  let j := preg d b 0 .inj
  let hit := bit j 63 && fld j 31 0 / 4 == word && !bit j 40
  let d := if hit then setPreg d b 0 .inj (putFld j 40 40 1) else d
  setPreg d b 0 .last (2 ^ 63 + b2n hit <<< 61 + lowBit quarters <<< 32 + w)

/-- The machine check of a slice: EDT_MC_LOG, the reload that waits, and frames cut on their way to TX
(R172). The memory holds, for each word, one more than the tick of its last check; then the reload's
word, the tick of the check, and whether it is a repeat within the L1 window. DEDUCED, log entry 119. -/
def machineCheck (t : TimeState) (d : Dev) (s word quarters : Nat) : Dev :=
  let b : Blk := ⟨.edt, s⟩
  let v := rd d b .edtMcLog
  let n := satAdd 0xFFFF (fld v 47 32) 1
  let d := wr d b .edtMcLog (2 ^ 63 + n <<< 32 + quarters <<< 28 + word)
  let last := memGet d .edtMcTime s word
  let win := max 1000 (rdF d (devBlk .flt) .fltWin 31 0) * 1800
  let d := memSet d .edtMcTime s 8194 (b2n (last ≠ 0 && t.tick + 1 ≤ last + win))
  let d := memSet (memSet (memSet d .edtMcTime s word (t.tick + 1)) .edtMcTime s 8192 (word + 1)) .edtMcTime s 8193 t.tick
  let d := storeError d s word quarters
  setFp d { d.fp with copies := mapIf (fun x => x.kind != 3 && x.kind != 4 && copySlice x == s)
                                  (fun x => { x with grant := x.grant.map (fun g => if !g.done && g.tick + 45 ≤ t.tick then { g with stomp := true } else g) })
                                  d.fp.copies }

/-- ED edits a copy that SC has granted (R160 to R165, R172, R174). -/
def editCopy (t : TimeState) (d : Dev) (x : Copy) (f : Frame) : Dev :=
  let s := copySlice x
  let b : Blk := ⟨.edt, s⟩
  if !isOn d b && x.prog ≠ 0 then edDiscard t d x [6]
  else
    let e := editFrame d s x.prog (edCtx d x f) (f.bytes.take (f.len - 4)) 384
    let put (d : Dev) : Dev := mapCopy d x.cid (fun y => { y with grant := y.grant.map (fun g => { g with
        bytes := e.bytes
        lenfix := e.lenfix
        ptp := if metaF f.sect 2 20 20 = 1 && !e.ptpGone && x.kind ≠ 5 then some e.ptpAt else none }) })
    match e.how with
    | .drop => edDiscard t d x [0]
    | .steps => edDiscard t d x [2]
    | .check w q => machineCheck t (edDiscard t d x [5]) s w q
    | .done =>
      let ran := if x.prog = 0 then [] else [8]
      if e.skipped && bit (rd d b .edtCfg) 0 then edDiscard t d x (ran ++ [1])
      else if (f.tail || mLenSrc f.sect == 0) && portMtu d (copyPort d x) < e.bytes.length + 4 then
        edDiscard t d x (ran ++ [3])
      else edEvents (put d) x ran

/-- A grant for a copy: it leaves its queue, its cells are read, and ED edits it (R186, R187, R191). DESIGN CHOICE, log
entry 84. -/
def grantCopy (t : TimeState) (d : Dev) (cid : Nat) (close : Option Nat) : Dev :=
  match copyOf d cid with
  | none => d
  | some x =>
    match frameOf d x.fid with
    | none => d
    | some f =>
      let port := copyPort d x
      let d := countN d (Ev.plain .sch 0) (portSlice port) (ixSpc port (copyTc d x)) 0 0 1
      let ets := addPs (timeAt t (t.tick + 45 + txClocks d port)) (rdF d ⟨.mac, port⟩ .macTsAdj 47 32)
      let g : Grant := ⟨t.tick, !f.tail, [], none, false, false, false, [], ets, close, false⟩
      let d := setFp d { d.fp with grants := (d.fp.grants.filter (fun e => e.2 == t.tick)) ++ [(port, t.tick)] }
      let d := mapCopy d cid (fun y => { y with st := 2, grant := some g })
      if f.tail && f.bad then killCopy t d cid
      else if x.hurt then killCopy t (countCopy d 10 x) cid
      else
        let (ue, link, d) := readCells t d x f.len
        if ue then killCopy t (countCopy d 11 x) cid
        else if link then killCopy t d cid
        else editCopy t d x f

/-- SC_GRANT: SC discards what can never fit, selects, discards the copy it selects if that is past its age, and grants
one for the port (R199, R206, R223). TX has room for it whenever the command comes. DEDUCED, log entries 83 and 86.
DESIGN CHOICE, log entry 158. -/
def scGrant (t : TimeState) (d : Dev) (port : Nat) : Dev :=
  let s := portSlice port
  if !isOn d ⟨.sch, s⟩ || slcState d s ≠ 0 then d
  else
    let look (d : Dev) : Dev := if crustState d = 0 then groom t d port else purgeVoids d
    let d := look d
    match choose t d port with
    | none => d
    | some (x, close, e) =>
      if x.kind ≤ 2 && agedHead t d x then
        if !mayAge t d port then d
        else
          let d := look (ageOut t d port x)
          match choose t d port with
          | none => d
          | some (y, close, e) => if y.kind ≤ 2 && agedHead t d y then d else settleFrame (grantCopy t e y.cid close) y.fid
      else settleFrame (grantCopy t e x.cid close) x.fid

/-- What the tail of a frame tells of a copy that was granted before it (R165, R187): the causes that
stomp it, or discard it while its first byte has not left. DEDUCED, log entry 83. -/
def tailCopy (t : TimeState) (f : Frame) (d : Dev) (x : Copy) : Dev :=
  match x.grant with
  | none => d
  | some g =>
    let (ue, link, d) := readCells t d x f.len
    let mtu := portMtu d (copyPort d x) < g.bytes.length + 4
    let len := g.lenfix && mLenSrc f.sect == 1 && mLen f.sect != f.len
    let d := if ue then countCopy d 11 x else d
    let d := edEvents d x ((if mtu then [3] else []) ++ (if len then [4] else []))
    if f.bad || ue || link || mtu || len then
      if begun t d x g then
        mapCopy d x.cid (fun y => { y with grant := y.grant.map (fun g => { g with stomp := true }) })
      else if x.verified || f.bad || ue || link then dropCopy t d x.cid
      else mapCopy d x.cid (fun y => { y with grant := y.grant.map (fun g => { g with drop := true }) })
    else d

/-- FRAME_TAIL, with the copies that left before it. -/
def tailArrival (t : TimeState) (d : Dev) (fid : Nat) (fcsGood fecGood : Bool) : Dev :=
  let late := match frameOf d fid with
    | some f => !f.tail
    | none => false
  let d := frameTail t d fid fcsGood fecGood
  match frameOf d fid with
  | none => d
  | some f =>
    if late && f.tail then
      settleFrame ((d.fp.copies.filter (fun x => x.fid == fid && (match x.grant with
        | some g => g.cut && !g.done && !g.drop
        | none => false))).foldl (tailCopy t f) d) fid
    else d

/-- The UDP checksum at `c` of a frame, updated for the 16-bit words that changed from `old` (R396). PRESUMED, log entry
37. -/
def fixUdp (old new : List Byte) (c : Nat) (words : List Nat) : List Byte :=
  if u16 old c = 0 then new
  else
    let s := words.foldl (fun s p => fold16 (s + (65535 - u16 old p) + u16 new p)) 0
    let v := 65535 - fold16 (65535 - u16 old c + s)
    overwrite new c (toBe 2 (if v = 0 then 65535 else v))

/-- One-step treatment of an event message at `p` (R396). -/
def oneStep (x : Copy) (f : Frame) (g : Grant) (tc : Bool) (l : List Byte) (p : Nat) : List Byte :=
  let e := numDt g.ets
  let isSync := fld (beNat (bytesAt l p 1)) 3 0 == 0 && !bit (beNat (bytesAt l (p + 6) 1)) 1
  let a := if isSync then overwrite l (p + 34) (toBe 6 e.sec ++ toBe 4 e.ns) else l
  let diff : Int := ((g.ets : Int) - (dtNum f.ts : Int)) / (2 ^ 16 : Int)
  let corr := (((beNat (bytesAt l (p + 8) 8) : Nat) : Int) + diff) % (2 ^ 64 : Int)
  let b := if tc then overwrite a (p + 8) (toBe 8 corr.toNat) else a
  if metaF f.sect 2 42 42 = 1 && x.kind ≠ 5 then
    fixUdp l b (p - 2) ((upto 0 4).map (fun k => p + 8 + 2 * k) ++ (upto 0 5).map (fun k => p + 34 + 2 * k))
  else b

/-- Records of a port's two-step FIFO. -/
def txtsOf (d : Dev) (port : Nat) : List (List Nat) := (d.fp.txts.filter (fun e => e.1 == port)).map (fun e => e.2)

/-- A two-step record is pushed, or dropped by a full FIFO, which marks the next record read (R396). -/
def pushTxts (d : Dev) (port : Nat) (g : Grant) (l : List Byte) (p : Nat) : Dev :=
  let e := numDt g.ets
  let a := 2 ^ 63 + fld (beNat (bytesAt l p 1)) 3 0 <<< 56 + u16 l (p + 30) <<< 40 + beNat (bytesAt l (p + 4) 1) <<< 32 + e.sec % 2 ^ 32
  if (txtsOf d port).length < 64 then setFp d { d.fp with txts := d.fp.txts ++ [(port, [a, e.ns])] }
  else
    let rec mark' : List (Nat × List Nat) → List (Nat × List Nat)
      | [] => []
      | x :: r => if x.1 = port then (x.1, x.2.set 0 (putFld (x.2.getD 0 0) 62 62 1)) :: r else x :: mark' r
    setFp d { d.fp with txts := mark' d.fp.txts }

/-- A frame leaves a port: padded unless stomped, with its FCS good or inverted (R165, R187). Nothing leaves a
port whose link has gone, or a device that has stopped. DEDUCED, log entry 91. -/
def emit (d : Dev) (x : Copy) (f : Frame) (g : Grant) (stomp : Bool) : Dev :=
  let port := copyPort d x
  if halted d || !linkUp d port then d else
  let mode := rdF d ⟨.mac, port⟩ .macCfg 51 50
  let mac (d : Dev) (ev n : Nat) : Dev := countN d (Ev.plain .mac ev) port 0 0 0 n
  let body := match g.ptp with
    | some p => if mode = 2 then oneStep x f g (bit (rd d ⟨.mac, port⟩ .macCfg) 49) g.bytes p else g.bytes
    | none => g.bytes
  let d := match g.ptp with
    | some p => if mode = 1 && !stomp then pushTxts d port g body p else d
    | none => d
  let pad := if stomp then 0 else 60 - body.length
  let d := if pad ≠ 0 then countEdt d x 7 else d
  let body := body ++ List.replicate pad 0
  let fcs := if stomp then toLe 4 ((crc32 body).xor 0xFFFFFFFF) else fcsBytes body
  let d := send d (.frame port (body ++ fcs) (if stomp then .stomped else .good))
  let d := mac (mac d 9 1) 10 (body.length + 4)
  if stomp then mac d 11 1 else d

/-- TX_FRAME_END: the last byte of a granted copy leaves (R144, R187, R223). DEDUCED, log entry 91. -/
def txFrameEnd (t : TimeState) (d : Dev) (cid : Nat) : Dev :=
  match copyOf d cid with
  | none => d
  | some x =>
    match x.grant, frameOf d x.fid with
    | some g, some f =>
      if x.st ≠ 2 || g.done || g.drop || !f.tail || !begun t d x g then d
      else
        let port := copyPort d x
        let undone := x.refAt.isNone && x.kind ≠ 5
        let late := !x.verified && !undone
        let d := emit d x f g (g.stomp || f.bad || !x.verified)
        let d := if overrun d x then
            countN (errFault t d ⟨.sch, portSlice port⟩ 2 20 0 0) (Ev.plain .sch 3) (portSlice port) (ixSpc port (copyTc d x)) 0 0 1
          else d
        if late then
          let c := portCluster f.port
          let d := countFdh (errFault t d (fdhBlk c) 2 19 0 0) 9 c (mPart f.sect) 1
          let d := match x.refAt with
            | some s => dropRef t d s x.prog
            | none => d
          mapCopy d cid (fun y => { y with refAt := none, grant := some { g with done := true } })
        else settleFrame (dropCopy t d cid) x.fid
    | _, _ => d

/-- The header of a Spore record (Table 8.4). -/
def sporeHeader (x : Copy) (f : Frame) (seq smp captured : Nat) : List Nat :=
  [mPart f.sect <<< 52 + smp <<< 46 + portCluster f.port <<< 43 + f.port <<< 33 + f.len <<< 19 + captured <<< 9
     + mTc f.sect <<< 6 + mColour f.sect <<< 4 + b2n f.fcsBad <<< 3,
   f.ts.ns <<< 32 + f.ts.sec % 2 ^ 32,
   imQueue x.image <<< 44 + imProg x.image <<< 32 + f.version % 2 ^ 32,
   mFlowHash f.sect <<< 32 + seq]

/-- A record of bytes is written to a Spore ring of a partition; false when the ring cannot take it (R372). -/
def sporeTo (d : Dev) (p r : Nat) (bytes : List Byte) : Dev × Bool :=
  let x := ring d .spore p r
  let n := ceilDiv bytes.length 64
  if x.live && idxDiff x.tail x.head + n ≤ 2 ^ x.log2 then
    let all := bytes ++ List.replicate (n * 64 - bytes.length) 0
    let at' := x.tail % 2 ^ x.log2
    let first := min n (2 ^ x.log2 - at')
    let d := send d (.dmaBytes p (dmaPasid d p) (x.base + 64 * at') (all.take (64 * first)))
    let d := if first = n then d else send d (.dmaBytes p (dmaPasid d p) x.base (all.drop (64 * first)))
    let tail := (x.tail + n) % 2 ^ 32
    let d := setRing d .spore p r { x with tail := tail }
    let d := if bit x.tailWb 0 then dmaWords d p (x.tailWb / 8 * 8) [tail] else d
    (ringCounted d .spore p r, true)
  else (d, false)

/-- A held copy of the frame is written to its Spore ring, or dropped and counted, and its cells are
released. -/
def deliver (t : TimeState) (d : Dev) (x : Copy) (f : Frame) (bytes : List Byte) (captured : Nat) : Dev :=
  let (ue, link, d) := readCells t d x f.len
  let head := sporeHeader x f (x.info.getD 0 0) (x.info.getD 1 0) captured
  if ue || link then killCopy t (if ue then countN d (Ev.partOnly .bpm 11 35) x.cluster 0 x.cluster x.part 1 else d) x.cid
  else
    let (d, ok) := sporeTo d x.part (x.info.getD 2 0) (wordBytes head ++ bytes)
    killCopy t (if ok then d else countCopy d 0 x) x.cid

/-- SPORE_DELIVERY: the hub writes a Spore once its frame's tail is stored (R202). DEDUCED, log entry 93. -/
def sporeDelivery (t : TimeState) (d : Dev) (cid : Nat) : Dev :=
  match copyOf d cid with
  | none => d
  | some x => match frameOf d x.fid with
    | none => d
    | some f =>
      if x.kind ≠ 4 || !f.tail then d
      else
        let n := min (64 * (x.info.getD 3 0 + 1)) f.len
        deliver t d x f (f.bytes.take n) n

/-- HOST_COPY_DELIVERY: the DMA engine serves the oldest copy of a partition's host FIFO, as PART_HOST stands then (R287,
R288, R372). DEDUCED, log entry 93. -/
def hostDelivery (t : TimeState) (d : Dev) (p c : Nat) : Dev :=
  match findFirst (fun x => x.kind == 3 && x.part == p && x.cluster == c) d.fp.copies with
  | none => d
  | some x => match frameOf d x.fid with
    | none => d
    | some f =>
      let h := (part d p).host
      if !f.tail then d
      else if bit h 4 then deliver t d { x with info := x.info.set 2 (fld h 3 0) } f f.bytes 0
      else killCopy t (countCopy d 0 x) x.cid

/-- TXTS_POP: a 64-bit read of MAC_TXTS_A pops a record and latches its NS (R396). DEDUCED, log entry 16. -/
def popTxts (d : Dev) (port : Nat) : Nat × Dev :=
  match findFirst (fun e => e.1 == port) d.fp.txts with
  | none => (0, d)
  | some e =>
    let d := setFp d { d.fp with txts := eraseFirst (fun e => e.1 == port) d.fp.txts }
    (e.2.getD 0 0, wr d ⟨.mac, port⟩ .macTxtsB (e.2.getD 1 0))

end Sys2Proof.Machine
end

