-- ==== Sys2Proof/Machine/Flush.lean ====
section
/-! DEFINITION. What faults, resets and power states take off the frame path, and the commands of gates
and pauses. -/
namespace Sys2Proof.Machine

/-- A frame before VE is undone and not replayed, with what its launch or its squash left (R147). -/
def undoFrame (t : TimeState) (d : Dev) (fid : Nat) : Dev :=
  match frameOf d fid with
  | none => d
  | some f =>
    let d := if f.launch ≠ 0 || f.verdict ≠ 0 then applyVerdict t d fid 3 else d
    let d := match (frameOf d fid).bind (fun f => f.chain) with
      | some k => releaseChain (mapFrame d fid (fun f => { f with chain := none })) k
      | none => d
    settleFrame (mapFrame (dropFrame t d fid) fid (fun f => { f with launch := 0, rob := false })) fid

/-- Frames between KB and VE. -/
def beforeVe (d : Dev) : List Frame := d.fp.frames.filter (fun f => f.stage == 1 && !f.gone)

/-- FLOW lookups whose frame is gone are forgotten, and reorder buffers go on. -/
def settleUndo (t : TimeState) (d : Dev) (l : List Frame) : Dev :=
  let d := setFp d { d.fp with flow := d.fp.flow.filter (fun x => match frameOf d x.2 with
    | some f => !f.gone
    | none => false) }
  l.foldl (fun d f => goOn t d f) d

/-- Crust entry: every frame between PR and VE is undone and counted as CRUST_FLUSH, and the cache is
invalidated (R147, Table 12.5). -/
def crustUndo (t : TimeState) (d : Dev) : Dev :=
  let l := beforeVe d
  let d := l.foldl (fun d f => undoFrame t (countSlc d f evCrustFlush) f.fid) d
  predDrop (settleUndo t d l) (fun _ _ => true)

/-- A partition's frames before VE are undone, and its prediction entries go in every cluster (Table 13.5). -/
def partUndo (t : TimeState) (d : Dev) (p : Nat) : Dev :=
  let l := (beforeVe d).filter (fun f => mPart f.sect == p)
  let d := l.foldl (fun d f => undoFrame t d f.fid) d
  predDrop (settleUndo t d l) (fun _ e => e.part == p)

/-- The first byte of a granted copy has reached TX. -/
def started (t : TimeState) (d : Dev) (x : Copy) : Bool :=
  match x.grant with
  | some g => begun t d x g
  | none => false

/-- Copies that a rule discards, each counted first; what they leave behind is settled. -/
def dropCopies (t : TimeState) (d : Dev) (sel : Copy → Bool) (note : Dev → Copy → Dev) : Dev :=
  let l := d.fp.copies.filter sel
  let d := l.foldl (fun d x => dropCopy t (note d x) x.cid) d
  l.foldl (fun d x => settleFrame d x.fid) (endXfers d)

/-- Counts RESET_FLUSH for a copy. -/
def countFlush (d : Dev) (x : Copy) : Dev :=
  if x.kind = 3 || x.kind = 4 then countN d (Ev.partOnly .bpm 12 36) x.cluster 0 x.cluster x.part 1
  else countCopy d 12 x

/-- The flush of a partition's queued work: copies in its queues, spilled ones too, but for those whose
first byte has reached TX; void entries go uncounted (Tables 13.5, 13.6). -/
def partFlush (t : TimeState) (d : Dev) (p : Nat) : Dev :=
  dropCopies t d (fun x => x.kind ≤ 2 && queueOwner d x.queue == p && !started t d x)
    (fun d x => if x.void then d else countFlush d x)

/-- Its host copies and Spores. -/
def partHeld (t : TimeState) (d : Dev) (p : Nat) : Dev :=
  dropCopies t d (fun x => (x.kind == 3 || x.kind == 4) && x.part == p) countFlush

/-- Work of a partition on the frame path (R294). -/
def partWork (d : Dev) (p : Nat) : Bool :=
  d.fp.frames.any (fun f => mPart f.sect == p && !f.gone && (f.stage == 1 || f.adm != 0 || f.rob || f.verdict != 0))
    || d.fp.repls.any (fun r => match frameOf d r.fid with
        | some f => mPart f.sect == p
        | none => false)
    || d.fp.copies.any (fun x => (x.kind ≤ 2 && queueOwner d x.queue == p) || ((x.kind == 3 || x.kind == 4) && x.part == p))

/-- A transfer is abandoned: its copy, or the replications that wait for its chain (R23, Table 12.4). -/
def killXfer (t : TimeState) (d : Dev) (x : Xfer) : Dev :=
  let d : Dev := match x.cid.bind (copyOf d) with
    | some y =>
      if started t d y then
        let kept := ((chainOf d y.chain).map (fun k => k.cells.length)).getD 0
        let cut (g : Grant) : Grant := { g with stomp := true, bytes := zeroTail g.bytes (g.bytes.length - 256 * kept) }
        mapCopy d y.cid (fun y => { y with grant := y.grant.map cut })
      else dropCopy t d y.cid
    | none => d
  let mine := d.fp.repls.filter (fun r => r.xfer == some x.id)
  let d := mine.foldl (fun d r => if r.chain ≠ 0 then releaseChain d r.chain else d) d
  let d := match x.old with
    | some k => releaseChain d k
    | none => d
  let d := setFp d { d.fp with
    repls := d.fp.repls.filter (fun r => r.xfer != some x.id)
    xfers := mapIf (fun y => y.id == x.id) (fun y => { y with dead := true, held := 0, cid := none, old := none }) d.fp.xfers }
  settleFrame (endXfers d) x.fid

/-- Waiting transfers that a rule abandons, each counted first. -/
def killXfers (t : TimeState) (d : Dev) (sel : Xfer → Bool) (note : Dev → Xfer → Dev) : Dev :=
  (d.fp.xfers.filter (fun x => !x.dead && sel x)).foldl (fun d x => killXfer t (note d x) x) d

/-- A pair of clusters may have lost its path: its waiting frames are discarded as D2D_NO_PATH (R23). -/
def dropNoPath (t : TimeState) (d : Dev) : Dev :=
  killXfers t d (fun x => x.src / 8 != x.dst / 8 && (crossings d (x.src / 8) (x.dst / 8)).isNone && x.held != 0)
    (fun d x => match frameOf d x.fid with
      | some f => countRefuse d f 0 (mPart f.sect) .noPath
      | none => d)

/-- A slice is fenced: copies in its queues, its virtual output queues and its transfer buffer are
discarded, counted as FENCED for their egress port (Table 12.4). -/
def sliceFlush (t : TimeState) (d : Dev) (s : Nat) : Dev :=
  let note (d : Dev) (x : Copy) : Dev :=
    if x.void then d else countN d evFenced (copySlice x) (copyPort d x % 16) x.cluster x.part 1
  let d := killXfers t d (fun x => x.src == s && x.held != 0)
    (fun d x => match x.cid.bind (copyOf d) with
      | some y => note d y
      | none => d)
  dropCopies t d (fun x => x.kind != 3 && x.kind != 4 && copySlice x == s) note

/-- Spilled frames of every cluster that a stack serves are lost (R198). -/
def stackLost (t : TimeState) (d : Dev) (h : Nat) : Dev :=
  ((upto 0 8).filter (fun c => stackFor d c == ⟨.hbm, h⟩)).foldl (spillLost t) d

/-- The HBM blocks of the device (R3). -/
def hbmStacks (d : Dev) : List Nat := (upto 0 8).filter (fun c => stackFor d c == ⟨.hbm, c⟩)

/-- GATE_LIST_TAKEOVER: at its tick the pending list is in force (R221). -/
def gateTakeover (t : TimeState) (d : Dev) (port : Nat) : Dev :=
  match takeoverAt d port with
  | some y =>
    if y ≤ dtNum t.now then setGate d port { gateOf d port with oper := 1 - (gateOf d port).oper, pend := none } else d
  | none => d

/-- A gate list may be put into force (R221). DEDUCED, log entry 23. -/
def listOk (d : Dev) (port l : Nat) : Bool :=
  let g := gateList d port l
  1 ≤ g.len && g.len ≤ 256 && 1000 ≤ g.cycle && g.cycle ≤ 1000000000
    && (upto 0 g.len).all (fun i => fld (gateEntry d port l i) 29 0 != 0)

/-- A write of SCH_GATE_CTRL for a port: GO and ENABLE; none is NOT_PERMITTED (R221). DEDUCED, log entries 23 and 28. -/
def gateCtrl (t : TimeState) (d : Dev) (port w : Nat) : Dev × Bool :=
  let g := gateOf d port
  let d := setGate d port { g with enable := bit w 0 }
  if !bit w 63 then (d, true)
  else if g.pend.isSome then (d, false)
  else if !listOk d port (1 - g.oper) then (errFault t d ⟨.sch, portSlice port⟩ 0 20 0 0, false)
  else (setGate d port { gateOf d port with pend := some (dtNum t.now + instant 0 1000) }, true)

/-- GATE_WAKE: a dozing slice wakes ahead of a window of a port that it holds an entry for (R224). -/
def gateWake (d : Dev) (port : Nat) : Dev :=
  let s := portSlice port
  if bit (rd d ⟨.sch, s⟩ .schPort (port % 16)) 32
      && d.fp.copies.any (fun x => x.kind != 3 && x.kind != 4 && copyPort d x == port && (x.st == 1 || x.st == 3))
  then wakeSlice d s 4 else d

end Sys2Proof.Machine
end

