-- ==== Sys2Proof/Machine/Load.lean ====
section
/-! DEFINITION. Edit programs: the loader's checks, loading and retiring, references, machine-check
reloads, and the golden copy. -/
namespace Sys2Proof.Machine

/-- The set bits of a mask stand together (R171). -/
def contiguous (m : Nat) : Bool :=
  let h := m >>> lowBit m
  h.land (h + 1) == 0

/-- A microword passes the loader's checks that concern it alone (Tables 7.4 to 7.6, R171). -/
def microOk (mw : Nat) : Bool :=
  let op := fld mw 255 252
  let src := fld mw 107 105
  let n := fld mw 114 108
  let soff := fld mw 100 92
  let arg := fld mw 91 87
  op < 8 && fld mw 251 249 < 7 && fld mw 229 227 < 4 && fld mw 210 192 == 0 && fld mw 83 64 == 0 && src ≤ 4
    && (!(op == 1 || op == 2) || (1 ≤ n && n ≤ 64))
    && (!(op == 4 || op == 7) || (1 ≤ n && n ≤ 4))
    && (op != 1 || arg ≤ 1) && (op != 5 || arg ≤ 3) && (op != 6 || arg ≤ 2)
    && (!(op == 2 || op == 3) || fld mw 127 124 < 8) && (op != 3 || fld mw 104 101 < 8)
    && (op != 4 || contiguous (fld mw 31 0))
    && (!(op == 1 || op == 2 || op == 7) || ((src != 1 || soff + n ≤ 56) && (src != 2 || soff + n ≤ 144)))
    && (fld mw 251 249 != 4 || !bit mw 226 || fld mw 221 213 + fld mw 212 211 + 1 ≤ 144)

/-- The positions of a program's microwords, or the position of the one whose data words run past its
end (R163). The number bounds the walk. -/
def microPlaces (ws : List Nat) : Nat → Nat → Except Nat (List Nat)
  | 0, _ => .ok []
  | k + 1, a =>
    if ws.length ≤ a then .ok []
    else
      let n := dataWords (ws.getD a 0)
      if ws.length < a + 1 + n then .error a
      else match microPlaces ws k (a + 1 + n) with
        | .ok l => .ok (a :: l)
        | e => e

/-- The first word of a program that the loader refuses (R171). -/
def badMicro (ws : List Nat) : Option Nat :=
  match microPlaces ws ws.length 0 with
  | .error a => some a
  | .ok l => findFirst (fun a =>
      let mw := ws.getD a 0
      let seq := fld mw 251 249
      !microOk mw || (1 ≤ seq && seq ≤ 4 && !l.contains (fld mw 248 236))) l

/-- Two ranges of words overlap. -/
def overlap (a n b m : Nat) : Bool := a < b + m && b < a + n

/-- Programs that are not FREE, with their ranges. -/
def usedRanges (d : Dev) : List (Nat × Nat × Nat) :=
  (d.mem.filter (fun e => memKey .edtProg 0 0 ≤ e.1 && e.1 < memKey .edtProg 0 4096 && fld e.2 63 62 != 0)).map
    (fun e => (e.1 - memKey .edtProg 0 0, fld e.2 12 0, fld e.2 45 32))

/-- The first check that a load fails, program by program: EDIT_STATUS, BAD_WORD and PROG (R171, Table 7.12). DEDUCED,
log entries 33 and 41. -/
def loadCheck : List ProgImage → List (Nat × Nat × Nat) → Option (Nat × Nat × Nat)
  | [], _ => none
  | x :: l, used =>
    let n := x.words.length
    if n = 0 then some (5, 0, x.prog)
    else if x.prog = 0 || used.any (fun u => u.1 == x.prog) then some (2, 0, x.prog)
    else if 8192 < x.start + n || used.any (fun u => overlap x.start n u.2.1 u.2.2) then some (3, 0, x.prog)
    else match badMicro x.words with
      | some w => some (4, w, x.prog)
      | none => loadCheck l ((x.prog, x.start, n) :: used)

/-- The program's directory entry in a state (Table 7.16). -/
def progWord (x : ProgImage) (st : Nat) : Nat :=
  let needs := match microPlaces x.words x.words.length 0 with
    | .ok l => l.any (fun a => fld (x.words.getD a 0) 255 252 == 6)
    | .error _ => false
  st <<< 62 + b2n needs <<< 61 + x.words.length <<< 32 + x.start

/-- The records of a decrypted payload after its header: an 8-byte record, then the words of the program, each quarter
little-endian, Q0 first; none when the bytes end before the last record does (R170). -/
def payloadRecords : Nat → List Byte → Option (List ProgImage)
  | 0, _ => some []
  | k + 1, l =>
    let r := leNat (l.take 8)
    let n := fld r 29 16
    let rest := l.drop 8
    if l.length < 8 + 32 * n then none
    else (payloadRecords k (rest.drop (32 * n))).map (fun p =>
      ⟨fld r 63 52, fld r 44 32, (upto 0 n).map (fun i => leNat (bytesAt rest (32 * i) 32))⟩ :: p)

/-- The programs of a decrypted payload: its header gives their number (R170). DESIGN CHOICE, log entry 159. -/
def payloadProgs (l : List Byte) : Option (List ProgImage) :=
  if l.length < 8 then none else payloadRecords (fld (leNat (l.take 8)) 15 0) (l.drop 8)

/-- One word is written into the golden copy and every slice's store; a flip armed on a slice's store
is taken (R170, R176). -/
def writeStore (d : Dev) (w v : Nat) : Dev :=
  let d := setMark d (devBlk .dev) 0 w 0
  (upto 0 64).foldl (fun d s =>
    let b : Blk := ⟨.edt, s⟩
    match armedPage d b 0 with
    | none => memSet d .edtBad s w 0
    | some pg =>
      let c := rdAt d b pg .errFlipC 0
      let d := memSet d .edtBad s w (fld c 3 0 <<< 64 + rdAt d b pg .errFlipD 0)
      setPreg (wrAt d b pg .errFlipC 0 (putFld c 31 31 0)) b 0 .inj (2 ^ 63 + 4 * w))
    (memSet d .edtStore 0 w v)

/-- A program's directory entry is written into the golden copy and every slice's mirror (R158, R170). -/
def putProg (d : Dev) (p v : Nat) : Dev :=
  memSet ((upto 0 64).foldl (fun d s => writeWord d ⟨.edt, s⟩ 1 p) d) .edtProg 0 p v

/-- The programs of an image are written, and enter a state (Table 7.3). DEDUCED, log entry 62. -/
def storeProgs (d : Dev) (l : List ProgImage) (st : Nat) : Dev :=
  l.foldl (fun d x =>
    let d := (x.words.zip (upto x.start x.words.length)).foldl (fun d w => writeStore d w.2 w.1) d
    putProg d x.prog (progWord x st)) d

/-- Completion word 1 of EDIT_LOAD and EDIT_RETIRE (Table 7.12). -/
def editWord (st bad prog : Nat) : Nat := st <<< 60 + bad <<< 44 + prog

/-- A load is in progress: some program is LOADING. -/
def loading (d : Dev) : Bool := (usedRanges d).any (fun u => progState d u.1 == 3)

/-- EDIT_LOAD (R170, R171): nothing while another load runs. DEDUCED, log entry 41. DESIGN CHOICE, log entries 42 and
159. -/
def editLoad (d : Dev) (p r : Nat) (env : EnvResult) (payload : List Byte) : Dev :=
  match nextOp d p r 0x28 with
  | none => d
  | some c =>
    if loading d then d
    else
      let fail (st bad prog : Nat) : Dev := completeDesc d p r c.n 0 (editWord st bad prog)
      if p ≠ 0 then fail 7 0 0
      else if dw c 1 % 64 ≠ 0 || fld (dw c 2) 63 20 ≠ 0 || 524288 < dw c 2 || (upto 3 5).any (fun i => dw c i ≠ 0) then
        fail 5 0 0
      else match env with
        | .dmaFault => fail 6 0 0
        | .ok => match payloadProgs payload with
          | none => fail 5 0 0
          | some progs => match loadCheck progs (usedRanges d) with
            | some (st, bad, prog) => fail st bad prog
            | none =>
              if progs = [] then completeDesc d p r c.n 0 (editWord 0 0 0)
              else startDesc (storeProgs d progs 3) p r c.n
        | _ => fail 1 0 0

/-- EDIT_LOAD_DONE: the programs of the load are ACTIVE, and its descriptor completes (R170). -/
def editLoadDone (d : Dev) : Dev :=
  let l := (usedRanges d).filter (fun u => progState d u.1 == 3)
  if l = [] then d
  else
    let d := l.foldl (fun d u => putProg d u.1 (putFld (progEntry d u.1) 63 62 1)) d
    (upto 0 16).foldl (fun d r =>
      match findFirst (fun c => opOf c.words == 0x28 && c.started && c.done.isNone) (ring d .command 0 r).descs with
      | some c => completeDesc d 0 r c.n 0 (editWord 0 0 0)
      | none => d) d

/-- EDIT_RETIRE (R168, R171): each cluster's scan of its predictions begins. DEDUCED, log entry 40. -/
def editRetire (t : TimeState) (d : Dev) (p r : Nat) : Dev :=
  match nextOp d p r 0x29 with
  | none => d
  | some c =>
    let prog := fld (dw c 1) 11 0
    let fail (st : Nat) : Dev := completeDesc d p r c.n 0 (editWord st 0 prog)
    if p ≠ 0 then fail 7
    else if fld (dw c 1) 63 12 ≠ 0 || (upto 2 6).any (fun i => dw c i ≠ 0) then fail 5
    else if prog = 0 || progState d prog ≠ 1 then fail 8
    else
      let d := putProg d prog (putFld (progEntry d prog) 63 62 2)
      let d := memSet (sweep t d) .fdhRun 0 (16 + prog) (t.tick + 1)
      completeDesc d p r c.n 0 (editWord 0 0 prog)

/-- Entry copies whose image names a program (R167). -/
def progCopies (d : Dev) (p : Nat) : Nat :=
  countIf (fun e => (e.kind == 5 && imProg e.data == p)
    || (e.kind == 1 && fld (e.data.headD 0) 63 60 == 3 && imProg (e.data.drop 2) == p)) d.entries

/-- The scans of the caches for a retired program have ended: 32,768 sets, one for each table clock (R168). DEDUCED, log
entry 40. -/
def scanEnded (t : TimeState) (d : Dev) (p : Nat) : Bool :=
  let k := memGet d .fdhRun 0 (16 + p)
  k == 0 || 32768 ≤ scanned t k

/-- PROGRAM_FREED: a retiring program that nothing references, and whose scans have ended, is FREE (R168). DEDUCED, log
entry 40. -/
def programFreed (t : TimeState) (d : Dev) (p : Nat) : Dev :=
  if progState d p = 2 && p ≠ 0 && progCopies d p = 0 && (upto 0 64).all (fun s => progRef d s p == 0) && scanEnded t d p then
    eventMgr t (putProg (memSet (sweep t d) .fdhRun 0 (16 + p) 0) p 0) 0x02 0 p 0 0
  else d

/-- REF_REBUILD: the slice's unknown counts are rebuilt as zero while it holds no frame (R169). -/
def refRebuild (d : Dev) (s : Nat) : Dev :=
  if d.fp.copies.any (fun x => x.kind != 3 && x.kind != 4 && copySlice x == s) || d.fp.xfers.any (fun x => x.src == s && !x.dead)
  then d
  else { d with mem := d.mem.filter (fun e => !(memKey .edtRef s 0 ≤ e.1 && e.1 < memKey .edtRef s 4096 && bit e.2 32)) }

/-- A word of the golden copy is bad: no slice holds a good copy (R262). DEDUCED, log entry 117. -/
def goldenBad (d : Dev) (w : Nat) : Bool := isUe d (devBlk .dev) 0 w

/-- A word of a slice's store that a scrub read found bad waits for its reload (R258). -/
def scrubPend (d : Dev) (s w : Nat) : Bool := memGet d .edtMcTime s (16384 + w) != 0

/-- The pending reload of an edit word ends (R173, R258). -/
def endPend (d : Dev) (s w : Nat) : Dev := memSet d .edtMcTime s (16384 + w) 0

/-- The reload that a scrub read asked for ends, lowest word first; nothing was held for it (R258). DEDUCED, log entry
119. -/
def scrubReload (d : Dev) (s : Nat) (good : Bool) : Dev :=
  match findFirst (scrubPend d s) (upto 0 8192) with
  | none => d
  | some w => endPend (if good && !goldenBad d w then memSet d .edtBad s w 0 else d) s w

/-- MC_RELOAD_DONE: the lanes go on, and the check is reported (R172, R173); with no machine check, the reload of a scrub
read ends. DEDUCED, log entry 119. -/
def mcReloadDone (t : TimeState) (d : Dev) (s : Nat) (good : Bool) : Dev :=
  let k := memGet d .edtMcTime s 8192
  if k = 0 then scrubReload d s good
  else
    let b : Blk := ⟨.edt, s⟩
    let w := k - 1
    let at' := memGet d .edtMcTime s 8193
    let ok := good && !goldenBad d w
    let hit := bit (preg d b 0 .last) 61
    let d := endPend (if ok then memSet d .edtBad s w 0 else d) s w
    let again (g : Grant) : Grant := if !g.done && at' < g.tick + 45 then { g with tick := t.tick } else g
    let d := setFp d { d.fp with copies := mapIf (fun x => x.kind != 3 && x.kind != 4 && copySlice x == s)
                                             (fun x => { x with grant := x.grant.map again }) d.fp.copies }
    let up := !ok || memGet d .edtMcTime s 8194 ≠ 0
    let d := memSet d .edtMcTime s 8192 0
    let d := wrF d b .edtMcLog 62 62 (b2n up)
    let n := if up then 1 else 0
    reportFault (errSet t d b n) 5 (if up then 2 else 1) b n (4 * w) hit

/-- GOLDEN_REBUILD: the hub copies the word from the lowest slice that holds it with good parity (R262).
What each slice's own copy holds stays as it is. DEDUCED, log entry 117. -/
def goldenRebuild (d : Dev) (w : Nat) : Dev :=
  let d := match findFirst (fun s => slcState d s ≤ 1 && parityBad d s w == 0) (upto 0 64) with
    | some s =>
      let old := memGet d .edtStore 0 w
      let new := storeWord d s w
      let d := memSet (setMark d (devBlk .dev) 0 w 0) .edtStore 0 w new
      if old = new then d
      else (upto 0 64).foldl (fun d s => memSet d .edtBad s w ((memGet d .edtBad s w).xor (old.xor new))) d
    | none => setMark d (devBlk .dev) 0 w 100
  reportFault d 1 1 (devBlk .dev) 0 w false

/-- A scrub read of a slice's store finds a parity error: it is reported, and the word is to be reloaded (R258). -/
def scrubStore (d : Dev) (s w : Nat) : Dev :=
  let q := parityBad d s w
  if q = 0 || scrubPend d s w then d
  else
    let b : Blk := ⟨.edt, s⟩
    let d := memSet (storeError d s w q) .edtMcTime s (16384 + w) 1
    reportFault d 5 1 b 0 (4 * w) (bit (preg d b 0 .last) 61)

end Sys2Proof.Machine
end

