-- ==== Sys2Proof/Machine/Upkeep.lean ====
section
/-! DEFINITION. What runs beside the frame path: HBM temperature and training, scrubbers and write-backs,
TCAM shadow checks and diagnostic searches. -/
namespace Sys2Proof.Machine

/-- A byte as a signed number of degrees. -/
def signed8 (v : Nat) : Int := if v % 256 < 128 then (v % 256 : Nat) else ((v % 256 : Nat) : Int) - 256

/-- The refresh band of a case temperature (Table 10.8). -/
def refreshBand (t : Int) : Nat := if t ≤ 85 then 0 else if t ≤ 105 then 1 else 2

/-- HBM_TEMP_REPORT: the band is left downward only 3 °C below its lower edge; a report at or above a threshold
sets its error bit, and the collector hears of it when the bit sets or the temperature comes to the threshold
(R246). DEDUCED, log entry 116. -/
def hbmTemp (t : TimeState) (d : Dev) (c temp : Nat) : Dev :=
  let b : Blk := ⟨.hbm, c⟩
  if !(hbmStacks d).contains c then d
  else
    let v := rd d b .hbmTemp
    let new := signed8 temp
    let old := signed8 (fld v 7 0)
    let band := max (refreshBand new) (min (fld v 33 32) (refreshBand (new + 3)))
    let top := if signed8 (fld v 23 16) < new then temp % 256 else fld v 23 16
    let d := wr d b .hbmTemp (putFld (putFld (putFld v 33 32 band) 23 16 top) 7 0 temp)
    let warn : Int := (fld v 31 24 : Nat)
    let told (n : Nat) : Bool := bit (rdAt d b 0 .errStatus 0) n
    let d := if warn ≤ new then (if warn ≤ old && told 2 then d else errFault t d b 2 8 0 0) else d
    if 125 < new then (if 125 < old && told 3 then d else errFault t d b 3 9 3 0) else d

/-- TRACKING_SLOT: a channel whose margin is low is marked (R248), in the slot that ENABLING runs on every channel too
(R250). -/
def trackingSlot (t : TimeState) (d : Dev) (c ch margin : Nat) : Dev :=
  let b : Blk := ⟨.hbm, c⟩
  if ch < 32 && (blkSt d b).cur ≠ 0 && margin < rdF d b .hbmRetrain 31 24 then
    let d := wrF d b .hbmRetrain (32 + ch) (32 + ch) 1
    errFault t d b 5 13 0 0
  else d

/-- Clusters that a stack serves. -/
def served (d : Dev) (h : Nat) : List Nat := (upto 0 8).filter (fun c => stackFor d c == ⟨.hbm, h⟩)

/-- HBM_REGION: none unless the block is OFF and no served cluster has FLOW_EN (Table 10.12). -/
def hbmRegion (d : Dev) (h v : Nat) : Option Dev :=
  if (blkSt d ⟨.hbm, h⟩).cur = 0 && (served d h).all (fun c => !bit (rd d ⟨.exm, c⟩ .exmFlowCfg) 32) then
    some (memSet (wr d ⟨.hbm, h⟩ .hbmRegion (v % 16)) .hbmRefill h 0 1)
  else none

/-- The table region of a stack is zero: no FLOW entry, counter, delta or image is left in it (R255, R256). -/
def clearTables (d : Dev) (h : Nat) : Dev :=
  let mine (c : Nat) : Bool := (served d h).contains c
  { d with
    entries := d.entries.filter (fun e => !(e.kind == 1 && mine e.cluster))
    fc := { d.fc with
      pairs := SMap.drop (fun k => mine (k / 2 ^ 24)) d.fc.pairs
      deltas := SMap.drop (fun k => mine (k / 2 ^ 24)) d.fc.deltas
      ues := d.fc.ues.filter (fun k => !mine (k / 2 ^ 24 % 8)) }
    images := SMap.drop mine d.images
    marks := SMap.drop (fun k => k / 2 ^ 32 == blkKey ⟨.hbm, h⟩ * 8) d.marks }

/-- HBM_REGION_REFILL_DONE. -/
def regionRefilled (d : Dev) (h : Nat) : Dev :=
  if memGet d .hbmRefill h 0 = 1 then memSet (clearTables d h) .hbmRefill h 0 0 else d

/-- HBM_TRAIN_CTRL: GO is NOT_PERMITTED unless the block is OFF; it clears DONE (Table 10.15). -/
def trainGo (d : Dev) (h w : Nat) : Option Dev :=
  let b : Blk := ⟨.hbm, h⟩
  let old := rd d b .hbmTrainCtrl
  if bit w 63 && (blkSt d b).cur ≠ 0 then none
  else
    let go := bit w 63 || bit old 63
    let d := wr d b .hbmTrainCtrl (b2n go <<< 63 + fld w 39 0)
    some (if bit w 63 then wrF d b .hbmTrainRes 63 63 0 else d)

/-- HBM_TRAIN_PASS_DONE: the result of the pass. DESIGN CHOICE, log entry 25. -/
def trainDone (d : Dev) (h errors lanes : Nat) : Dev :=
  let b : Blk := ⟨.hbm, h⟩
  if bit (rd d b .hbmTrainCtrl) 63 then
    let l := lanes % 2 ^ 37
    wr (wrF d b .hbmTrainCtrl 63 63 0) b .hbmTrainRes (2 ^ 63 + b2n (l == 0) <<< 62 + min errors 2047 <<< 37 + l)
  else d

/-- Words of a scrub read, and reads of a lap, of a protected memory (Table 11.4); zero has no scrubber. DEDUCED, log
entry 118. -/
def scrubShape (d : Dev) (b : Blk) (m : Nat) : Nat × Nat :=
  match b.kind, m with
  | .exm, 0 => (16, 524288) | .exm, 1 => (4, 256) | .exm, 2 => (8, 524288) | .exm, 3 => (1, 131072)
  | .exm, 4 => (2, 524288) | .exm, 5 => (1, 2304)
  | .lpm, 0 => (24, 524288) | .lpm, 1 => (12, 524288)
  | .tcm, 1 => (22, 8192)
  | .fdh, 0 => (80, 32768)
  | .edt, 0 => (4, 8192) | .edt, 1 => (1, 4096) | .edt, 2 => (1, 4096)
  | .bpm, 0 => (32, 262144) | .bpm, 1 => (1, 262144) | .bpm, 2 => (1, 32768) | .bpm, 3 => (1, 131072)
  | .bpm, 4 => (1, 458816) | .bpm, 5 => (32, 4096)
  | .sch, 0 => (1, 16384) | .sch, 1 => (1, 32768) | .sch, 2 => (1, 8320)
  | .mtr, 0 => (1, 65536) | .mtr, 1 => (1, 49152)
  | .prs, 0 => (1, 65536) | .cmt, 0 => (1, 65536) | .csl, 0 => (1, 532480) | .lim, 0 => (1, 24576) | .perf, 0 => (1, 1024)
  | .flt, 0 => (1, 256) | .flt, 1 => (1, 1024) | .part, 0 => (1, 65536) | .part, 1 => (1, 17408)
  | .hbm, 0 => (8, hbmNt d b * 5505024)
  | .dev, 0 => (1, 8192)
  | _, _ => (0, 0)

/-- The block's error bit that an uncorrectable word of a memory latches (Table 11.5). -/
def ueBit (b : Blk) (m : Nat) : Option Nat :=
  match b.kind, m with
  | .fdh, _ => some 0
  | .bpm, 0 => some 1
  | .edt, 2 => some 2
  | .hbm, _ => some 1
  | _, _ => none

/-- Memory and first word of a scrub read: on a stack, the reads beyond the table region are those of table-side
spill blocks, in the same pseudo-channels (Table 11.4). -/
def scrubPlace (d : Dev) (b : Blk) (m pos : Nat) : Nat × Nat :=
  let k := (scrubShape d b m).1
  let n := tableGib d b * 2 ^ 24
  if b.kind == .hbm && n ≤ pos then (1, 512 * spillPcBlocks d b + k * (pos - n)) else (m, k * pos)

/-- What an uncorrectable word does that a scrubber finds: a table location is marked, a prediction entry
is invalidated, a reference count becomes unknown; any other waits for its consumer (Table 11.2). -/
def scrubHurt (d : Dev) (b : Blk) (m w : Nat) : Dev :=
  match b.kind, m with
  | .exm, 5 => d
  | .exm, _ => setMark d b m w 200
  | .lpm, _ => setMark d b m w 200
  | .tcm, _ => setMark d b m w 200
  | .hbm, 0 => if flowWord d b w then setMark d b m w 200 else d
  | .fdh, _ => predDrop (setMark d b m w 0) (fun k _ => k / 262144 == b.inst && k % 262144 == w / 10)
  | .edt, 2 => memSet (setMark d b m w 0) .edtRef b.inst w (putFld (progRef d b.inst w) 32 32 1)
  | _, _ => d

/-- A scrub read of one word. -/
def scrubWord (t : TimeState) (b : Blk) (m : Nat) (d : Dev) (w : Nat) : Dev :=
  let k := mark d b m w
  if k = 0 || k = 200 then d
  else
    let (ue, d) := readWord t d b m w (ueBit b m)
    if ue then scrubHurt d b m w else d


/-- The scrubber of a memory may run; that of the golden copy always does (R257, Table 11.6). -/
def scrubRuns (d : Dev) (b : Blk) (m : Nat) : Bool :=
  (m < memCount b.kind || b == devBlk .dev) && (scrubShape d b m).2 != 0 && bit (preg d b m .ctrl) 0
    && (b.kind.info.level != .slice || (slcState d (blkUnit b) == 0 && !gated d (blkUnit b)))
    && (b.kind != .hbm || ((blkSt d b).cur != 0 && rdF d (devBlk .pwr) .pwrStat 2 0 ≤ 1))

/-- A lap ends: its length is kept, and one above its limit is reported (R259). DEDUCED, log entries 29 and 118. -/
def scrubLap (t : TimeState) (d : Dev) (b : Blk) (m : Nat) : Dev :=
  let now := scrubTick t d b
  let us := (now - preg d b m .start) / 1800 % 2 ^ 32
  let d := setPreg (setPreg d b m .pos 0) b m .start now
  if b.kind == .hbm then
    let d := wr (rowLap d b.inst) b .hbmScrubLap (us / 1000)
    if rdF d b .hbmScrubLapLimit 31 0 < us / 1000 then reportFault d 7 0 b 0 0 false else d
  else
    let d := setPreg d b m .lap us
    let lim := preg d b m .limit
    if lim ≠ 0 && lim < us then reportFault d 7 0 b 0 0 false else d

/-- SCRUB_READ: the scrubber of a memory reads its next words (R257, R258). -/
def scrubRead (t : TimeState) (d : Dev) (b : Blk) (m : Nat) : Dev :=
  if !scrubRuns d b m then d
  else
    let (k, reads) := scrubShape d b m
    let pos := preg d b m .pos
    let d := if b.kind == .edt && m == 0 then scrubStore d b.inst pos
             else
               let x := scrubPlace d b m pos
               (upto x.2 k).foldl (scrubWord t b x.1) d
    if reads ≤ pos + 1 then scrubLap t d b m else setPreg d b m .pos (pos + 1)

/-- ECC_WRITE_BACK: a corrected word that nothing has written since goes back; no flip is taken (R253, R258). -/
def eccWriteBack (d : Dev) (b : Blk) (m w : Nat) : Dev :=
  if 301 ≤ mark d b m w then setMark d b m w 0 else d

/-- TCAM_SHADOW_CHECK: the checker compares one entry with its copy (R105). DEDUCED, log entry 29. -/
def shadowCheck (t : TimeState) (d : Dev) (b : Nat) : Dev :=
  let k : Blk := ⟨.tcm, b⟩
  if !isOn d k || !bit (rd d k .tcmCfg) 7 then d
  else
    let i := preg d k 0 .pos
    let ws := upto (i * 22) 22
    let ue := ws.any (fun w => isUe d k 1 w)
    let d := ws.foldl (scrubWord t k 1) d
    let d := if !ue && memGet d .tcmFlip b i ≠ 0 then
        reportFault (memSet d .tcmFlip b i 0) 4 1 k 0 i true
      else d
    setPreg d k 0 .pos ((i + 1) % 8192)

/-- The TCAM table whose first block is this block, if one is valid: its identifier and directory entry. -/
def tableAt (d : Dev) (b : Nat) : Option (Nat × Nat) :=
  let c := b / 8
  (findFirst (fun tid =>
    let e := dirEntry d c tid
    bit e 63 && fld e 62 60 == 3 && dirFirst e == b % 8) (upto 0 256)).map (fun tid => (tid, dirEntry d c tid))

/-- TCM_SRCH_CTRL: GO starts a search of the table whose first block this is; the epoch is that of the
cluster's copy of VER_CURRENT (Table 4.23). None is NOT_PERMITTED. -/
def srchCtrl (d : Dev) (b w : Nat) : Option Dev :=
  let k : Blk := ⟨.tcm, b⟩
  let old := rd d k .tcmSrchCtrl
  let v := w.land (0xFFF <<< 48 + 0x1FFFF <<< 16)
  if bit w 63 then
    if (tableAt d b).isNone then none
    else
      let d := memSet (wr d k .tcmSrchCtrl (2 ^ 63 + v)) .tcmEpoch b 0 (unitVersion d (64 + b / 8) + 1)
      some (wrF d k .tcmSrchRes 63 63 0)
  else some (wr d k .tcmSrchCtrl (putFld v 63 63 (fld old 63 63)))

/-- TCAM_DIAG_SEARCH_DONE: the result of the search (Table 4.23). DESIGN CHOICE, log entry 25. -/
def srchDone (t : TimeState) (d : Dev) (b : Nat) : Dev :=
  let k : Blk := ⟨.tcm, b⟩
  let w := rd d k .tcmSrchCtrl
  if !bit w 63 then d
  else
    let v := memGet d .tcmEpoch b 0 - 1
    let d := memSet (wrF d k .tcmSrchCtrl 63 63 0) .tcmEpoch b 0 0
    match tableAt d b with
    | none => wr d k .tcmSrchRes (2 ^ 63)
    | some (tid, dir) =>
      let key := wordBytes ((upto 0 10).map (fun i => rd d k .tcmSrchKey i))
      let r := searchTcam d v (b / 8) tid (fld w 59 48) dir key (if bit w 32 then some (fld w 31 16) else none)
      let d := (hurtWords t d r.bad).2
      wr d k .tcmSrchRes (match r.hit with
        | none => 2 ^ 63
        | some e => 2 ^ 63 + 2 ^ 62 + b2n r.multi <<< 61 + (e.place - dirFirst dir * 8192) <<< 16 + prioOf e)

end Sys2Proof.Machine
end

