-- ==== Sys2Proof/Machine/Blocks.lean ====
section
/-! DEFINITION. Blocks: bring-up, shut-down, soft reset, and the holds of fences and of Crust mode. -/
namespace Sys2Proof.Machine

/-- The other end of a die-to-die link (R38), and the end that names it. -/
def d2dPeer (i : Nat) : Nat :=
  let a := i / 7
  let p := i % 7
  d2dInst (if p < a then p else p + 1) a
def linkName (i : Nat) : Nat := min i (d2dPeer i)

/-- `n` blocks of a kind from an instance. -/
def blks (k : BlkKind) (lo n : Nat) : List Blk := (upto lo n).map (fun i => ⟨k, i⟩)

/-- The blocks of a slice. -/
def sliceBlocks (s : Nat) : List Blk :=
  [⟨.slc, s⟩] ++ blks .sds (16 * s) 16 ++ blks .mac (16 * s) 16 ++ [⟨.prs, s⟩, ⟨.voq, s⟩, ⟨.edt, s⟩, ⟨.sch, s⟩, ⟨.mtr, s⟩]

/-- The blocks that a unit's fence holds (Table 12.4). -/
def unitBlocks : FUnit → List Blk
  | .slice s => sliceBlocks s
  | .edit s => [⟨.edt, s⟩]
  | .cluster c => (upto (8 * c) 8).flatMap sliceBlocks ++ [⟨.exm, c⟩, ⟨.lpm, c⟩, ⟨.fdh, c⟩, ⟨.bpm, c⟩] ++ blks .tcm (8 * c) 8
  | .fdh c => [⟨.fdh, c⟩]
  | .stack c => [⟨.hbm, c⟩]
  | .tcm b => [⟨.tcm, b⟩]
  | .link i => [⟨.d2d, i⟩, ⟨.d2d, d2dPeer i⟩]
  | .hub k => [devBlk ([BlkKind.cmt, .lim, .csl, .perf].getD k .cmt)]

/-- Kinds of block that Crust mode holds (Table 12.5). -/
def crustKinds : List BlkKind := [.fdh, .cmt, .mtr, .edt, .exm, .lpm, .tcm, .hbm]

/-- Every block of those kinds. -/
def crustBlocks : List Blk := crustKinds.flatMap (fun k => blks k 0 k.count)

/-- STATE.HELD: a fence or Crust mode holds the block (R44). -/
def held (d : Dev) (b : Blk) : Bool :=
  let f (r : Reg) (i : Nat) : Bool := bit (rd d (devBlk .flt) r) i
  (crustKinds.contains b.kind && (crustState d == 1 || crustState d == 2)) ||
    match b.kind with
    | .cmt => f .fltFenceMisc 24
    | .lim => f .fltFenceMisc 25
    | .csl => f .fltFenceMisc 26
    | .perf => f .fltFenceMisc 27
    | .exm => f .fltFenceMisc b.inst
    | .lpm => f .fltFenceMisc b.inst
    | .bpm => f .fltFenceMisc b.inst
    | .fdh => f .fltFenceMisc (16 + b.inst) || f .fltFenceMisc b.inst
    | .hbm => f .fltFenceMisc (8 + b.inst)
    | .tcm => f .fltFenceTcm b.inst || f .fltFenceMisc (b.inst / 8)
    | .d2d => f .fltFenceD2d b.inst
    | .edt => f .fltFenceEdt b.inst || f .fltFenceSlc b.inst
    | k => k.info.level == .slice && f .fltFenceSlc (blkUnit b)

/-- Stores CUR and PEND_ENABLE of a block. DEDUCED, log entry 103. -/
def setCur (d : Dev) (b : Blk) (cur : Nat) (pend : Bool) : Dev :=
  setBlk d b { blkSt d b with cur := cur, pend := pend }

/-- What a block does as its shut-down begins: the commit engine ends its batches and its waits with
DISABLED, the Cersa link detaches, a lost link sends traffic its other way (R125, R320, R23). -/
def downStart (t : TimeState) (d : Dev) (b : Blk) : Dev :=
  match b.kind with
  | .cmt => cmtDown t d
  | .csl => if attached d then startDetach (send d (.cersa (.detach false))) else d
  | .d2d => dropNoPath t d
  | _ => d

/-- A block leaves ENABLING or ON for DISABLING. -/
def goDown (t : TimeState) (d : Dev) (b : Blk) : Dev := downStart t (setCur d b 3 false) b

/-- A hold begins: the block moves through DISABLING to OFF (R44). -/
def holdBlock (t : TimeState) (d : Dev) (b : Blk) : Dev :=
  let c := (blkSt d b).cur
  if c = 1 || c = 2 then goDown t d b else setCur d b c false

/-- A stack whose training failed at start-up does not leave OFF (R247). -/
def stuckOff (d : Dev) (b : Blk) : Bool := b.kind == .hbm && memGet d .hbmRefill b.inst 1 == 1

/-- A hold ends (R44); a block whose soft reset runs starts only when that completes (R42). -/
def releaseBlock (d : Dev) (b : Blk) : Dev :=
  let x := blkSt d b
  if held d b || !x.enable || x.softReset || stuckOff d b then d
  else if x.cur = 0 then setCur d b 1 false
  else if x.cur = 3 then setCur d b 3 true
  else d

/-- Fixed-on blocks (R43). -/
def isFixed (b : Blk) : Bool := b.kind.info.fixed

/-- A lane inside a wider port (R47, R403). DEDUCED, log entry 109. -/
def innerLane (d : Dev) (b : Blk) : Bool := b.kind == .mac && portWidth d b.inst == 0

/-- The lanes of a port. -/
def portLanes (d : Dev) (port : Nat) : List Nat := upto port (portWidth d port)

/-- A generator or checker of a data lane runs (R401). -/
def laneTested (d : Dev) (lane : Nat) : Bool :=
  bit (rd d ⟨.sds, lane⟩ .sdsPrbsGen) 63 || bit (rd d ⟨.sds, lane⟩ .sdsPrbsChk) 63

/-- A MAC may be enabled: its owner is not FREE, and no lane of it is under test by software (R285, R401). -/
def macMay (d : Dev) (port : Nat) : Bool :=
  (part d (memGet d .partPort 0 port)).st != 0 && !(portLanes d port).any (laneTested d)

/-- CTRL.ENABLE acts on a block that is neither held nor being soft-reset (Table 2.13). -/
def enableActs (t : TimeState) (d : Dev) (b : Blk) (en : Bool) : Dev :=
  let c := (blkSt d b).cur
  match c, en with
  | 0, true => if (blkSt d b).pend || stuckOff d b then d else setCur d b 1 false
  | 0, false => d
  | 1, _ => setCur d b 1 false
  | 2, true => setCur d b 2 false
  | 2, false => goDown t d b
  | _, en => setCur d b c en

/-- A nap of the slice ends: it reloads time and version and becomes ACTIVE (R328). DEDUCED, log entry 103. -/
def endNap (d : Dev) (s cause : Nat) : Dev :=
  if slcState d s = 2 && memGet d .slcWake 0 s = 0 then
    memSet (wrF d ⟨.slc, s⟩ .slcPwrStat 3 0 cause) .slcWake 0 s cause
  else d

/-- A write of CTRL.ENABLE that is permitted (R41, R42, R44, R328). -/
def writeEnable (t : TimeState) (d : Dev) (b : Blk) (en : Bool) : Dev :=
  let d := setBlk d b { blkSt d b with enable := en }
  let d := if b.kind == .mac && en then
      let s := portSlice b.inst
      let d := (portLanes d b.inst).foldl (fun d l => memSet d .linkChk l 0 0) d
      let d := if rdF d ⟨.slc, s⟩ .slcPwr 63 62 = 1 then wrF d ⟨.slc, s⟩ .slcPwr 63 62 0 else d
      endNap d s 7
    else d
  if (blkSt d b).softReset then d
  else if held d b then setCur d b (blkSt d b).cur false
  else enableActs t d b en

/-- A write of CTRL in page `sub`: the Bool says that it is permitted (R40 to R43, R47). A SOFT_RESET that is not
permitted, or a fixed-on block, leaves the word's other bits their effect. DEDUCED, log entries 22 and 110. DESIGN
CHOICE, log entry 170. -/
def writeCtrl (t : TimeState) (d : Dev) (b : Blk) (sub : Nat) (w : Nat) : Dev × Bool :=
  let d := if bit w 2 then wrAt d b sub .ctrl 0 4 else d
  let en := bit w 0
  let soft := bit w 1
  if isFixed b then (d, en && !soft)
  else if innerLane d b then (d, false)
  else
    let x := blkSt d b
    if b.kind == .mac && en && !x.enable && !macMay d b.inst then (d, false)
    else if soft && x.cur ≠ 0 && !x.softReset then (writeEnable t d b en, false)
    else if soft && !x.softReset then
      (setBlk d b { x with softReset := true, enable := en }, true)
    else (writeEnable t d b en, true)

/-- What a block does on entry to ON. DEDUCED, log entry 107. -/
def upDone (d : Dev) (b : Blk) : Dev :=
  match b.kind with
  | .csl => cslUp d
  | .edt => { d with marks := SMap.drop (fun k => k / 2 ^ 32 == blkKey b * 8 + 1) d.marks }
  | .sch => setFp d { d.fp with wf := d.fp.wf.filter (fun e => match e.1 % 4 with
      | 0 => queueSlice (e.1 / 4) != b.inst
      | 1 => portSlice (e.1 / 4 / 2048) != b.inst
      | _ => portSlice (e.1 / 4 / 8) != b.inst) }
  | .hbm => wrF d b .hbmStatus 47 47 0
  | .lim => wrF d b .limStat 63 63 1
  | _ => d

/-- BRING_UP_COMPLETE (R41). A stack whose training failed does not leave OFF (R247). -/
def bringUp (t : TimeState) (d : Dev) (b : Blk) : Dev :=
  let x := blkSt d b
  if x.cur ≠ 1 || stuckOff d b || (b.kind == .hbm && (tripped d || 2 ≤ rdF d (devBlk .pwr) .pwrStat 2 0)) then d
  else if x.enable then upDone (setCur d b 2 false) b
  else goDown t d b

/-- The in-flight work of a block is drained or discarded, as its chapter's DISABLING says. -/
def drainedDown (d : Dev) (b : Blk) : Bool :=
  let i := b.inst
  match b.kind with
  | .cmt => d.cmt.switches == [] && d.cmt.oldest == verCurrent d && !d.cmt.batches.any (fun b => b.state == 4)
  | .csl => twinState d != 5
  | .exm => !d.fp.flow.any (fun x => x.1 == i)
  | .tcm => !bit (rd d b .tcmSrchCtrl) 63
  | .fdh => !d.fp.frames.any (fun f => portCluster f.port == i && f.stage == 1 && f.launch != 0 && !f.gone)
  | .edt => !d.fp.copies.any (fun x => x.kind != 3 && x.kind != 4 && copySlice x == i
              && (match x.grant with | some g => !g.done | none => false))
  | .sch => !d.fp.copies.any (fun x => x.kind != 3 && x.kind != 4 && copySlice x == i
              && (match x.grant with | some g => !g.done | none => false))
  | .bpm => !d.fp.chains.any (fun x => x.cluster == i) && !d.fp.leaks.any (fun x => x.1 == i)
              && !d.fp.blocks.any (fun x => queueCluster x.queue == i)
  | .hbm => !d.fp.blocks.any (fun x => stackFor d (queueCluster x.queue) == b)
  | .mac => !d.fp.frames.any (fun f => f.port == i && !f.tail)
              && !d.fp.copies.any (fun x => x.kind != 3 && x.kind != 4 && copyPort d x == i
                  && (match x.grant with | some g => !g.done | none => false))
  | .perf => !bit (rd d b .perfSnap) 63 && !bit (rd d b .perfDumpCtrl) 63
  | _ => true

/-- What a block leaves when it is OFF: a link is down, a stack is in self-refresh. -/
def downDone (t : TimeState) (d : Dev) (b : Blk) : Dev :=
  match b.kind with
  | .csl => cslDown t d false
  | .mac =>
    let v := rd d b .macStat
    if bit v 63 then wr d b .macStat (min 0xFFFF (fld v 15 0 + 1)) else wr d b .macStat (fld v 15 0)
  | .hbm => wrF d b .hbmStatus 47 47 1
  | .lim => wrF d b .limStat 63 63 0
  | _ => d

/-- SHUT_DOWN_COMPLETE (R41). -/
def shutDown (t : TimeState) (d : Dev) (b : Blk) : Dev :=
  let x := blkSt d b
  if x.cur = 3 && drainedDown d b then downDone t (setCur d b 0 x.pend) b else d

/-- PEND_ENABLE_RESTART: one always-on clock after the shut-down (R41). A write of ENABLE = 0 in that clock
does not stop it. -/
def pendRestart (d : Dev) (b : Blk) : Dev :=
  let x := blkSt d b
  if x.cur = 0 && x.pend && !x.softReset && !held d b && !stuckOff d b then setCur d b 1 false else d

/-- The register at an offset of page `sub` of a kind of block, and its index. -/
def findReg (k : BlkKind) (sub off : Nat) : Option (Reg × Nat) :=
  let tryReg (r : Reg) : Option (Reg × Nat) :=
    let x := regInfo r
    if (x.place == .header || x.sub == sub) && x.off ≤ off && (off - x.off) % x.stride == 0 && (off - x.off) / x.stride < x.count
    then some (r, (off - x.off) / x.stride) else none
  match headerRegs.findSome? tryReg with
  | some x => some x
  | none => match if memCount k != 0 && sub == 0 then protRegs.findSome? tryReg else none with
    | some x => some x
    | none => (blockRegs k).findSome? tryReg

/-- CTRL.LOCK of a page. -/
def locked (d : Dev) (b : Blk) (sub : Nat) : Bool := bit (rdAt d b sub .ctrl 0) 2

/-- Registers that a soft reset keeps whole: those of R42, the version state of R127, and the straps, whose reset value
is what was sampled (Table 17.11). DEDUCED, log entry 108. -/
def softKeeps : Reg → Bool
  | .ctrl => true | .errMask => true | .violationCount => true | .verCurrent => true | .commitStall => true
  | .bootStrap => true
  | _ => false

/-- Bits of a register that a soft reset keeps beside those of locked RWL fields: EVT_BASE, counts that run from
power-on, the power state of a slice (R324), and the role that the strap fixed (R307). DEDUCED, log entry 108. -/
def softMask : Reg → Nat
  | .errFlipC => 0xFFFFFFFF <<< 32
  | .pciStat => 0xFFFF
  | .hbmStatus => 0xFFFF <<< 48
  | .slcPwrStat => 3 <<< 62
  | .cslState => 1 <<< 63
  | _ => 0

/-- A register after a soft reset of its block. -/
def softValue (d : Dev) (b : Blk) (sub : Nat) (r : Reg) (i old : Nat) : Nat :=
  if softKeeps r then old
  else
    let new := resetValue d.h4 b sub r i
    let lock := if locked d b sub then (regInfo r).fields.foldl (fun m (f : Field) =>
      if f.acc = .rwl then m.lor ((2 ^ (f.hi + 1 - f.lo) - 1) <<< f.lo) else m) 0 else 0
    let m := (softMask r).lor lock
    (old.land m).lor (new.land (m.xor (2 ^ 64 - 1)))

/-- The registers of a block instance after a soft reset (R42). Lanes that a port's WIDTH covered become ports of their
own, as for any change of WIDTH (R393); how far start-up has come is as it was. DEDUCED, log entry 108. -/
def softRegs (d : Dev) (b : Blk) : Dev :=
  let base := pageBase b 0
  let new := { d with regs := d.regs.filterMap (fun e =>
      let off := e.1 * 8
      if off < base || base + 0x1000 * b.kind.info.span ≤ off then some e
      else
        let sub := (off - base) / 0x1000
        match findReg b.kind sub (off % 0x1000) with
        | none => none
        | some (r, i) =>
          let v := softValue d b sub r i e.2.toNat
          if v = resetValue d.h4 b sub r i then none else some (e.1, BitVec.ofNat 64 v)) }
  match b.kind with
  | .prs => profilesLeft d new b.inst
  | .boot => memSet new .boot 0 3 (bootFacts d + 1)
  | .mac => (upto (b.inst + 1) (portWidth d b.inst - 1)).foldl (fun d l => wrF d ⟨.mac, l⟩ .macCfg 59 56 1) new
  | _ => new

/-- The protection registers of a block's memories after a soft reset; RWL ones stay under LOCK. DEDUCED, log entry 108. -/
def softProt (t : TimeState) (d : Dev) (b : Blk) : Dev :=
  let lock := locked d b 0
  (upto 0 (memCount b.kind)).foldl (fun d m =>
    let d := [PReg.cnt, .last, .lap, .inj].foldl (fun d r => setPreg d b m r (pregReset r)) d
    if lock then d else setPreg (scrubEnable t d b m 1) b m .limit (pregReset .limit)) d

/-- Keys of an indirect memory of a unit. -/
def memDrop (d : Dev) (m : Mem) (inst : Nat) : Dev :=
  { d with mem := SMap.drop (fun k => k / 2 ^ 32 == memCode m * 4096 + inst) d.mem }

/-- Indirect registers that are no protected memory return to reset too. DEDUCED, log entry 108. -/
def softMore (d : Dev) (b : Blk) : Dev :=
  match b.kind with
  | .sch =>
    let d := memDrop d .pfcTh b.inst
    setFp d { d.fp with gates := SMap.drop (fun k => portSlice k == b.inst) d.fp.gates }
  | .csl => memDrop d .cslPrepl 0
  | .fdh => memSet d .fdhRun 0 b.inst 0
  | .pci => { d with parts := d.parts.filterMap (fun e =>
      let v := if e.1 = 0 then Part.manager.vec else 0
      let x := { e.2 with vec := v }
      if x = (if e.1 = 0 then Part.manager else Part.free) then none else some (e.1, x)) }
  | .mac => setFp d { d.fp with txts := d.fp.txts.filter (fun e => e.1 != b.inst) }
  | _ => d

/-- SOFT_RESET_COMPLETE: the block's registers are at reset, and the ENABLE written last acts (R42). DEDUCED, log entry
110. -/
def softDone (t : TimeState) (d : Dev) (b : Blk) : Dev :=
  let x := blkSt d b
  if !x.softReset then d
  else
    let d := softMore (softProt t (softRegs d b) b) b
    let d := setBlk d b { x with softReset := false }
    if held d b then d else enableActs t d b x.enable

/-- STUCK: a transition has lasted 10 ms and goes on (Table 2.9). -/
def stuckBlock (t : TimeState) (d : Dev) (b : Blk) : Dev :=
  let c := (blkSt d b).cur
  if c = 1 || c = 3 then errFault t d b 63 22 0 0 else d

end Sys2Proof.Machine
end

