-- ==== Sys2Proof/Machine/Power.lean ====
section
/-! DEFINITION. Power states: doze, nap and off of a slice, and sleep of the device. -/
namespace Sys2Proof.Machine

/-- A slice's control block. -/
def slcBlk (s : Nat) : Blk := ⟨.slc, s⟩

/-- The ports of a slice: the first lanes. -/
def slicePorts (d : Dev) (s : Nat) : List Nat := (upto (16 * s) 16).filter (fun p => portWidth d p != 0)

/-- Stores a slice's state. -/
def setSlcState (d : Dev) (s v : Nat) : Dev := wrF d (slcBlk s) .slcPwrStat 63 62 v

/-- An entry of a queue lets its slice doze: its port's link is down, or it waits only for a closed gate of
a port with GATE_WAKE (R325). -/
def letsDoze (t : TimeState) (d : Dev) (x : Copy) : Bool :=
  let port := copyPort d x
  !linkUp d port ||
    (x.kind != 5 && bit (rd d ⟨.sch, portSlice port⟩ .schPort (port % 16)) 32 && !paused t d port (copyTc d x)
      && (match gateFor t d x with
          | .shut => true
          | .wait _ => true
          | _ => false))

/-- A slice is idle (R325). -/
def sliceIdle (t : TimeState) (d : Dev) (s : Nat) : Bool :=
  !d.fp.frames.any (fun f => portSlice f.port == s && !f.gone && (f.stage != 2 || f.adm != 0 || f.rob || !f.tail))
    && !d.fp.frames.any (fun f => f.verdict != 0 && (portSlice f.port == s
          || (match copyOf d f.lcid with | some x => copySlice x == s | none => false)))
    && !d.fp.xfers.any (fun x => x.src == s && !x.dead && (x.held != 0 || x.phase != 3))
    && (d.fp.copies.filter (fun x => x.kind != 3 && x.kind != 4 && copySlice x == s)).all
          (fun x => x.st == 0 || ((x.st == 1 || x.st == 3) && letsDoze t d x))

/-- DOZE_ENTRY: the slice has been idle for IDLE_CLK clocks (R325). -/
def dozeEntry (t : TimeState) (d : Dev) (s : Nat) : Dev :=
  if slcState d s = 0 && bit (rd d (slcBlk s) .slcPwr) 32 && !bit (rd d (slcBlk s) .slcPwrStat) 61 && sliceIdle t d s then
    setSlcState d s 1
  else d

/-- A slice becomes ACTIVE and counts the wake. -/
def nowActive (d : Dev) (s : Nat) : Dev :=
  count (memSet (setSlcState d s 0) .slcWake 0 s 0) (Ev.plain .slc 1) s 0 0 0

/-- A slice that was in NAP or OFF reloads device time and VER_CURRENT: it owes a report for that version's
epoch alone, and adopts each version whose switch still runs (R18, R111). DEDUCED, log entries 104 and 144. -/
def reloadSlice (d : Dev) (s : Nat) : Dev :=
  let v := verCurrent d
  let d := (upto 0 8).foldl (fun d e => setOwed d s e 0) d
  let sw := mapIf (fun x => !x.units.contains s) (fun x => { x with units := x.units ++ [s] }) d.cmt.switches
  let d := { d with cmt := { d.cmt with switches := sw } }
  adopt d s v

/-- WAKE_COMPLETE: a dozing slice reaches ACTIVE (R326). -/
def wakeDone (d : Dev) (s : Nat) : Dev :=
  if slcState d s = 1 && memGet d .slcWake 0 s ≠ 0 then nowActive d s else d

/-- WAKE_LATE (R327). -/
def wakeLate (d : Dev) (s : Nat) : Dev :=
  if slcState d s = 1 && memGet d .slcWake 0 s ≠ 0 then wrF d (slcBlk s) .slcPwrStat 60 60 1 else d

/-- WAKE_FAIL (R327). -/
def wakeFail (t : TimeState) (d : Dev) (s : Nat) : Dev :=
  if memGet d .slcWake 0 s ≠ 0 then errFault t d (slcBlk s) 0 18 1 0 else d

/-- Every port of the slice is disabled, or its link is down (R328). -/
def portsQuiet (d : Dev) (s : Nat) : Bool :=
  (slicePorts d s).all (fun p => !(blkSt d ⟨.mac, p⟩).enable || !linkUp d p)

/-- Every port of the slice is disabled (R330). -/
def portsOff (d : Dev) (s : Nat) : Bool := (slicePorts d s).all (fun p => !(blkSt d ⟨.mac, p⟩).enable)

/-- An accepted OFF request that is not carried out yet. -/
def offWanted (d : Dev) (s : Nat) : Bool := memGet d .slcReq s 0 == 1

/-- NAP_REQUEST: a standing request (R328). -/
def napRequest (d : Dev) (s : Nat) : Dev := wrF d (slcBlk s) .slcPwr 63 62 1

/-- NAP_ENTRY: the slice enters NAP when its ports are quiet and it has been idle (R328); it counts as having reported
every epoch (R111). -/
def napEntry (t : TimeState) (d : Dev) (s : Nat) : Dev :=
  if rdF d (slcBlk s) .slcPwr 63 62 = 1 && slcState d s ≤ 1 && memGet d .slcWake 0 s = 0 && portsQuiet d s
      && !offWanted d s && sliceIdle t d s
  then retireLoop 8 t (setSlcState d s 2) else d

/-- NAP_EXIT: the exit that software asked for completes, or one by signal detect on a lane of an enabled
port (R328). DEDUCED, log entry 144. -/
def napExit (d : Dev) (s : Nat) : Dev :=
  if slcState d s ≠ 2 then d
  else if memGet d .slcWake 0 s ≠ 0 then reloadSlice (nowActive d s) s
  else if (slicePorts d s).any (fun p => (blkSt d ⟨.mac, p⟩).enable) then
    reloadSlice (nowActive (wrF d (slcBlk s) .slcPwrStat 3 0 6) s) s
  else d

/-- OFF_REQUEST: none while a port of the slice is enabled (R330). DEDUCED, log entry 105. -/
def offRequest (d : Dev) (s : Nat) : Option Dev :=
  if portsOff d s then
    let d := wrF d (slcBlk s) .slcPwr 63 62 2
    some (if slcState d s = 3 then d else memSet d .slcReq s 0 1)
  else none

/-- AUTO_REQUEST: it cancels a request that waits, and ends a nap (R328, R330). DEDUCED, log entry 105. -/
def autoRequest (d : Dev) (s q : Nat) : Dev :=
  let d := memSet (wrF d (slcBlk s) .slcPwr 63 62 q) .slcReq s 0 0
  endNap d s 7

/-- What an unpowered slice loses: its registers but those of SLC and of the meter bank, its memories, its
counters but the colours, and its blocks' states, but not their error counts (R256, R265, R330, R346). DEDUCED, log
entry 106. -/
def losePower (d : Dev) (s : Nat) : Dev :=
  let base := regionBase .slice s
  let mine (k : BlkKind) (i : Nat) : Bool := k.info.level == .slice && k != .slc && k != .mtr && i / k.info.per == s
  let lost : List Blk := (sliceBlocks s).filter (fun b => mine b.kind b.inst)
  let port (p : Nat) : Bool := portSlice p == s
  let d := { d with
    regs := SMap.drop (fun k => base + 0x1000 ≤ k * 8 && k * 8 < base + 0x2D000) d.regs
    marks := SMap.drop (fun k => lost.any (fun b => k / 2 ^ 32 / 8 == blkKey b)) d.marks
    ctr := d.ctr.filter (fun e =>
      let k := e.1 / 16384
      !(allKinds.any (fun kd => kd.info.level == .slice && kindIx kd == k / 128 / 2048 && k / 128 % 2048 / kd.info.per == s
          && !(kd == .mtr && k % 128 < 3))))
    fp := { d.fp with
      wf := d.fp.wf.filter (fun e => match e.1 % 4 with
        | 0 => queueSlice (e.1 / 4) != s
        | 1 => !port (e.1 / 4 / 2048)
        | _ => !port (e.1 / 4 / 8))
      wv := d.fp.wv.filter (fun e => match e.1 % 4 with
        | 1 => !port (e.1 / 4 / 2048)
        | 2 => !port (e.1 / 4 / 8)
        | 3 => !port (if 8192 ≤ e.1 / 4 then e.1 / 4 - 8192 else e.1 / 4 / 8)
        | _ => true)
      shapes := SMap.drop (fun k => k / 32768 == s) d.fp.shapes
      gates := SMap.drop port d.fp.gates
      lists := SMap.drop (fun k => port (k / 2)) d.fp.lists
      pause := d.fp.pause.filter (fun x => !port x.1)
      deaf := d.fp.deaf.filter (fun x => !port x.1)
      xoff := d.fp.xoff.filter (fun x => !port x.1)
      txts := d.fp.txts.filter (fun x => !port x.1) } }
  let d := lost.foldl (fun d b => setBlk d b (blkDefault b)) d
  let d := lost.foldl (fun d b => (upto 0 (memCount b.kind)).foldl (fun d m =>
    setPreg ([PReg.last, .lap, .limit, .inj, .ctrl, .pos].foldl (fun d r => setPreg d b m r (pregReset r)) d) b m .start
      (memGet d .scrubRun s 0)) d) d
  let d := [Mem.prsKb, .prsUsed, .schQ, .schG, .pfcTh, .edtBad, .edtRef, .edtMcTime].foldl (fun d m => memDrop d m s) d
  (upto (16 * s) 16).foldl (fun d p => memDrop d .gcl p) d

/-- SLICE_POWER_DOWN: once its virtual output queues and transfer buffer are empty, the copies in its queues
are discarded as SLICE_DOWN, and it powers down (R330); it counts as having reported every epoch (R111). DEDUCED,
log entries 105 and 106. -/
def powerDown (t : TimeState) (d : Dev) (s : Nat) : Dev :=
  if offWanted d s && !d.fp.xfers.any (fun x => x.src == s && !x.dead)
      && !d.fp.frames.any (fun f => portSlice f.port == s && !f.gone && (f.stage != 2 || f.adm != 0 || f.rob)) then
    let d := dropCopies t d (fun x => x.kind != 3 && x.kind != 4 && copySlice x == s && (x.st != 0 || x.chain != 0 || x.spilt))
      (fun d x => if x.void then d else countCopy d 6 x)
    retireLoop 8 t (losePower (memSet (memSet (setSlcState d s 3) .slcReq s 0 0) .slcWake 0 s 0) s)
  else d

/-- SLICE_POWER_UP: the slice is back, filled and reloaded (R330). DEDUCED, log entry 104. -/
def powerUp (d : Dev) (s : Nat) : Dev :=
  if slcState d s = 3 && !tripped d && rdF d (slcBlk s) .slcPwr 63 62 ≠ 2 && rdF d (slcBlk s) .slcPwr 63 62 ≠ 1 then
    reloadSlice (memSet (setSlcState (wrF d (slcBlk s) .slcPwrStat 3 0 7) s 0) .slcWake 0 s 0) s
  else d

/-- REGISTER_FILE_RETENTION: the register file of a napping slice sleeps again (R36). -/
def regsRetained (d : Dev) (s : Nat) : Dev := memSet d .slcReq s 1 0

/-- An access wakes the register file of a napping slice (R36). -/
def regsAwake (d : Dev) (s : Nat) : Dev := if slcState d s = 2 then memSet d .slcReq s 1 1 else d

/-- The power-state controller's block. -/
def pwrBlk : Blk := devBlk .pwr

/-- The stored DEV_STATE: 0 for RUN and IDLE (R331). -/
def sleepState (d : Dev) : Nat := rdF d pwrBlk .pwrStat 2 0

/-- The first cause to refuse SLEEP (R331). -/
def sleepRefusal (d : Dev) : Nat :=
  if (upto 0 64).any (fun s => slcState d s ≤ 1) then 1
  else if d.parts.any (fun e => e.2.saving || e.2.st == 7 || e.2.folding) then 2
  else if twinState d = 3 || d.tw.xfer then 3
  else if crustState d ≠ 0 then 4
  else 0

/-- SLEEP_REQUEST (R331, R343, Table 10.10). -/
def sleepRequest (t : TimeState) (d : Dev) : Dev :=
  let d := wr d pwrBlk .pwrCtrl 1
  if sleepState d ≠ 0 then d
  else
    let r := sleepRefusal d
    let d := wrF d pwrBlk .pwrStat 11 8 r
    if r ≠ 0 then d
    else (hbmStacks d).foldl (stackLost t) (wrF d pwrBlk .pwrStat 2 0 2)

/-- SLEEP_ENTRY_DONE: the stacks are in self-refresh; a RUN request that came meanwhile starts the exit (R332). DEDUCED,
log entry 107. -/
def sleepEntered (d : Dev) : Dev :=
  if sleepState d ≠ 2 then d
  else
    let d := (hbmStacks d).foldl (fun d h => wrF (setCur d ⟨.hbm, h⟩ 0 false) ⟨.hbm, h⟩ .hbmStatus 47 47 1) d
    wrF d pwrBlk .pwrStat 2 0 (if rd d pwrBlk .pwrCtrl = 0 then 4 else 3)

/-- RUN_REQUEST (R332). -/
def runRequest (d : Dev) : Dev :=
  let d := wr d pwrBlk .pwrCtrl 0
  if sleepState d = 3 then wrF d pwrBlk .pwrStat 2 0 4 else d

/-- SLEEP_EXIT_DONE: stacks whose block is enabled are ON again (R332, Table 10.10). DEDUCED, log entry 107. -/
def sleepExited (d : Dev) : Dev :=
  if sleepState d ≠ 4 then d
  else
    let d := (hbmStacks d).foldl (fun d h =>
      let b : Blk := ⟨.hbm, h⟩
      if (blkSt d b).enable && !held d b && !tripped d && memGet d .hbmRefill h 1 = 0 then wrF (setCur d b 2 false) b .hbmStatus 47 47 0 else d) d
    wrF d pwrBlk .pwrStat 2 0 0

end Sys2Proof.Machine
end

