-- ==== Sys2Proof/Machine/Faults.lean ====
section
/-! DEFINITION. The fault collector: classes, escalation, fences, Crust mode, stop, and ALIVE. -/
namespace Sys2Proof.Machine

/-- The fault collector's block. -/
def fltBlk : Blk := devBlk .flt

/-- Stores the collector's working state. -/
def setFlt (d : Dev) (f : FltSt) : Dev := { d with flt := f }

/-- The level at which a class is pending; 0 is not pending (R267). DEDUCED, log entry 111. -/
def pendLevel (d : Dev) (k : Nat) : Nat := SMap.get 0 d.flt.level k % 8

/-- The unit of an event (Table 12.3); none cannot be fenced. -/
def faultUnit (d : Dev) (cls typ inst : Nat) : Option FUnit :=
  match kindOfType typ with
  | none => none
  | some k =>
    if k.count ≤ inst then none
    else match k with
      | .slc => some (.slice inst)
      | .prs => some (.slice inst)
      | .voq => some (.slice inst)
      | .sch => some (.slice inst)
      | .mtr => some (.slice inst)
      | .sds => some (.slice (inst / 16))
      | .mac => some (.slice (inst / 16))
      | .edt => some (.edit inst)
      | .clu => some (.cluster inst)
      | .exm => some (.cluster inst)
      | .lpm => some (.cluster inst)
      | .bpm => some (if cls = 3 then .stack (stackFor d inst).inst else .cluster inst)
      | .fdh => some (.fdh inst)
      | .tcm => some (.tcm inst)
      | .hbm => if stackFor d inst == ⟨.hbm, inst⟩ then some (.stack inst) else none
      | .d2d => some (.link (linkName inst))
      | .cmt => some (.hub 0)
      | .lim => some (.hub 1)
      | .csl => some (.hub 2)
      | .perf => some (.hub 3)
      | _ => none

/-- Slices that a fence of a unit takes. -/
def unitSlices : FUnit → List Nat
  | .slice s => [s]
  | .cluster c => upto (8 * c) 8
  | _ => []

/-- The slices whose members' weights a fence sets to zero. -/
def steeredSlices : FUnit → List Nat
  | .edit s => [s]
  | u => unitSlices u

/-- Units that are fenced. -/
def fencedUnits (d : Dev) : List FUnit := d.flt.fences.map (fun x => x.1)

/-- The fence registers show the fenced units (Table 12.10). -/
def syncFences (d : Dev) : Dev :=
  let l := fencedUnits d
  let mask (f : FUnit → Nat) : Nat := l.foldl (fun m u => m.lor (f u)) 0
  let d := wr d fltBlk .fltFenceSlc (mask (fun u => (unitSlices u).foldl (fun m s => m.lor (2 ^ s)) 0))
  let d := wr d fltBlk .fltFenceEdt (mask (fun u => match u with | .edit s => 2 ^ s | _ => 0))
  let d := wr d fltBlk .fltFenceTcm (mask (fun u => match u with | .tcm b => 2 ^ b | _ => 0))
  let d := wr d fltBlk .fltFenceD2d (mask (fun u => match u with | .link i => 2 ^ i + 2 ^ d2dPeer i | _ => 0))
  wr d fltBlk .fltFenceMisc (mask (fun u => match u with
    | .cluster c => 2 ^ c
    | .stack c => 2 ^ (8 + c)
    | .fdh c => 2 ^ (16 + c)
    | .hub k => 2 ^ (24 + k)
    | _ => 0))

/-- Members of a cluster that name, at VER_CURRENT, a unicast action whose QUEUE lies in a slice (Table 12.4). DEDUCED,
log entry 114. -/
def membersTo (d : Dev) (c s : Nat) : List Nat :=
  let v := verCurrent d
  (seen d v 7 c).filterMap (fun e =>
    match findFirst (fun a => a.key == [fld (e.data.headD 0) 63 46]) (seen d v 5 c) with
    | some a => if imKind a.data = 0 && queueSlice (imQueue a.data) = s then some (e.key.headD 0) else none
    | none => none)

/-- The weights of a slice's members are set to zero, and the previous ones kept. DEDUCED, log entry 114. -/
def zeroWeights (t : TimeState) (d : Dev) (u : FUnit) (s : Nat) : Dev :=
  (upto 0 8).foldl (fun d c => (membersTo d c s).foldl (fun d m =>
    match findFirst (fun x => x.1 == c && x.2.1 == m) d.flt.saved with
    | some _ =>
      let more (x : Nat × Nat × Nat × List FUnit) : Nat × Nat × Nat × List FUnit := (x.1, x.2.1, x.2.2.1, x.2.2.2 ++ [u])
      setFlt d { d.flt with saved := mapIf (fun x => x.1 == c && x.2.1 == m) more d.flt.saved }
    | none =>
      let w := readWeight d c m
      weightWrite t (setFlt d { d.flt with saved := d.flt.saved ++ [(c, m, w, [u])] }) c m 0) d) d

/-- A fence is released: weights that no other fence holds at zero return. DEDUCED, log entry 114. -/
def restoreWeights (t : TimeState) (d : Dev) (u : FUnit) : Dev :=
  let l := d.flt.saved.map (fun x => (x.1, x.2.1, x.2.2.1, x.2.2.2.filter (fun y => y != u)))
  let d := setFlt d { d.flt with saved := l.filter (fun x => x.2.2.2 != []) }
  (l.filter (fun x => x.2.2.2 == [])).foldl (fun d x => weightWrite t d x.1 x.2.1 x.2.2.1) d

/-- What a new fence does to a unit beside holding its blocks (Table 12.4). -/
def fenceActs (t : TimeState) (d : Dev) (u : FUnit) : Dev :=
  let d := match u with
    | .stack h => stackLost t d h
    | .hub k => if k = 2 then cslDown t d true else d
    | _ => d
  let d := (unitSlices u).foldl (sliceFlush t) d
  (steeredSlices u).foldl (fun d s => zeroWeights t d u s) d

/-- A class fences a unit; one that is fenced already is unaffected (R272). DEDUCED, log entry 113. -/
def fenceUnit (t : TimeState) (k : Nat) (d : Dev) (u : FUnit) : Dev :=
  let old := (fencedUnits d).contains u
  let d := setFlt d { d.flt with fences := if d.flt.fences.contains (u, k) then d.flt.fences else d.flt.fences ++ [(u, k)] }
  if old then d
  else
    let d := errSet t (syncFences d) fltBlk 1
    let d := fenceActs t d u
    dropNoPath t ((unitBlocks u).foldl (holdBlock t) d)

/-- The action of L2: the level that follows at once when nothing can be fenced, or nothing would be left (R273).
DEDUCED, log entry 113. -/
def fenceClass (t : TimeState) (d : Dev) (k : Nat) : Dev × Nat :=
  let us := (d.flt.units.filter (fun x => x.1 == k)).map (fun x => x.2)
  if us = [] then (d, 3)
  else if (upto 0 64).all (fun s => (fencedUnits d ++ us).any (fun u => (unitSlices u).contains s)) then (d, 4)
  else (us.foldl (fenceUnit t k) d, 0)

/-- Crust mode is entered (Table 12.5). DEDUCED, log entry 115. -/
def crustEnter (t : TimeState) (d : Dev) : Dev :=
  let d := errSet t (wr d fltBlk .fltCrustCtrl 1) fltBlk 2
  let d := endBatches t d (fun _ => true) 4
  let d := crustUndo t (twinCrust t d)
  let d := (hbmStacks d).foldl (stackLost t) d
  crustBlocks.foldl (holdBlock t) d

/-- The always-on clock count (R277). DESIGN CHOICE, log entry 75. -/
def aonTicks (t : TimeState) : Nat := t.tick / 36 % 2 ^ 48

/-- The device stops (R277): the first class to stop it is recorded, and THERM_TRIP, whenever it comes, takes power from
slices and stacks. DEDUCED, log entry 112. -/
def stopDevice (t : TimeState) (d : Dev) (k : Nat) : Dev :=
    let d := if d.flt.stopped then d
      else wr (setFlt { d with aliveRun := false } { d.flt with stopped := true }) fltBlk .fltStop (2 ^ 63 + k <<< 48 + aonTicks t)
    if k = 9 && !tripped d then
      let d := memSet d .aonKick 0 2 1
      let d := (hbmStacks d).foldl (fun d h => wrF (setCur (stackLost t d h) ⟨.hbm, h⟩ 0 false) ⟨.hbm, h⟩ .hbmStatus 47 47 1) d
      (upto 0 64).foldl (fun d s =>
        if slcState d s = 3 then d
        else losePower (setSlcState (dropCopies t d (fun x => x.kind != 3 && x.kind != 4 && copySlice x == s) (fun d _ => d)) s 3) s) d
    else d

/-- A class enters a level: the record, LEVEL_UP, and the actions up to the level that it has not taken. An
event that starts at L3 or L4 fences nothing, and one that starts at L4 only stops (R267, Table 12.2). DEDUCED, log
entry 112. -/
def enterLevel (t : TimeState) (d : Dev) (k l : Nat) (first : Bool) : Dev :=
  let old := SMap.get 0 d.flt.level k
  let mark' (d : Dev) (l : Nat) : Dev :=
    let d := setFlt d { d.flt with level := SMap.set 0 d.flt.level k (l + (if 2 ≤ l then 8 else 0)) }
    let a := rd d fltBlk .fltRecA k
    let d := wr d fltBlk .fltRecA (putFld a 60 58 (max l (fld a 60 58))) k
    if l ≤ 3 then errSet t d fltBlk 0 else d
  let d := mark' d l
  let (d, up) := if 2 ≤ l && old < 8 && !(first && 3 ≤ l) then fenceClass t d k else (d, 0)
  let l' := max l up
  let d := if l' = l then d else mark' d l'
  let d := if 3 ≤ l' && !(first && l = 4) && (old % 8 < 3 || first) && (crustState d = 0 || crustState d = 3)
    then crustEnter t d else d
  if l' = 4 then stopDevice t d k else d

/-- The class record of an event: the first event's fields, the count, and the latest unit (R270). -/
def recordFault (t : TimeState) (d : Dev) (e : FaultEv) (lvl : Nat) : Dev :=
  let k := e.cls
  let d := (upto (4 * k) 4).foldl (fun d w => writeWord d fltBlk 0 w) d
  let a := rd d fltBlk .fltRecA k
  let n := satAdd 0xFFFF (fld a 47 32) 1
  let d := if bit a 63 then wr d fltBlk .fltRecA (putFld a 47 32 n) k
    else
      let d := wr d fltBlk .fltRecA (2 ^ 63 + b2n e.injected <<< 61 + lvl <<< 55 + 1 <<< 32 + e.typ <<< 16 + e.inst) k
      let d := wr d fltBlk .fltRecB ((t.now.sec % 65536) <<< 48 + t.now.ns) k
      wr d fltBlk .fltRecC ((e.bit % 256) <<< 56 + e.detail % 2 ^ 32) k
  let d := wr d fltBlk .fltRecD (e.typ <<< 48 + e.inst <<< 32 + rdF d fltBlk .fltRecD 2 0 k) k
  wrF d fltBlk .fltStatus k k 1

/-- The collector takes an event (R267, R269). DEDUCED, log entry 112. -/
def collect (t : TimeState) (d : Dev) (e : FaultEv) : Dev :=
  let k := e.cls
  if 24 ≤ k || 4 < e.level || 65535 < e.typ || 65535 < e.inst then d
  else
    let i := max e.level (min 3 (rdF d fltBlk .fltRecD 2 0 k))
    let d := recordFault t d e i
    let p := pendLevel d k
    let units := match faultUnit d k e.typ e.inst with
      | some u => [(k, u)]
      | none => []
    if i = 0 then (if p = 0 then d else setFlt d { d.flt with units := d.flt.units ++ units })
    else if p = 0 then
      let d := setFlt d { d.flt with units := d.flt.units.filter (fun x => x.1 != k) ++ units
                                     level := SMap.erase d.flt.level k }
      enterLevel t d k i true
    else enterLevel t (setFlt d { d.flt with units := d.flt.units ++ units }) k (min 4 (max (p + 1) i)) false

/-- FAULT_EVENT: an event reaches the collector (R266). -/
def faultEvent (t : TimeState) (d : Dev) (e : FaultEv) : Dev :=
  collect t { d with faults := eraseFirst (fun x => x == e) d.faults } e

/-- WINDOW_EXPIRY: timed escalation; windows stop at L4 (R267). -/
def windowExpiry (t : TimeState) (d : Dev) (k : Nat) : Dev :=
  let p := pendLevel d k
  if 1 ≤ p && p ≤ 3 && !d.flt.stopped then enterLevel t d k (p + 1) false else d

/-- FLT_ACK: none when the class is not pending or the level differs (R268). DESIGN CHOICE, log entry 26. DEDUCED, log
entry 111. -/
def faultAck (d : Dev) (w : Nat) : Option Dev :=
  let k := fld w 5 0
  if pendLevel d k ≠ 0 && pendLevel d k = fld w 10 8 then
    some (setFlt d { d.flt with level := SMap.erase d.flt.level k, units := d.flt.units.filter (fun x => x.1 != k) })
  else none

/-- FLT_STATUS: each 1 clears a class that is not pending, and its record; each class that is pending is a
violation of its own (R270). DESIGN CHOICE, log entry 171. -/
def statusClear (t : TimeState) (d : Dev) (w off : Nat) : Dev :=
  (setBits w 24).foldl (fun d k =>
    if pendLevel d k ≠ 0 then violate t d fltBlk 0 3 off
    else
      let d := [Reg.fltRecA, .fltRecB, .fltRecC].foldl (fun d r => wr d fltBlk r 0 k) d
      let d := wr d fltBlk .fltRecD (rdF d fltBlk .fltRecD 2 0 k) k
      wrF d fltBlk .fltStatus k k 0) d

/-- FLT_INJ: an injected event; none for a class of 24 or more, a level above 4, or level 4 without TEST_EN (R271).
DESIGN CHOICE, log entry 26. -/
def faultInject (t : TimeState) (d : Dev) (w : Nat) : Option Dev :=
  let k := fld w 5 0
  let l := fld w 10 8
  if 24 ≤ k || 4 < l || (l = 4 && !bit (rd d (devBlk .boot) .bootStrap) 3) then none
  else some (collect t d ⟨k, l, fld w 47 32, fld w 31 16, 0, 0, true⟩)

/-- The unit that FLT_UNFENCE names (Table 12.10). DEDUCED, log entry 113. -/
def unfenceUnit (w : Nat) : Option FUnit :=
  let i := fld w 5 0
  match fld w 18 16 with
  | 0 => some (.slice i)
  | 1 => some (.edit i)
  | 2 => some (.cluster i)
  | 3 => some (.fdh i)
  | 4 => some (.stack i)
  | 5 => some (.tcm i)
  | 6 => if i < 56 then some (.link (linkName i)) else none
  | _ => some (.hub i)

/-- FLT_UNFENCE: none when the unit is not fenced, or a class that fenced it is pending (R274). DESIGN CHOICE, log entry
26. DEDUCED, log entry 113. -/
def unfence (t : TimeState) (d : Dev) (w : Nat) : Option Dev :=
  match unfenceUnit w with
  | none => none
  | some u =>
    let mine := d.flt.fences.filter (fun x => x.1 == u)
    if mine = [] || mine.any (fun x => pendLevel d x.2 != 0) then none
    else
      let d := syncFences (setFlt d { d.flt with fences := d.flt.fences.filter (fun x => x.1 != u) })
      some (restoreWeights t ((unitBlocks u).foldl releaseBlock d) u)

/-- CRUST_ACTIVE: the entry sequence is over (Table 12.5). DEDUCED, log entry 115. -/
def crustActive (t : TimeState) (d : Dev) : Dev :=
  if crustState d = 1 then errSet t (wr d fltBlk .fltCrustCtrl 2) fltBlk 2 else d

/-- FLT_CRUST_CTRL.EXIT: none unless Crust mode is ACTIVE, no class is pending at L3, and the device has not
stopped (R281). DEDUCED, log entry 115. -/
def crustExit (t : TimeState) (d : Dev) : Option Dev :=
  if crustState d ≠ 2 || d.flt.stopped || d.flt.level.any (fun e => e.2 % 8 == 3) then none
  else
    let d := errSet t (wr d fltBlk .fltCrustCtrl (2 ^ 63 + 3)) fltBlk 2
    some (crustBlocks.foldl releaseBlock d)

/-- CRUST_EXIT_COMPLETE: every released block that is enabled is ON, or 10 ms have passed (R281). DEDUCED, log entry
115. -/
def crustExited (t : TimeState) (d : Dev) (late : Bool) : Dev :=
  if crustState d = 3 && (late || crustBlocks.all (fun b => held d b || !(blkSt d b).enable || isOn d b)) then
    errSet t (wr d fltBlk .fltCrustCtrl 0) fltBlk 2
  else d

/-- ALIVE_TOGGLE (R275). -/
def aliveToggle (d : Dev) : Dev := if d.aliveRun then { d with alive := !d.alive } else d

/-- AON_WDOG_KICK: the watchdog's time starts again (R276). DESIGN CHOICE, log entry 76. -/
def aonKicked (t : TimeState) (d : Dev) : Dev := memSet d .aonKick 0 0 t.tick

/-- AON_WDOG: no kick for 100 microseconds: L4, and every slice clock is gated (R276). DESIGN CHOICE, log entry 76. -/
def aonWatchdog (t : TimeState) (d : Dev) : Dev :=
  collect t (memSet { d with aliveRun := false } .aonKick 0 1 1) ⟨23, 4, (BlkKind.info .pwr).type, 0, 0, 0, false⟩

end Sys2Proof.Machine
end

