-- ==== Sys2Proof/Machine/Mems.lean ====
section
/-! DEFINITION. What a write of each indirect data register does: queue, group, limit, multicast, sampler,
meter, gate and chain records. -/
namespace Sys2Proof.Machine

/-- The bits of a register that a host write may change: its RW and RWL fields. -/
def rwMask (r : Reg) : Nat :=
  (regInfo r).fields.foldl (fun m (f : Field) =>
    if f.acc = .rw || f.acc = .rwl then m.lor ((2 ^ (f.hi + 1 - f.lo) - 1) <<< f.lo) else m) 0

/-- The queue holds an entry, a pool cell or a spill block (R205). -/
def queueBusy (d : Dev) (q : Nat) : Bool :=
  d.fp.copies.any (fun x => x.kind ≤ 2 && x.queue == q) || spilling d q

/-- SCH_Q_DATA of local queue `i` of a slice; none is NOT_PERMITTED (R205, R285). The queue's finish time stays, unless its
word cannot be read (Tables 11.2, 11.3). -/
def writeQueue (d : Dev) (s i w : Nat) : Option Dev :=
  let q := s * 16384 + i
  let w := w.land (rwMask .schQData)
  let old := memGetD d .schQ s i 1
  if (fld old 63 8 ≠ fld w 63 8 && queueBusy d q) || (bit w 63 && (part d (queueOwner d q)).st == 0) then none
  else
    let d := if isUe d ⟨.sch, s⟩ 0 i then setFp d { d.fp with wf := SMap.erase d.fp.wf (q * 4), heads := SMap.erase d.fp.heads (q * 4) } else d
    some (writeWord (memSetD d .schQ s i 1 w) ⟨.sch, s⟩ 0 i)

/-- SCH_G_DATA of a node of a slice: the balance becomes the new burst (R211). DEDUCED, log entry 129. -/
def writeGroup (t : TimeState) (d : Dev) (s n w : Nat) : Dev :=
  let w := w.land (rwMask .schGData)
  let d := writeWord (memSetD d .schG s n 1 w) ⟨.sch, s⟩ 1 n
  setFp d { d.fp with shapes := SMap.set ⟨0, 0⟩ d.fp.shapes (s * 32768 + n)
                                  ⟨((fld w 23 8 * 64 * unitsPerByte : Nat) : Int), t.tick⟩ }

/-- BPM_LIM_DATA of a cluster (Table 8.10). -/
def limMask : Nat → Nat
  | 0 => 2 ^ 57 - 1
  | 1 => 2 ^ 43 - 1
  | _ => 2 ^ 24 - 1

/-- A BPM limit as its pair writes it (Table 8.10, R185). DESIGN CHOICE, log entry 19. -/
def writeLim (d : Dev) (c kind i w : Nat) : Dev :=
  writeWord (memSetD d .bpmLim c (kind * 4096 + i) (limDefault kind) (w.land (limMask kind))) ⟨.bpm, c⟩ 2 (kind * 4096 + i)

/-- BPM_Q_DATA of a queue; the region of a queue in spill state stays (Table 8.12), and so do ON_DIE and
SPILLING, unless their word cannot be read (Tables 11.2, 11.3). DEDUCED, log entry 129. -/
def writeBpmQ (d : Dev) (q w : Nat) : Option Dev :=
  let c := queueCluster q
  let w := w.land (rwMask .bpmQData)
  let old := memGetD d .bpmQ c (q % 131072) (0x40000 <<< 32)
  if spilling d q && fld old 59 56 ≠ fld w 59 56 then none
  else
    let d := if isUe d ⟨.bpm, c⟩ 3 (q % 131072) then setMark d ⟨.bpm, c⟩ 3 (lostCount q) 100 else d
    some (writeWord (memSetD d .bpmQ c (q % 131072) (0x40000 <<< 32) w) ⟨.bpm, c⟩ 3 (q % 131072))

/-- BPM_MCG_DATA, BPM_MCL_DATA, BPM_MIR_DATA and BPM_SMP_DATA of a cluster (Tables 8.13, 8.14). -/
def writeMcg (d : Dev) (c g w : Nat) : Option Dev :=
  let w := w.land (rwMask .bpmMcgData)
  if 131072 < fld w 55 39 + fld w 38 25 then none
  else some (writeWord (memSet d .mcg c g w) ⟨.bpm, c⟩ 4 g)

/-- A multicast list entry as its pair writes it (Table 8.13). -/
def writeMcl (d : Dev) (c e w : Nat) : Dev :=
  writeWord (memSet d .mcl c e (w.land (rwMask .bpmMclData))) ⟨.bpm, c⟩ 4 (65536 + e)

/-- A mirror session as its pair writes it (Table 8.14). -/
def writeMir (d : Dev) (c s w : Nat) : Dev :=
  writeWord (memSet d .mir c s (w.land (rwMask .bpmMirData))) ⟨.bpm, c⟩ 4 (196608 + s)

/-- Base values that Limitur loops keep of what they changed: base + 1, or zero where base and effective value
are the same (R334). Units 0 to 7: member weights of a cluster; 8: IDLE_CLK of slices; 9: WR_CAP of clusters;
16 to 23: samplers of a cluster. -/
def limBase (d : Dev) (unit i dflt : Nat) : Nat :=
  let v := memGet d .limBase unit i
  if v = 0 then dflt else v - 1

/-- The value that an entry had before the first action of a loop on it is held (R337). DEDUCED, log entry 130. -/
def holdBase (d : Dev) (unit i v : Nat) : Dev :=
  if memGet d .limBase unit i = 0 then memSet d .limBase unit i (v + 1) else d

/-- It is held no more (R337). DEDUCED, log entry 130. -/
def clearBase (d : Dev) (unit i : Nat) : Dev := memSet d .limBase unit i 0

/-- A sampler's countdown restarts at N with each write (R201). -/
def setSmp (d : Dev) (c p s w : Nat) : Dev :=
  let w := w.land (rwMask .bpmSmpData)
  let d := memSet (memSet d .smp c (p * 64 + s) w) .smpCount c (p * 64 + s) 0
  writeWord d ⟨.bpm, c⟩ 4 (196672 + p * 64 + s)

/-- A sampler as software writes it: a base value that Limitur held is forgotten (Table 8.14, R337). -/
def writeSmp (d : Dev) (c p s w : Nat) : Dev := clearBase (setSmp d c p s w) (16 + c) (p * 64 + s)

/-- A write for one cluster or, with BCAST, for all eight: none when any of them refuses it. -/
def eachCluster (d : Dev) (bcast : Bool) (c : Nat) (f : Dev → Nat → Option Dev) : Option Dev :=
  (if bcast then upto 0 8 else [c]).foldl (fun (a : Option Dev) c => match a with
    | some d => f d c
    | none => none) (some d)

/-- The meter that entry `i` of a slice's bank is (R212). -/
def bankMeter (s i : Nat) : Nat := s % 8 * 16384 + i

/-- MTR_PROF: the staged rates and bursts apply, the buckets fill, and the charge tick is now (R216). DEDUCED, log entry
129. -/
def writeMeter (t : TimeState) (d : Dev) (s i w : Nat) : Option Dev :=
  let b : Blk := ⟨.mtr, s⟩
  let rate := rd d b .mtrRate
  let burst := rd d b .mtrBurst
  let w := w.land (rwMask .mtrProf)
  let x : Meter := ⟨w, rate, burst, 0, 0, 0⟩
  if (!bit w 62 && x.pir < x.cir) || x.pbs < x.cbs then none
  else
    let d := setMeter d (s / 8) (bankMeter s i) (x.full t.tick)
    some ((upto (meterWord (bankMeter s i) 0) 4).foldl (fun d k => writeWord d b 0 k) d)

/-- SCH_PFC_TH_DATA (Table 9.7). -/
def writePfcTh (d : Dev) (s i w : Nat) : Dev :=
  memSetD d .pfcTh s i (0x40000 <<< 32 + 0x40000) (w.land (rwMask .schPfcThData))

/-- SCH_GATE_ENTRY, SCH_GATE_CYCLE and the two base registers of a list; none for the list in force (R221). -/
def writeGateEntry (d : Dev) (port l i w : Nat) : Option Dev :=
  if (gateOf d port).oper = l then none
  else
    let d := memSetD d .gcl port (l * 256 + i) (0xFF <<< 32) (w.land (rwMask .schGateEntry))
    some (writeWord d ⟨.sch, portSlice port⟩ 2 (gclWord port l i))

/-- A write of a list's length, cycle or base time, refused for the list in force (R220). -/
def writeGateList (d : Dev) (port l k : Nat) (f : GateList → GateList) : Option Dev :=
  if (gateOf d port).oper = l then none
  else some (writeWord (setGateList d port l (f (gateList d port l))) ⟨.sch, portSlice port⟩ 2 (gclHead port l k))

/-- The profile is in use in a slice of the cluster (R75, R88). -/
def profileUsed (d : Dev) (c pr : Nat) : Bool := (upto (8 * c) 8).any (fun s => profileInUse d s pr)

/-- The window of EXM_CHAIN_ADDR after a 64-bit access (Table 4.17). -/
def chainAdvance (a : Nat) : Nat :=
  if bit a 63 then
    let w := fld a 4 0
    if w < 25 then putFld a 4 0 (w + 1) else putFld (putFld a 4 0 0) 10 5 (fld a 10 5 + 1)
  else a

/-- EXM_CHAIN_DATA; none is NOT_PERMITTED (R88). -/
def writeChain (d : Dev) (c w : Nat) : Option Dev :=
  let b : Blk := ⟨.exm, c⟩
  let a := rd d b .exmChainAddr
  let pr := fld a 10 5
  let i := fld a 4 0
  let res := i % 2 == 1
  if 25 < i || profileUsed d c pr || (res && (fld w 63 60 == 3 || 5 ≤ fld w 63 60))
      || (!res && i ≠ 0 && 78 < fld w 50 44) then none
  else
    let d := writeWord (memSet d .exmChain c (pr * 32 + i) w) b 5 (256 + pr * 32 + i)
    some (wr d b .exmChainAddr (chainAdvance a))

/-- The table has entries in the cluster, pending ones among them. -/
def tableHeld (d : Dev) (c tid : Nat) : Bool :=
  d.entries.any (fun e => (e.kind == 0 || (2 ≤ e.kind && e.kind ≤ 4)) && e.cluster == c && e.tid == tid)

/-- A chain of a profile in use references the table (R88). -/
def tableNamed (d : Dev) (c tid : Nat) : Bool :=
  (upto 0 64).any (fun pr => profileUsed d c pr &&
    ((bit (memGet d .exmChain c (pr * 32)) 63 && fld (memGet d .exmChain c (pr * 32)) 55 48 == tid)
      || (upto 1 12).any (fun i =>
        let w := memGet d .exmChain c (pr * 32 + 2 * i)
        bit w 63 && fld w 62 55 == tid)))

/-- The TCAM blocks of a directory word run past block 7, or into those of another valid TCAM table. -/
def blocksClash (d : Dev) (c tid w : Nat) : Bool :=
  dirBlocks w = 0 || 8 < dirFirst w + dirBlocks w ||
    (upto 0 256).any (fun k => k != tid &&
      (let e := memGet d .exmDir c k
       bit e 63 && fld e 62 60 == 3 && overlap (dirFirst w) (dirBlocks w) (dirFirst e) (dirBlocks e)))

/-- EXM_DIR_DATA; none is NOT_PERMITTED (R88, Table 4.16). -/
def writeDir (d : Dev) (c w : Nat) : Option Dev :=
  let b : Blk := ⟨.exm, c⟩
  let tid := rdF d b .exmDirAddr 7 0
  let w := w.land (rwMask .exmDirData)
  let old := memGet d .exmDir c tid
  let moved := fld old 63 59 ≠ fld w 63 59 || fld old 51 45 ≠ fld w 51 45
  if 4 ≤ fld w 62 60 || (bit w 63 && fld w 62 60 == 3 && blocksClash d c tid w)
      || (moved && (tableHeld d c tid || tableNamed d c tid)) then none
  else some (writeWord (memSet d .exmDir c tid w) b 5 tid)

/-- Some partition's member range that is frozen holds the member (R124). -/
def memberFrozen (d : Dev) (m : Nat) : Bool :=
  d.parts.any (fun e => e.1 != 0 && e.2.st == 6 && inRange d e.1 2 m)

/-- EXM_WGT_DATA: none for a member of a frozen partition. A weight that software writes is the weight, whatever a
fence had kept (R99, R124). -/
def writeWeight (t : TimeState) (d : Dev) (c w : Nat) : Option Dev :=
  let a := rd d ⟨.exm, c⟩ .exmWgtAddr
  let m := fld a 18 0
  if memberFrozen d m then none
  else
    let go (d : Dev) (c : Nat) : Dev :=
      weightWrite t (setFlt (clearBase d c m) { d.flt with saved := d.flt.saved.filter (fun x => !(x.1 == c && x.2.1 == m)) }) c m (w % 256)
    some ((if bit a 63 then upto 0 8 else [c]).foldl go d)

end Sys2Proof.Machine
end

