-- ==== Sys2Proof/Machine/Image.lean ====
section
/-! DEFINITION. Partition images: how a save writes one, and how a restore checks and applies one. -/
namespace Sys2Proof.Machine

/-- The partition table's block. -/
def partBlk : Blk := devBlk .part

/-- A section of an image: TYPE, CLUSTER (15 for all), and its records as words (Tables 13.8, 13.9). -/
structure Sect where
  typ  : Nat
  clu  : Nat
  recs : List (List Nat)
  deriving DecidableEq, Repr

/-- Words of a record of each section type. -/
def recWords : Nat → Nat
  | 1 => 4 | 2 => 16 | 3 => 4 | 4 => 4 | 5 => 22 | 6 => 9 | 7 => 2 | 8 => 2 | 9 => 3 | 10 => 2 | 11 => 6
  | 12 => 2 | 13 => 2 | 14 => 1 | 15 => 2 | _ => 0

/-- The section of a list of records; none when there is no record. -/
def sect (typ clu : Nat) (l : List (List Nat)) : List Sect := if l = [] then [] else [⟨typ, clu, l⟩]

/-- The record of an entry: its image, and the index before it for index kinds. -/
def entryRec (e : Entry) : List Nat :=
  if e.kind < 5 then entryImage e
  else if e.kind = 7 then [e.key.headD 0, putFld (e.data.getD 0 0) 45 38 (e.data.getD 1 0)]
  else e.key.headD 0 :: entryImage e

/-- Sections 1 to 8: the entries that FROZEN_VERSION sees. DESIGN CHOICE, log entry 126. -/
def tableSects (d : Dev) (p : Nat) : List Sect :=
  let l := partEntries d (part d p).frozenVer p
  (upto 0 8).flatMap (fun k =>
    let mine := l.filter (fun e => e.kind == k)
    sect (k + 1) 15 ((mine.filter (fun e => replicatedTable d e && e.cluster == 0)).map entryRec)
      ++ (upto 0 8).flatMap (fun c =>
        sect (k + 1) c ((mine.filter (fun e => !replicatedTable d e && e.cluster == c)).map entryRec)))

/-- The queues and the ports that a partition owns. -/
def ownQueues (d : Dev) (p : Nat) : List Nat :=
  ((upto 0 16384).filter (fun b => memGet d .partQown 0 b == p)).flatMap (fun b => upto (64 * b) 64)
def ownPorts (d : Dev) (p : Nat) : List Nat :=
  (upto 0 1024).filter (fun l => memGet d .partPort 0 l == p && portWidth d l != 0)

/-- Stored records of a queue. -/
def rawQueue (d : Dev) (q : Nat) : Nat := memGetD d .schQ (queueSlice q) (q % 16384) 1
def rawBpmQ (d : Dev) (q : Nat) : Nat := memGetD d .bpmQ (queueCluster q) (q % 131072) (0x40000 <<< 32)

/-- Meters that a partition owns: cluster and number. -/
def ownMeters (d : Dev) (p : Nat) : List (Nat × Nat × Meter) :=
  d.fp.meters.filterMap (fun e => if e.2.valid && e.2.owner == p then some (e.1 / 131072, e.1 % 131072, e.2) else none)

/-- Packets and bytes of a counter index in a cluster: the pair, and what waits in accumulators and flushes. -/
def pendPair (d : Dev) (c i : Nat) (delta : Bool) : Nat × Nat :=
  let l := (d.fc.acc ++ d.fc.flush).filter (fun a => a.cluster == c && a.index == i && a.delta == delta)
  ((l.map (fun a => a.pkts)).sum, (l.map (fun a => a.bytes)).sum)
def pairNow (d : Dev) (c i : Nat) (delta : Bool) : Nat :=
  let x := pendPair d c i delta
  pairAdd (SMap.get 0 (if delta then d.fc.deltas else d.fc.pairs) (pairKey c i)) x.1 x.2

/-- The first index and the count of a range. -/
def rangeBase (d : Dev) (p k : Nat) : Nat := fld (rangeOf d p k) 31 0
def rangeCount (d : Dev) (p k : Nat) : Nat := fld (rangeOf d p k) 63 32

/-- COUNTER and DELTA sections: record i is index base + i. -/
def counterSects (d : Dev) (p : Nat) (delta : Bool) : List Sect :=
  (upto 0 8).flatMap (fun c =>
    sect (if delta then 13 else 12) c ((upto (rangeBase d p 3) (rangeCount d p 3)).map (fun i =>
      let v := pairNow d c i delta
      [v % 2 ^ 64, v / 2 ^ 64])))

/-- Limits of KIND 0 and 3 for the partition's ports, and of KIND 1 for itself. -/
def limitSects (d : Dev) (p : Nat) : List Sect :=
  (upto 0 8).flatMap (fun c =>
    let ixs := ((ownPorts d p).filter (fun l => portCluster l == c)).flatMap (fun l => upto (8 * (l % 128)) 8)
    let one (k i : Nat) : List (List Nat) :=
      let v := memGetD d .bpmLim c (k * 4096 + i) (limDefault k)
      if v = limDefault k then [] else [[k <<< 12 + i, v]]
    sect 15 c (ixs.flatMap (one 0) ++ one 1 p ++ ixs.flatMap (one 3)))

/-- Sections 9 to 15. DEDUCED, log entry 125. -/
def otherSects (t : TimeState) (d : Dev) (p : Nat) : List Sect :=
  let qs := (ownQueues d p).filter (fun q => rawQueue d q != 1 || rawBpmQ d q != 0x40000 <<< 32)
  let gs := (ownPorts d p).flatMap (fun l => (upto (l % 16 * 2048) 2048).filterMap (fun n =>
    let v := memGetD d .schG (portSlice l) n 1
    if v = 1 then none else some [portSlice l <<< 16 + n, v]))
  sect 9 15 (qs.map (fun q => [q, rawQueue d q, rawBpmQ d q]))
    ++ sect 10 15 gs
    ++ sect 11 15 ((ownMeters d p).map (fun m =>
        let x := meterRefill m.2.2 t.tick
        [m.1 <<< 17 + m.2.1, x.rate, x.burst, x.prof, x.tc, x.tp]))
    ++ counterSects d p false ++ counterSects d p true
    ++ (upto 0 8).flatMap (fun c =>
        let l := (upto 1 63).map (fun s => [memGet d .smp c (p * 64 + s)])
        if l.all (fun w => w == [0]) then [] else sect 14 c l)
    ++ limitSects d p

/-- CRC-32C of image bytes (R301). -/
def imgCrc (l : List Byte) : Nat := crc32c 0xFFFFFFFF l

/-- A section's bytes: its records, and the CRC after them. DESIGN CHOICE, log entry 126. -/
def sectBytes (s : Sect) : List Byte :=
  let b := wordBytes s.recs.flatten
  b ++ wordBytes [imgCrc b]

/-- The directory, section by section from an offset. -/
def dirBytes : Nat → List Sect → List Byte
  | _, [] => []
  | off, s :: l => wordBytes [s.typ <<< 56 + s.clu <<< 52 + s.recs.length <<< 24, off <<< 24]
      ++ dirBytes (off + (sectBytes s).length) l

/-- The image of a partition: header words H0 to H7 and what follows (Tables 13.7 to 13.9). DESIGN CHOICE, log entry
126. -/
def buildImage (t : TimeState) (d : Dev) (p kind : Nat) : List Byte :=
  let x := part d p
  let l := if kind = 1 then counterSects d p true else tableSects d p ++ otherSects t d p
  let body := dirBytes (64 + 16 * l.length) l ++ l.flatMap sectBytes
  let hs := [0x5059494D <<< 32 + 1 <<< 24 + 0xB0 <<< 16 + p <<< 4 + b2n x.mode <<< 3 + kind <<< 1,
    x.imageId <<< 32 + x.frozenVer, 64 + body.length, l.length <<< 48,
    rangeBase d p 0 <<< 46 + rangeBase d p 1 <<< 30 + rangeBase d p 2 <<< 11, rangeBase d p 3 <<< 40, 0]
  wordBytes hs ++ wordBytes [imgCrc (wordBytes hs)] ++ body

/-- KiB of the image area of a cluster's share (R237). -/
def areaKib (d : Dev) (c : Nat) : Nat :=
  let h := stackFor d c
  tableGib d h * 2 ^ 20 / (served d h.inst).length - 1572864

/-- Word `i` of an image. -/
def imgWord (l : List Byte) (i : Nat) : Nat := leNat (bytesAt l (8 * i) 8)

/-- One section by its directory entry; none when it does not lie in the image or its CRC is wrong. -/
def readSect (l : List Byte) (i : Nat) : Option Sect :=
  let d0 := imgWord l (8 + 2 * i)
  let off := fld (imgWord l (9 + 2 * i)) 63 24
  let typ := fld d0 63 56
  let n := fld d0 51 24
  let len := n * recWords typ * 8
  if recWords typ = 0 || off % 8 ≠ 0 || (8 ≤ fld d0 55 52 && (fld d0 55 52 ≠ 15 || 12 ≤ typ)) || l.length < off + len + 8 then none
  else
    let b := bytesAt l off len
    if fld (imgWord l ((off + len) / 8)) 31 0 ≠ imgCrc b then none
    else some ⟨typ, fld d0 55 52, (upto 0 n).map (fun k => leWords (b.drop (k * recWords typ * 8)) (recWords typ))⟩

/-- The sections of an image whose header and every CRC are right. -/
def readImage (l : List Byte) : Option (List Sect) :=
  let h := imgWord l 0
  let n := fld (imgWord l 3) 63 48
  if l.length < 64 || fld h 63 32 ≠ 0x5059494D || fld h 31 24 ≠ 1 || 2 ≤ fld h 2 1 || l.length < imgWord l 2
      || imgWord l 2 < 64 + 16 * n || fld (imgWord l 7) 31 0 ≠ imgCrc (l.take 56) then none
  else
    let r := (upto 0 n).map (readSect (l.take (imgWord l 2)))
    if r.any (fun x => x.isNone) then none else some (r.filterMap id)

/-- Bases of an image's ranges: action, group, member, counter. -/
def imgBase (l : List Byte) : Nat → Nat
  | 0 => fld (imgWord l 4) 63 46
  | 1 => fld (imgWord l 4) 45 30
  | 2 => fld (imgWord l 4) 29 11
  | _ => fld (imgWord l 5) 63 40

/-- An index of kind `k` rebased to partition `p`; none when it leaves the range (R302). -/
def rebase (d : Dev) (p : Nat) (l : List Byte) (k i : Nat) : Option Nat :=
  if i < imgBase l k then none
  else
    let j := i - imgBase l k + rangeBase d p k
    if inRange d p k j then some j else none

/-- A field of a word rebased. -/
def rebaseFld (d : Dev) (p : Nat) (l : List Byte) (k hi lo w : Nat) : Option Nat :=
  (rebase d p l k (fld w hi lo)).map (fun j => putFld w hi lo j)

/-- A result word, and a counter index, rebased. -/
def rebaseRes (d : Dev) (p : Nat) (l : List Byte) (w : Nat) : Option Nat :=
  match fld w 63 60 with
  | 1 => rebaseFld d p l 0 17 0 w
  | 2 => rebaseFld d p l 1 15 0 w
  | _ => some w

/-- A counter index of an entry, moved with its range; none stays none (R302). -/
def rebaseCtr (d : Dev) (p : Nat) (l : List Byte) (w : Nat) : Option Nat :=
  if fld w 23 0 = 0xFFFFFF then some w else rebaseFld d p l 3 23 0 w

/-- Words `i` of a record replaced by what a function makes of them. -/
def onWord (r : List Nat) (i : Nat) (f : Nat → Option Nat) : Option (List Nat) := (f (r.getD i 0)).map (fun v => r.set i v)

/-- A record of sections 1 to 8 and 12, 13 rebased; none is RANGE. DEDUCED, log entry 125. -/
def rebaseRec (d : Dev) (p : Nat) (l : List Byte) (typ : Nat) (r : List Nat) : Option (List Nat) :=
  let two (i j : Nat) : Option (List Nat) := (onWord r i (rebaseRes d p l)).bind (fun r => onWord r j (rebaseCtr d p l))
  match typ with
  | 1 => two 2 3
  | 2 => two 6 7
  | 3 => onWord r 2 (rebaseRes d p l)
  | 4 => onWord r 2 (rebaseRes d p l)
  | 5 => two 20 21
  | 6 => onWord r 0 (rebase d p l 0)
  | 7 => (onWord r 0 (rebase d p l 1)).bind (fun r => (onWord r 1 (rebaseFld d p l 2 63 45)).bind (fun r =>
      if inRange d p 2 (fld (r.getD 1 0) 63 45 + fld (r.getD 1 0) 44 37) then some r else none))
  | 8 => (onWord r 0 (rebase d p l 2)).bind (fun r => onWord r 1 (rebaseFld d p l 0 63 46))
  | _ => some r

/-- The action image that a record carries. -/
def recImage (typ : Nat) (r : List Nat) : Option Nat :=
  if typ = 6 then some (r.getD 1 0)
  else if typ = 2 && fld (r.getD 6 0) 63 60 = 3 then some (r.getD 8 0)
  else none

/-- Queues, ports, meters and multicast groups of a record are the partition's. -/
def recOwned (d : Dev) (p : Nat) (s : Sect) (r : List Nat) : Bool :=
  let w (i : Nat) := r.getD i 0
  let port (l : Nat) : Bool := memGet d .partPort 0 l == p
  match s.typ with
  | 9 => queueOwner d (fld (w 0) 19 0) == p
  | 10 => port (fld (w 0) 21 16 * 16 + fld (w 0) 14 11)
  | 11 => (meterOf d (fld (w 0) 19 17) (fld (w 0) 16 0)).owner == p
  | 15 => fld (w 0) 13 12 == 1 || port (s.clu * 128 + fld (w 0) 9 3)
  | k => match recImage k r with
    | some a => (fld a 31 30 != 0 || queueOwner d (fld a 63 44) == p) && (fld a 31 30 != 1 || inRange d p 5 (fld a 15 0))
    | none => true

/-- The programs of a record are ACTIVE and in the partition's range. -/
def recProg (d : Dev) (p typ : Nat) (r : List Nat) : Bool :=
  match recImage typ r with
  | some a => progState d (fld a 43 32) == 1 && inRange d p 4 (fld a 43 32)
  | none => true

/-- The change that a record of sections 1 to 8 makes. -/
def recChange (s : Sect) (r : List Nat) : RepChange :=
  let kind := s.typ - 1
  let tid := match s.typ with
    | 2 => 0 | 5 => fld (r.getD 21 0) 63 56 | 6 => 0 | 7 => 0 | 8 => 0 | _ => fld (r.getD 3 0) 63 56
  let ix := if 6 ≤ s.typ then r.headD 0 else 0
  let cm := if s.clu = 15 then 0xFF else 2 ^ s.clu
  ⟨[0, (if 6 ≤ s.typ then 3 else 0) <<< 60 + kind <<< 56 + tid <<< 48 + cm <<< 40 + ix, 0, 0, 0, 0, 0, 0],
   wordBytes (if 6 ≤ s.typ then r.drop 1 else r)⟩

/-- The table of a change exists, and is of its kind, on this device. -/
def changeTable (d : Dev) (x : RepChange) : Bool :=
  let w := x.words.getD 1 0
  match changeClusters d (fld w 59 56) (fld w 55 48) (fld w 47 40) with
  | .ok _ => true
  | .error _ => false

/-- The rebased sections of an image; none is RANGE. -/
def rebased (d : Dev) (p : Nat) (l : List Byte) (ss : List Sect) : Option (List Sect) :=
  let one (s : Sect) : Option Sect :=
    let rs := s.recs.map (rebaseRec d p l s.typ)
    if rs.any (fun r => r.isNone) then none
    else if (s.typ = 12 || s.typ = 13) && (s.recs != [] && ((rebase d p l 3 (imgBase l 3)).isNone
        || (rebase d p l 3 (imgBase l 3 + s.recs.length - 1)).isNone)) then none
    else some { s with recs := rs.filterMap id }
  let r := ss.map one
  if r.any (fun s => s.isNone) then none else some (r.filterMap id)

/-- The changes of the sections 1 to 8. -/
def sectChanges (ss : List Sect) : List RepChange :=
  (ss.filter (fun s => s.typ ≤ 8)).flatMap (fun s => s.recs.map (recChange s))

/-- Stage 1 of a full restore in the order of Table 13.3, after CREATE's checks: the status. DEDUCED, log entry 125. -/
def checkFull (d : Dev) (p : Nat) (l : List Byte) : Nat :=
  match readImage l with
  | none => 6
  | some ss =>
    if fld (imgWord l 0) 2 1 ≠ 0 then 1
    else if fld (imgWord l 0) 23 16 ≠ 0xB0 then 7
    else if ss.any (fun s => s.recs.any (fun r => !recOwned d p s r)) then 8
    else match rebased d p l ss with
      | none => 9
      | some rs =>
        if ss.any (fun s => s.recs.any (fun r => !recProg d p s.typ r)) then 10
        else if (sectChanges rs).any (fun x => !changeTable d x) then 14
        else 0

/-- The checks of a delta restore (R303). -/
def checkDelta (d : Dev) (p : Nat) (l : List Byte) : Nat :=
  match readImage l with
  | none => 6
  | some ss =>
    if fld (imgWord l 0) 2 1 ≠ 1 then 1
    else if fld (imgWord l 1) 63 32 ≠ (part d p).imageId then 6
    else if fld (imgWord l 0) 23 16 ≠ 0xB0 then 7
    else if (rebased d p l ss).isNone then 9
    else 0

/-- A counter pair or a delta slot is written; what waited for it goes. -/
def putPair (d : Dev) (c i : Nat) (delta : Bool) (v : Nat) : Dev :=
  let keep (a : Acc) : Bool := !(a.cluster == c && a.index == i && a.delta == delta)
  putCtr (setFc d { d.fc with acc := d.fc.acc.filter keep, flush := d.fc.flush.filter keep }) c i delta v

/-- Words of a partition's counters, or of their slots of the delta log, in a cluster: the first, and how many. -/
def ctrRange (d : Dev) (p c : Nat) (delta : Bool) : Nat × Nat :=
  ((ctrWords d c (rangeBase d p 3) delta).headD 0, 2 * rangeCount d p 3)

/-- The counters of a partition other than 0, or its delta log, are zero in every cluster, with what waited for them. -/
def zeroCtrs (d : Dev) (p : Nat) (delta : Bool) : Dev :=
  if p = 0 then d
  else
    let mine (k : Nat) : Bool := inRange d p 3 (k % 2 ^ 24)
    let keep (a : Acc) : Bool := !(a.delta == delta && inRange d p 3 a.index)
    let d := (upto 0 8).foldl (fun d c =>
      let x := ctrRange d p c delta
      writeSpan d (stackFor d c) 0 x.1 x.2) d
    let f := { d.fc with acc := d.fc.acc.filter keep, flush := d.fc.flush.filter keep
                         ues := d.fc.ues.filter (fun k => !(mine k && (2 ^ 27 ≤ k) == delta)) }
    setFc d (if delta then { f with deltas := SMap.drop mine f.deltas } else { f with pairs := SMap.drop mine f.pairs })

/-- A save reads the counters of a partition, or its delta log: the uncorrectable words are reported, and what stands
in the image for their pairs is open. The first state is the one the image shows. DESIGN CHOICE, log entry 161. -/
def saveView (t : TimeState) (d : Dev) (p : Nat) (delta : Bool) : Dev × Dev :=
  (upto 0 8).foldl (fun s c =>
    let x := ctrRange s.2 p c delta
    let (bad, d) := readSpan t s.2 (stackFor s.2 c) 0 x.1 x.2 (some 1)
    bad.foldl (fun s w =>
      let (a, d) := fresh s.2
      let k := pairKey c (rangeBase d p 3 + (w - x.1) / 2)
      (setFc s.1 (if delta then { s.1.fc with deltas := SMap.set 0 s.1.fc.deltas k a } else { s.1.fc with pairs := SMap.set 0 s.1.fc.pairs k a }),
        d)) (s.1, d)) (d, d)

/-- What a save shows: a delta image the delta log alone, a full one the counters and the delta log. -/
def saveViews (t : TimeState) (d : Dev) (p kind : Nat) : Dev × Dev :=
  let (view, d) := saveView t d p (kind == 1)
  if kind = 1 then (view, d)
  else
    let (v, d) := saveView t d p true
    ({ view with fc := { view.fc with deltas := v.fc.deltas } }, d)

/-- A record of sections 9 to 15 is written; record `n` of its section (R302). -/
def applyRec (t : TimeState) (p : Nat) (s : Sect) (d : Dev) (nr : Nat × List Nat) : Dev :=
  let w (i : Nat) := nr.2.getD i 0
  match s.typ with
  | 9 =>
    let q := fld (w 0) 19 0
    let d := (writeQueue d (queueSlice q) (q % 16384) (w 1)).getD d
    (writeBpmQ d q (w 2)).getD d
  | 10 => writeGroup t d (fld (w 0) 21 16) (fld (w 0) 14 0) (w 1)
  | 11 =>
    let prof := putFld (w 3) 55 44 p
    let d := setMeter d (fld (w 0) 19 17) (fld (w 0) 16 0) ⟨prof, w 1, w 2, w 4, w 5, t.tick⟩
    let m := fld (w 0) 16 0
    (upto (meterWord m 0) 4).foldl (fun d k => writeWord d ⟨.mtr, meterSlice (fld (w 0) 19 17) m⟩ 0 k) d
  | 12 => putPair d s.clu (rangeBase d p 3 + nr.1) false (w 0 + w 1 * 2 ^ 64)
  | 13 => putPair d s.clu (rangeBase d p 3 + nr.1) true (w 0 + w 1 * 2 ^ 64)
  | 14 => writeSmp d s.clu p (nr.1 + 1) (w 0)
  | 15 =>
    let k := fld (w 0) 13 12
    writeLim d s.clu k (if k = 1 then p else fld (w 0) 11 0) (w 1)
  | _ => d

/-- Stage 4: every record of sections 9 to 15. -/
def applyRegs (t : TimeState) (d : Dev) (p : Nat) (ss : List Sect) : Dev :=
  (ss.filter (fun s => 9 ≤ s.typ)).foldl (fun d s =>
    ((upto 0 s.recs.length).zip s.recs).foldl (applyRec t p s) d) d

/-- A delta restore adds each delta to its slot (R303). -/
def addDeltas (d : Dev) (p : Nat) (ss : List Sect) : Dev :=
  (ss.filter (fun s => s.typ == 13 && s.clu < 8)).foldl (fun d s =>
    ((upto 0 s.recs.length).zip s.recs).foldl (fun d nr =>
      let i := rangeBase d p 3 + nr.1
      putPair d s.clu i true (pairAdd (pairNow d s.clu i true) (nr.2.getD 0 0) (nr.2.getD 1 0))) d) d

end Sys2Proof.Machine
end

