-- ==== Sys2Proof/Machine/Parts.lean ====
section
/-! DEFINITION. Partitions: ownership, ranges, and the commands of PART_CMD. -/
namespace Sys2Proof.Machine

/-- The word of a field group of a partition's record, in memory 0 of PART (R306). DESIGN CHOICE, log entry 162. -/
def partWord (p k : Nat) : Nat := 16 * p + k

/-- PART_CMD_RES (Table 13.10). DEDUCED, log entry 123. -/
def partResult (d : Dev) (final : Bool) (status op p : Nat) : Dev :=
  wr d partBlk .partCmdRes (2 ^ 63 + b2n final <<< 62 + status <<< 56 + op <<< 16 + p)

/-- A command that ran on ends: FINAL, and PART_DONE for the manager (R290). DEDUCED, log entry 123. -/
def partEnd (t : TimeState) (d : Dev) (status op p : Nat) : Dev :=
  eventMgr t (partResult (writeWord d partBlk 0 (partWord p 15)) true status op p) 0x03 0 (status <<< 60 + op <<< 16 + p) 0 0

/-- Rings of a kind that no partition holds: the pools hold 16,384, 4,096 and 16,384 (R287). DEDUCED, log entry 128. -/
def poolRings (d : Dev) (k : RingKind) : Nat :=
  let held := ((d.parts.filter (fun e => e.1 != 0 && e.2.st != 0)).map (fun e => ringsHeld d e.1 k)).sum
  (if k = .event then 4096 else 16384) - ringsHeld d 0 k - held

/-- PART_POOL. -/
def poolWord (d : Dev) : Nat := poolRings d .command <<< 32 + poolRings d .event <<< 16 + poolRings d .spore

/-- PART_STATE bits 11:0: MODE, TRANS, SAVING, FOLDING and STATE. -/
def partFlags (x : Part) : Nat :=
  b2n x.mode <<< 11 + b2n x.trans <<< 10 + b2n x.saving <<< 9 + b2n x.folding <<< 8 + x.st

/-- PART_STATE. -/
def partState (x : Part) : Nat := (if x.st = 6 then x.frozenVer <<< 32 else 0) + partFlags x

/-- Table 13.2: the command may be given in the partition's state. Codes of Table 13.3. -/
def partAllows (x : Part) : Nat → Bool
  | 1 => x.st == 0
  | 2 => x.st == 5
  | 3 => x.st == 1
  | 4 => x.st == 1 || x.st == 2 || x.st == 3 || x.st == 6
  | 5 => x.st == 3 || x.st == 5
  | 6 => x.st == 1 && !x.folding
  | 7 => x.st == 6 && !x.saving
  | 8 => x.st == 0 || (x.st == 6 && !x.saving)
  | 9 => x.st == 6 && !x.saving
  | _ => (x.st == 1 || x.st == 6) && !x.trans

/-- The status with which a command is accepted or refused (R289). DEDUCED, log entry 33. -/
def partStatus (d : Dev) (p op : Nat) : Nat :=
  if p = 0 && op ≠ 10 then 4
  else if (op = 6 || op = 7 || op = 8 || op = 10) && crustState d ≠ 0 then 3
  else if !partAllows (part d p) op then 1
  else 0

/-- CREATE's checks: NO_RESOURCE, then NO_PASID (R286, R287). DEDUCED, log entry 33. -/
def createCheck (d : Dev) (p : Nat) : Nat :=
  if [RingKind.command, .event, .spore].any (fun k => poolRings d k < ringsHeld d p k) then 2
  else if !bit (part d p).pasid 63 then 5
  else 0

/-- The counters of a partition in the CLU and FDH blocks become zero (R354). -/
def zeroPartCtrs (d : Dev) (p : Nat) : Dev :=
  { d with ctr := SMap.drop (fun k => k % 16384 == p &&
      (k / 16384 / 128 / 2048 == kindIx .clu || k / 16384 / 128 / 2048 == kindIx .fdh)) d.ctr }

/-- CREATE of a FREE partition: its status first. -/
def partCreate (t : TimeState) (d : Dev) (p : Nat) : Dev :=
  let d := zeroPartCtrs (setPart d p { part d p with st := 1 }) p
  partEnd t d 0 1 p

/-- The zero-byte read that orders what the partition wrote before it (Table 13.5, step 6). -/
def drainWrites (d : Dev) (p : Nat) : Dev :=
  send d (.dmaRead p (if bit (part d p).pasid 63 then some (fld (part d p).pasid 19 0) else none) 0 0)

/-- QUIESCE (R295). DEDUCED, log entry 121. -/
def partQuiesce (d : Dev) (p : Nat) : Dev := stopRings (setPart d p { part d p with st := 2 }) p 3 false

/-- Some descriptor of the partition is fetched and not complete. -/
def partDescs (d : Dev) (p : Nat) : Bool := d.rings.any (fun e => e.1 / 64 == p && e.2.descs.any (fun c => c.done.isNone))

/-- QUIESCED: none of the partition's work remains (R295). DEDUCED, log entry 121. -/
def partQuiesced (t : TimeState) (d : Dev) (p : Nat) : Dev :=
  if (part d p).st ≠ 2 || partWork d p || partDescs d p then d
  else
    let d := stopRings (setPart (drainWrites d p) p { part d p with st := 3 }) p 3 true
    partEnd t d 0 3 p

/-- Delta counts of a partition, in its slots and on their way to them, are dropped (R298). -/
def dropDeltas (d : Dev) (p : Nat) : Dev := zeroCtrs d p true

/-- RESET, steps 1 to 4 of Table 13.5; in DRAIN mode the queued work leaves until DRAIN_US has passed. DEDUCED, log
entry 121. -/
def partReset (t : TimeState) (d : Dev) (p : Nat) : Dev :=
  let x := part d p
  let d := if x.st = 6 then dropDeltas d p else d
  let drain := bit x.rst 0
  let d := setPart d p { x with st := 4, saving := false, job := [], imgHead := none, found := 0,
                                run := some ⟨!drain, false⟩ }
  let d := endBatches t (partUndo t (stopRings d p 3 false) p) (fun q => q == p) 2
  let d := partHeld t d p
  if drain then d else partFlush t d p

/-- Completion word 1 of a descriptor that a reset ends, by its opcode. DEDUCED, log entry 122. -/
def abortWord (ws : List Nat) : Nat :=
  match opOf ws with
  | 0x10 => 6 <<< 60
  | 0x30 => 4 <<< 60
  | 0x00 => 0
  | 0x28 => 0
  | 0x29 => 0
  | _ => cmtWord 2 0 false false 0 0

/-- A version has been assigned to the descriptor's batch: it ends with DONE, a synchronous one with the twin's
acknowledgement (R123, R124). -/
def inVersion (d : Dev) (p r n : Nat) : Bool :=
  d.cmt.batches.any (fun b => !b.internal && b.part == p && b.ring == r && 3 ≤ b.state
    && (b.desc == n || b.changes.any (fun c => c.n == n)))
    || d.tw.sent.any (fun x => x.sync && x.part == p && x.ring == r && x.desc == n)

/-- Step 5: fetched descriptors that are not complete end with ABORTED_BY_RESET. DEDUCED, log entry 122. -/
def abortDescs (d : Dev) (p : Nat) : Dev :=
  let d1 := (upto 0 16).foldl (fun d r =>
    (ring d .command p r).descs.foldl (fun d c =>
      if c.done.isNone && !inVersion d p r c.n then completeDesc d p r c.n 0 (abortWord c.words) else d) d) d
  { d1 with cmt := { d1.cmt with drainWaits := d1.cmt.drainWaits.filter (fun x => x.1 != p)
                                 stalls := d1.cmt.stalls.filter (fun x => x.part != p) } }

/-- RESET_DONE: steps 4 to 7 (R296). DEDUCED, log entry 121. -/
def partResetDone (t : TimeState) (d : Dev) (p : Nat) : Dev :=
  match (part d p).run with
  | none => d
  | some r =>
    let d := if r.drained then partFlush t d p else d
    let d := partHeld t d p
    if partWork d p then d
    else
      let d := abortDescs d p
      if partDescs d p then d
      else
        let d := stopRings (drainWrites d p) p 3 true
        partEnd t (setPart d p { part d p with st := 5, run := none }) 0 4 p

/-- DRAIN_US_EXPIRY (Table 13.5, step 4). -/
def drainExpiry (t : TimeState) (d : Dev) (p : Nat) : Dev :=
  match (part d p).run with
  | none => d
  | some r => partFlush t (setPart d p { part d p with run := some { r with drained := true } }) p

/-- RESET_SLOW (R296). -/
def resetSlow (t : TimeState) (d : Dev) (p : Nat) : Dev :=
  match (part d p).run with
  | none => d
  | some r =>
    if r.slow then d
    else errFault t (setPart d p { part d p with run := some { r with slow := true } }) partBlk 0 22 0 0

/-- START (R298, R369). -/
def partStart (d : Dev) (p : Nat) : Dev := resumeRings (setPart d p { part d p with st := 1 }) p

/-- Entries that carry the partition's tag, as a batch sees them. -/
def purgeSet (d : Dev) (g p : Nat) : List Entry :=
  d.entries.filter (fun e => e.kind < 5 && e.part == p && inView d g e)

/-- The purge's batch is written and waits for its version, unless it must wait first (R299). -/
def purgeBatch (t : TimeState) (d : Dev) (p : Nat) : Dev :=
  if (purgeSet d 64 p) = [] then setPart d p { part d p with found := 202 }
  else if !isOn d cmtBlk then d
  else match openInternal d p ringPurge with
    | none => d
    | some (b, d1) =>
      let l := purgeSet d1 b.tag p
      if (blocked d1 b.tag l).isSome then d
      else queueBatch (setPart (l.foldl (fun d e => markDies t d b.tag e) d1) p { part d1 p with found := 201 }) b

/-- DELETE: its ports are disabled, and the purge begins, unless it runs already (R299). DESIGN CHOICE, log entry 164. -/
def partDelete (t : TimeState) (d : Dev) (p : Nat) : Dev :=
  let d := (ownPorts d p).foldl (fun d l => writeEnable t d ⟨.mac, l⟩ false) d
  if (part d p).purging then d else purgeBatch t (setPart d p { part d p with purging := true, found := 200 }) p

/-- No batch of the partition for a purpose is in the engine. -/
def noBatch (d : Dev) (p purpose : Nat) : Bool :=
  !d.cmt.batches.any (fun b => b.internal && b.part == p && b.ring == purpose)

/-- What DELETE clears at its end (R299). -/
def purgeRest (d : Dev) (p : Nat) : Dev :=
  let d := (upto 0 1024).foldl (fun d l =>
    if memGet d .partPort 0 l = p then writeWord (memSet d .partPort 0 l 0) partBlk 1 l else d) d
  let d := (upto 0 16384).foldl (fun d b =>
    if memGet d .partQown 0 b = p then writeWord (memSet d .partQown 0 b 0) partBlk 1 (1024 + b) else d) d
  let d := (ownMeters d p).foldl (fun d m => setMeter d m.1 m.2.1 { m.2.2 with prof := m.2.2.prof % 2 ^ 63 }) d
  let d := (upto 0 8).foldl (fun d c => (upto 1 63).foldl (fun d s =>
    let w := memGet d .smp c (p * 64 + s)
    if bit w 63 then writeSmp d c p s (w % 2 ^ 63) else d) d) d
  let d := zeroCtrs (zeroCtrs d p false) p true
  let d := { d with rings := SMap.drop (fun k => k / 64 == p) d.rings }
  setPart d p { part d p with st := 0, purging := false, found := 0, ranges := [0, 0, 0, 0, 0, 0], pasid := 0, run := none }

/-- PURGE_DONE: the batch is current and the ports are OFF (R299). -/
def purgeDone (t : TimeState) (d : Dev) (p : Nat) : Dev :=
  if !(part d p).purging then d
  else
    let lost := (part d p).found = 201 && noBatch d p ringPurge
    let d := if (part d p).found = 200 || lost then purgeBatch t d p else d
    if (part d p).found ≠ 202 || (ownPorts d p).any (fun l => (blkSt d ⟨.mac, l⟩).cur != 0) then d
    else partEnd t (purgeRest d p) 0 2 p

/-- FREEZE (R300). DESIGN CHOICE, log entry 148. -/
def partFreeze (t : TimeState) (d : Dev) (p : Nat) : Dev :=
  endBatches t (setPart d p { part d p with st := 6, frozenVer := verCurrent d }) (fun q => q == p) 3

/-- SAVE: what the image control register says at the command (R301). The image area holds no valid image until the save
ends, and none if it fails or is aborted (R290). DEDUCED, log entry 124. -/
def partSave (d : Dev) (p : Nat) : Dev :=
  let c := rd d partBlk .partImgCtrl
  let kind := if fld c 49 48 = 1 then 1 else 0
  let d := if bit c 63 then { d with images := SMap.set [] d.images (fld c 58 56) [] } else d
  let (v, d) := if kind = 0 then fresh d else ((part d p).imageId, d)
  setPart d p { part d p with saving := true, imageId := v % 2 ^ 32,
                              job := [fld c 63 63, fld c 58 56, kind, rd d partBlk .partImgAddr] }

/-- The image goes to host memory, MAGIC after every other byte, or into the image area (R301). -/
def putImage (d : Dev) (job : List Nat) (l : List Byte) : Dev :=
  if job.headD 0 = 1 then
    let c := job.getD 1 0
    { writeSpan d (stackFor d c) 0 (imageWord d c) (ceilDiv l.length 8) with images := SMap.set [] d.images c l }
  else
    let a := job.getD 3 0
    let ps := if bit (part d 0).pasid 63 then some (fld (part d 0).pasid 19 0) else none
    [(8, l.drop 8), (0, l.take 4), (4, (l.drop 4).take 4)].foldl (fun d x => send d (.dmaBytes 0 ps (a + x.1) x.2)) d

/-- The stacks that a save, or the end of a restore, of a partition works with are ON: those that hold its counters, its
FLOW entries and its image (R280). DEDUCED, log entry 165. -/
def stacksReady (d : Dev) (p : Nat) (more : List Nat) : Bool :=
  ((if rangeCount d p 3 = 0 then [] else upto 0 8)
    ++ (d.entries.filter (fun e => e.kind == 1 && e.part == p)).map (fun e => e.cluster) ++ more).all (fun c => isOn d (stackFor d c))

/-- SAVE_DONE (R301). In Crust mode the image area is out of reach, and the save waits. DEDUCED, log entry 124. -/
def saveDone (t : TimeState) (d : Dev) (p : Nat) (ok : Bool) : Dev :=
  let x := part d p
  if !x.saving || crustState d ≠ 0 || !stacksReady d p (if x.job.headD 0 = 1 then [x.job.getD 1 0] else []) then d
  else
    let kind := x.job.getD 2 0
    let (view, d) := saveViews t d p kind
    let l := buildImage t view p kind
    let kib := ceilDiv l.length 1024
    let d := setPart d p { x with saving := false, job := [] }
    if !ok then partEnd t d 13 7 p
    else if x.job.headD 0 = 1 && areaKib d (x.job.getD 1 0) < kib then partEnd t d 12 7 p
    else partEnd t (wrF (putImage d x.job l) partBlk .partImgCtrl 31 0 kib) 0 7 p

/-- The image that a restore reads: from the host, or from an image area, where one that holds an uncorrectable word is
none. DESIGN CHOICE, log entry 161. -/
def restoreSource (t : TimeState) (d : Dev) (img : SaveHead) : List Byte × Dev :=
  let w := rd d partBlk .partImgCtrl
  let c := fld w 58 56
  let l := SMap.get [] d.images c
  if bit w 63 then
    let (bad, d) := readSpan t d (stackFor d c) 0 (imageWord d c) (ceilDiv l.length 8) (some 1)
    (if bad = [] then l else [], d)
  else (wordBytes img.words ++ img.body, d)

/-- Bytes of the image that a running restore has read. DESIGN CHOICE, log entry 24. -/
def restoreImage (x : Part) : List Byte :=
  match x.imgHead with
  | some h => wordBytes h.words ++ h.body
  | none => []

/-- Rebased sections of an image that has passed its checks. -/
def restoreSects (d : Dev) (p : Nat) (l : List Byte) : List Sect := ((readImage l).bind (rebased d p l)).getD []

/-- Stage 3: the entries as one internal batch; it may have to wait, and TABLE_FULL ends it (R302). -/
def restoreTables (t : TimeState) (d : Dev) (p : Nat) : Dev :=
  let x := part d p
  let l := sectChanges (restoreSects d p (restoreImage x))
  if l = [] then setPart d p { x with found := 202 }
  else if !isOn d cmtBlk then d
  else match openInternal d p ringRestore with
    | none => d
    | some (b, d1) => match evalAll t b.tag p l d1 with
      | .ok d2 => queueBatch (setPart d2 p { part d2 p with found := 201 }) b
      | .wait => d
      | _ => setPart d p { x with found := 11 }

/-- A restore ends with a status: a full one leaves the partition FREE when it failed. -/
def restoreEnd (t : TimeState) (d : Dev) (p status : Nat) : Dev :=
  let x := part d p
  let d := setPart d p { x with st := if x.st = 7 then 0 else x.st, imgHead := none, found := 0 }
  partEnd t d status 8 p

/-- RESTORE: the image is read once and checked (R302, R303). A restore of deltas that still runs ends first. DEDUCED,
log entry 124. DESIGN CHOICE, log entry 164. -/
def partRestore (t : TimeState) (d : Dev) (p : Nat) (img : SaveHead) : Dev :=
  let x := part d p
  let d := if x.imgHead.isNone then d
    else if x.found < 16 then restoreEnd t d p x.found
    else restoreEnd t (addDeltas d p (restoreSects d p (restoreImage x))) p 0
  let x := part d p
  let (l, d) := restoreSource t d img
  let w := rd d partBlk .partImgCtrl
  let d := setPart d p { x with job := [fld w 63 63, fld w 58 56] }
  let x := part d p
  let head : SaveHead := ⟨[], l⟩
  if x.st = 6 then
    let r := checkDelta d p l
    setPart d p { x with imgHead := some head, found := if r = 0 then 202 else r }
  else
    let c := createCheck d p
    let r := if c ≠ 0 then c else checkFull d p l
    let d := setPart d p { x with st := 7, imgHead := some head, found := if r = 0 then 200 else r }
    if r = 0 then restoreTables t d p else d

/-- RESTORE_DONE: a failed restore ends, and a complete one writes its registers (R302, R303). An outcome of 13 says
that the image could not be read. -/
def restoreDone (t : TimeState) (d : Dev) (p outcome : Nat) : Dev :=
  let x := part d p
  if x.imgHead.isNone || crustState d ≠ 0 then d
  else if outcome = 13 && x.found ≠ 201 && x.found ≠ 202 then restoreEnd t d p 13
  else if x.found < 16 then restoreEnd t d p x.found
  else if x.st = 7 then
    let lost := x.found = 201 && noBatch d p ringRestore
    let d := if x.found = 200 || lost then restoreTables t d p else d
    let l := restoreImage x
    let x := part d p
    if x.found = 202 && stacksReady d p [] then
      let d := applyRegs t d p (restoreSects d p l)
      let d := setPart d p { part d p with st := 6, imgHead := none, found := 0, mode := bit (imgWord l 0) 3,
                                           imageId := fld (imgWord l 1) 63 32, frozenVer := verCurrent d }
      partEnd t d 0 8 p
    else if x.found < 16 then restoreEnd t d p x.found
    else d
  else if outcome = 13 then restoreEnd t d p 13
  else if !stacksReady d p [] then d
  else
    restoreEnd t (addDeltas d p (restoreSects d p (restoreImage x))) p 0

/-- THAW (R304). -/
def partThaw (d : Dev) (p : Nat) : Dev := setPart d p { part d p with st := 1, folding := true }

/-- Indexes of a partition that a fold has to work at in a cluster: the first, which its writes begin with, and those
whose slot holds a count or a damaged word. -/
def foldIxs (d : Dev) (p c : Nat) : List Nat :=
  let lo := rangeBase d p 3
  let x := ctrRange d p c true
  let hurt := (badWords d (stackFor d c) 0 (fun w => x.1 ≤ w && w < x.1 + x.2)).map (fun y => lo + (y.2.2 - x.1) / 2)
  let full := (d.fc.deltas.filter (fun e => e.1 / 2 ^ 24 == c && lo ≤ e.1 % 2 ^ 24 && e.1 % 2 ^ 24 < lo + rangeCount d p 3)).map
    (fun e => e.1 % 2 ^ 24)
  if rangeCount d p 3 = 0 then [] else (lo :: (full ++ hurt)).eraseDups

/-- One index is folded: its slot is read, added to the counter, and zeroed (R304); one that cannot be read adds
nothing, and the next CTR_READ of the counter reports it. DESIGN CHOICE, log entry 161. -/
def foldOne (t : TimeState) (c : Nat) (d : Dev) (i : Nat) : Dev :=
  let (ue, d) := readWords t d (stackFor d c) 0 (ctrWords d c i true) (some 1)
  let v := if ue then 0 else ctrPair d c i true
  let d := putCtr (addCtr t d c i false (v % 2 ^ 64) (v / 2 ^ 64)) c i true 0
  let k := ueKey c i false
  if ue && !d.fc.ues.contains k then setFc d { d.fc with ues := k :: d.fc.ues } else d

/-- FOLD_DONE: every delta is in its counter; the fold waits for the stacks, and for a restore of deltas that still runs
(R304). DESIGN CHOICE, log entry 164. -/
def foldDone (t : TimeState) (d : Dev) (p : Nat) : Dev :=
  let x := part d p
  let held (a : Acc) : Bool := a.delta && a.part == p
  let waits := (d.fc.acc ++ d.fc.flush).filter held
  let clusters := (d.fc.deltas.filter (fun e => inRange d p 3 (e.1 % 2 ^ 24))).map (fun e => e.1 / 2 ^ 24) ++ waits.map (fun a => a.cluster)
  if !x.folding || crustState d ≠ 0 || x.imgHead.isSome || !(clusters.all (fun c => isOn d (stackFor d c))) then d
  else
    let d := (upto 0 8).foldl (fun d c => (foldIxs d p c).foldl (foldOne t c) d) d
    let d := waits.foldl (fun d a => addCtr t d a.cluster a.index false a.pkts a.bytes) d
    let d := setFc d { d.fc with acc := d.fc.acc.filter (fun a => !held a), flush := d.fc.flush.filter (fun a => !held a) }
    partEnd t (setPart d p { part d p with folding := false }) 0 9 p

/-- SET_MODE: the transition of Table 6.5 begins (R149, R305). -/
def partSetMode (d : Dev) (p : Nat) (reorder : Bool) : Dev :=
  let d := setPart d p { part d p with mode := reorder, trans := true }
  setFp d { d.fp with frames := mapIf (fun f => mPart f.sect == p && f.stage ≠ 0 && !f.gone) (fun f => { f with pre := true }) d.fp.frames }

/-- TRANSITION_END: no launched frame of the partition is unverified, and none that entered KB before the
write is left before AD (Table 6.5). -/
def transitionEnd (t : TimeState) (d : Dev) (p : Nat) : Dev :=
  if !(part d p).trans || d.fp.frames.any (fun f => mPart f.sect == p && !f.gone &&
      (f.launch != 0 || f.verdict != 0 || (f.pre && (f.stage == 1 || f.adm != 0 || f.rob)))) then d
  else partEnd t (setPart d p { part d p with trans := false }) 0 10 p

/-- What each accepted operation of PART_CMD does (Table 13.3); `create` is what holds a creation back. -/
def partDo (t : TimeState) (d : Dev) (create op p : Nat) (reorder : Bool) (img : SaveHead) : Dev :=
  match op with
  | 1 => if create = 0 then partCreate t d p else partEnd t d create 1 p
  | 2 => partDelete t d p
  | 3 => partQuiesce d p
  | 4 => partReset t d p
  | 5 => partStart d p
  | 6 => partFreeze t d p
  | 7 => partSave d p
  | 8 => partRestore t d p img
  | 9 => partThaw d p
  | _ => partSetMode d p reorder

/-- A write of PART_CMD with OP 1 to 10 (R289, R290); a CREATE that its own checks fail ends with their status (R286,
R287). DEDUCED, log entries 123 and 127. -/
def partCommand (t : TimeState) (d : Dev) (op p : Nat) (reorder : Bool) (img : SaveHead) : Dev :=
  let d := wr d partBlk .partCmd (b2n reorder <<< 28 + p <<< 16 + op)
  let st := partStatus d p op
  let create := createCheck d p
  let d := partResult d false st op p
  let d := touch t d partBlk 0 (partWord p 15)
  if st ≠ 0 then d else partDo t d create op p reorder img

/-- PART_PORT_DATA and PART_QOWN_DATA; none is NOT_PERMITTED (R285). -/
def writePortOwner (d : Dev) (port w : Nat) : Option Dev :=
  if (blkSt d ⟨.mac, port⟩).cur ≠ 0 then none
  else some (writeWord (memSet d .partPort 0 port (w % 4096)) partBlk 1 port)
def writeQueueOwner (d : Dev) (b w : Nat) : Option Dev :=
  if (upto (64 * b) 64).any (fun q => bit (rawQueue d q) 63) then none
  else some (writeWord (memSet d .partQown 0 b (w % 4096)) partBlk 1 (1024 + b))

/-- Indexes of each kind of range. -/
def rangeSize : RangeKind → Nat
  | .act => 2 ^ 18 | .grp => 2 ^ 16 | .mbr => 2 ^ 19 | .ctr => 2 ^ 24 | .prg => 4096 | .mcg => 2 ^ 16

/-- The register of each kind of range. -/
def rangeReg : RangeKind → Reg
  | .act => .partRangeAct | .grp => .partRangeGrp | .mbr => .partRangeMbr
  | .ctr => .partRangeCtr | .prg => .partRangePrg | .mcg => .partRangeMcg

/-- A PART_RANGE register of the selected partition; none is NOT_PERMITTED. Partition 0's are ignored (R284, R306). -/
def writeRange (d : Dev) (k : RangeKind) (w : Nat) : Option Dev :=
  let p := rdF d partBlk .partSel 11 0
  let w := w.land (rwMask (rangeReg k))
  let lo := fld w 31 0
  let n := fld w 63 32
  let clash := k ≠ .prg && d.parts.any (fun e => e.1 != p && e.1 != 0 && e.2.st != 0 &&
    overlap lo n (fld (rangeOf d e.1 k.ctorIdx) 31 0) (fld (rangeOf d e.1 k.ctorIdx) 63 32)
      && n != 0 && fld (rangeOf d e.1 k.ctorIdx) 63 32 != 0)
  if p = 0 then some d
  else if rangeSize k < lo + n || clash then none
  else some (setPart d p { part d p with ranges := (part d p).ranges.set k.ctorIdx w })

/-- A save or a restore uses the image area of a cluster (R322). -/
def areaBusy (d : Dev) (c : Nat) : Bool :=
  d.parts.any (fun e => (e.2.saving || e.2.imgHead.isSome) && e.2.job.headD 0 == 1 && e.2.job.getD 1 0 == c)

/-- XFER: LEN_KIB of an image area goes to the partner; none is NOT_PERMITTED (R322). -/
def xferStart (d : Dev) : Option Dev :=
  let w := rd d cslBlk .cslXfer
  let c := fld w 58 56
  let n := fld w 31 0
  if twinState d < 2 || cslBusy d || areaKib d c < n
      || areaBusy d c then none
  else
    let d := wr (send d (.cersa (.image (fld w 50 48) n))) cslBlk .cslXferStat 0
    some (setTw d { d.tw with xfer := true })

end Sys2Proof.Machine
end

