-- ==== Sys2Proof/Machine/Limitur.lean ====
section
/-! DEFINITION. The Limitur controller: its loops, log rings, base values and watchdog. -/
namespace Sys2Proof.Machine

/-- The Limitur controller's block. -/
def limBlk : Blk := devBlk .lim

/-- MODE of a loop: 0 OFF, 1 ADVISE, 2 ACT; 3 acts as 0. CONSEC and the thresholds and bounds (Table 15.8). -/
def loopMode (d : Dev) (i : Nat) : Nat := let m := rdF d limBlk .limLoopCtrl 1 0 i; if m = 3 then 0 else m
def loopConsec (d : Dev) (i : Nat) : Nat := max 1 (rdF d limBlk .limLoopCtrl 11 8 i)
def loopHigh (d : Dev) (i : Nat) : Nat := rdF d limBlk .limLoopTh 63 32 i
def loopLow (d : Dev) (i : Nat) : Nat := rdF d limBlk .limLoopTh 31 0 i
def bndA (d : Dev) (i : Nat) : Nat := rdF d limBlk .limLoopBnd 31 0 i
def bndB (d : Dev) (i : Nat) : Nat := rdF d limBlk .limLoopBnd 47 32 i
def bndC (d : Dev) (i : Nat) : Nat := rdF d limBlk .limLoopBnd 63 48 i

/-- The controller runs: its block is ON and not restarting (R337). -/
def limRuns (d : Dev) : Bool := isOn d limBlk && bit (rd d limBlk .limStat) 63

/-- One action of a loop, as its log record tells it (Tables 15.3, 15.4). -/
structure Act where
  kind  : Nat
  clamp : Bool
  input : Nat
  typ   : Nat
  inst  : Nat
  item  : Nat
  old   : Nat
  new   : Nat
  deriving DecidableEq, Repr

/-- A record goes into a loop's log ring (R336). DEDUCED, log entry 131. -/
def limLog (t : TimeState) (d : Dev) (i : Nat) (a : Act) : Dev :=
  let n := rd d limBlk .limLogPtr i
  let act := loopMode d i == 2
  let ws := [n <<< 32 + i <<< 29 + b2n act <<< 28 + a.kind <<< 24 + b2n a.clamp <<< 23,
    t.now.ns <<< 32 + a.input % 2 ^ 32, a.typ <<< 48 + a.inst <<< 32 + (a.item % 2 ^ 24) <<< 8,
    (a.old % 2 ^ 32) <<< 32 + a.new % 2 ^ 32]
  let d := (upto 0 4).foldl (fun d k =>
    let w := n % 1024 * 4 + k
    writeWord (memSet d .limLog i w (ws.getD k 0)) limBlk 0 (i * 4096 + w)) d
  wr d limBlk .limLogPtr ((n + 1) % 2 ^ 32) i

/-- A loop's action: logged unless it writes the present value unclamped, and taken in ACT (R333, R336). DEDUCED, log
entry 131. -/
def limAct (t : TimeState) (d : Dev) (i : Nat) (a : Act) (go : Dev → Dev) : Dev :=
  if a.old = a.new && !a.clamp then d
  else
    let d := limLog t d i a
    if loopMode d i = 2 then go d else d

/-- Consecutive counts of a loop's unit: at or above TH_HIGH, and at or below TH_LOW (R333). -/
def limCountUp (d : Dev) (i unit : Nat) (high low : Bool) : Dev :=
  let step (d : Dev) (k : Nat) (on : Bool) : Dev :=
    memSet d .limCount i (unit * 2 + k) (if on then min 15 (memGet d .limCount i (unit * 2 + k) + 1) else 0)
  step (step d 0 high) 1 low
def heldHigh (d : Dev) (i unit : Nat) : Bool := loopConsec d i ≤ memGet d .limCount i (unit * 2)
def heldLow (d : Dev) (i unit : Nat) : Bool := loopConsec d i ≤ memGet d .limCount i (unit * 2 + 1)

/-- step(x) of a base (R337). -/
def limStep (base x : Nat) : Nat := max 1 (base * x / 100)

/-- Members of a steered slice, with base and effective weight in cluster 0 (R338). -/
def steerMembers (d : Dev) (s : Nat) : List (Nat × Nat × Nat) :=
  ((membersTo d 0 s).filter (fun m => !memberFrozen d m && !d.flt.saved.any (fun x => x.1 == 0 && x.2.1 == m))).filterMap
    (fun m =>
      let w := readWeight d 0 m
      let b := limBase d 0 m w
      if b = 0 then none else some (m, b, w))

/-- A weight goes to all eight clusters. -/
def steerWrite (t : TimeState) (d : Dev) (m w : Nat) : Dev :=
  (upto 0 8).foldl (fun d c => weightWrite t (holdBase d c m (readWeight d c m)) c m w) d

/-- The slice is steered: 1 its members are lowered, 2 they are raised (R338). DEDUCED, log entry 166. -/
def steered (d : Dev) (s : Nat) : Bool := memGet d .limCount 8 s != 0

/-- Slices by descending WAIT_PM, ties to the lower number. -/
def byWait (m : List Nat) (l : List Nat) : List Nat :=
  let ins (a : List Nat) (s : Nat) : List Nat :=
    (a.takeWhile (fun x => m.getD s 0 ≤ m.getD x 0)) ++ s :: a.dropWhile (fun x => m.getD s 0 ≤ m.getD x 0)
  l.foldl ins []

/-- STEER: WAIT_PM of each slice (R338). DEDUCED, log entry 166. -/
def loopSteer (t : TimeState) (d : Dev) (m : List Nat) : Dev :=
  let d := (upto 0 64).foldl (fun d s =>
    limCountUp d 0 s (loopHigh d 0 ≤ m.getD s 0) (m.getD s 0 ≤ loopLow d 0)) d
  let now := (upto 0 64).filter (steered d)
  let add := (byWait m ((upto 0 64).filter (fun s => heldHigh d 0 s && !steered d s && !sliceFenced d s))).take
    (bndB d 0 - now.length)
  let d := add.foldl (fun d s => memSet d .limCount 8 s 1) d
  (now ++ add).foldl (fun d s =>
    let put (kind : Nat) (f : Nat → Nat → Nat) (d : Dev) (x : Nat × Nat × Nat) : Dev :=
      limAct t d 0 ⟨kind, false, m.getD s 0, 0x0104, 0xFFFF, x.1, x.2.2, f x.2.1 x.2.2⟩
        (fun d => steerWrite t d x.1 (f x.2.1 x.2.2))
    let d := if heldLow d 0 s then memSet d .limCount 8 s 2 else if heldHigh d 0 s then memSet d .limCount 8 s 1 else d
    if memGet d .limCount 8 s = 2 then
      let d := (steerMembers d s).foldl (put 1 (fun b w => min b (w + limStep b (bndC d 0)))) d
      if (steerMembers d s).all (fun x => x.2.2 == x.2.1) then memSet d .limCount 8 s 0 else d
    else
      (steerMembers d s).foldl (put 0 (fun b w =>
        max (max (b * bndA d 0 / 100) 1) (w - limStep b (bndC d 0)))) d) d

/-- The count of an event of a block. -/
def ctrNow (d : Dev) (k : BlkKind) (inst ev ix : Nat) : Nat := SMap.get 0 d.ctr (ctrKey k inst ev ix) % 2 ^ 48

/-- The growth of a count since the loop last looked, and the state that remembers it. -/
def limDelta (d : Dev) (i k v : Nat) : Nat × Dev :=
  ((v + 2 ^ 48 - memGet d .limPrev i k) % 2 ^ 48, memSet d .limPrev i k v)

/-- IDLE_CLK of a slice. -/
def idleClk (d : Dev) (s : Nat) : Nat := rdF d (slcBlk s) .slcPwr 23 0

/-- DOZE moves the idle threshold of a slice (R340). -/
def setIdle (d : Dev) (s v : Nat) : Dev :=
  wrF (holdBase d 8 s (idleClk d s)) (slcBlk s) .slcPwr 23 0 v

/-- The cluster is throttled. -/
def throttled (d : Dev) (c : Nat) : Bool := bit (rd d ⟨.clu, c⟩ .cluTherm) 32

/-- DOZE for one slice (R340). -/
def dozeSlice (t : TimeState) (d : Dev) (s : Nat) : Dev :=
  let b := slcBlk s
  let (wakes, d) := limDelta d 1 s (ctrNow d .slc s 1 0)
  let (crossed, d) := limDelta d 1 (64 + s) (((upto (16 * s) 16).map (fun l => ctrNow d .mac l 8 0)).sum % 2 ^ 48)
  let flag := b2n (bit (rd d b .slcPwrStat) 60)
  let late := crossed ≠ 0 || (flag = 1 && memGet d .limPrev 1 (128 + s) = 0)
  let d := memSet d .limPrev 1 (128 + s) flag
  let d := limCountUp d 1 s (loopHigh d 1 ≤ wakes) (wakes ≤ loopLow d 1)
  let log (kind old new : Nat) : Act := ⟨kind, false, wakes, 0x0200, s, 0, old, new⟩
  let back := bndC d 1 % 2 ^ 15
  let inh := bit (rd d b .slcPwrStat) 61
  let left := memGet d .limCount 9 s
  let d :=
    if late && back ≠ 0 then
      limAct t d 1 (log 3 (b2n inh) 1)
        (fun d => wakeSlice (memSet (wrF d b .slcPwrStat 61 61 1) .limCount 9 s back) s 8)
    else if inh && left ≤ 1 then
      limAct t d 1 (log 4 1 0) (fun d => memSet (wrF d b .slcPwrStat 61 61 0) .limCount 9 s 0)
    else if inh then memSet d .limCount 9 s (left - 1)
    else d
  let d := if late && back ≠ 0 && inh && loopMode d 1 = 2 then memSet d .limCount 9 s back else d
  let x := idleClk d s
  let idle (want : Nat) (d : Dev) : Dev :=
    let v := min want (2 ^ 24 - 1)
    limAct t d 1 { log 2 x v with clamp := v != want } (fun d => setIdle d s v)
  let d :=
    if throttled d (s / 8) then d
    else if heldHigh d 1 s then idle (min (bndA d 1) (2 * max 1 x)) d
    else if heldLow d 1 s then idle (max (bndB d 1) (x / 2)) d
    else d
  let n := if portsQuiet d s then min 100 (memGet d .limCount 10 s + 1) else 0
  let d := memSet d .limCount 10 s n
  if bit (bndC d 1) 15 && n = 100 && slcState d s ≤ 1 && (rdF d b .slcPwr 63 62 = 0 || rdF d b .slcPwr 63 62 = 3) then
    limAct t d 1 (log 5 0 1) (fun d => napRequest d s)
  else d

/-- DOZE (R340). DEDUCED, log entry 133. -/
def loopDoze (t : TimeState) (d : Dev) : Dev := (upto 0 64).foldl (dozeSlice t) d

/-- The fill of a Spore ring, in %, and the highest over a partition's rings. -/
def ringFill (x : Ring) : Nat := if x.live then idxDiff x.tail x.head * 100 / 2 ^ x.log2 else 0

/-- The fullest Spore ring of a partition (R340). -/
def sporeFill (d : Dev) (p : Nat) : Nat :=
  ((upto 0 (ringsHeld d p .spore)).map (fun r => ringFill (ring d .spore p r))).foldl max 0

/-- VALID samplers of a partition: cluster and number. -/
def validSamplers (d : Dev) (p : Nat) : List (Nat × Nat) :=
  (upto 0 8).flatMap (fun c => ((upto 1 63).filter (fun s => bit (memGet d .smp c (p * 64 + s)) 63)).map (fun s => (c, s)))

/-- N of a sampler, what SPORE makes of it, and that within the bound of N (R335, R340). -/
def sporeStep (d : Dev) (p : Nat) (x : Nat × Nat) (up : Bool) : Nat × Nat × Nat :=
  let w := memGet d .smp x.1 (p * 64 + x.2)
  let n := fld w 23 0 + 1
  let base := limBase d (16 + x.1) (p * 64 + x.2) (fld w 23 0) + 1
  let want := if up then min (base * 2 ^ min 24 (bndA d 2)) (2 * n) else max base (n / 2)
  (n, want, min want (2 ^ 24))

/-- The condition to raise N has held: the fill, or drops in each period (R340). -/
def sporeUp (d : Dev) (p : Nat) : Bool := heldHigh d 2 p || heldHigh d 2 (4096 + p)

/-- SPORE for one partition (R340). -/
def sporePart (t : TimeState) (d : Dev) (p fill : Nat) (up : Bool) : Dev :=
  (validSamplers d p).foldl (fun d x =>
    let w := memGet d .smp x.1 (p * 64 + x.2)
    let (n, want, v) := sporeStep d p x up
    limAct t d 2 ⟨if up then 6 else 7, v != want, fill, 0x0103, x.1, 64 * p + x.2, n - 1, v - 1⟩ (fun d =>
      setSmp (holdBase d (16 + x.1) (p * 64 + x.2) (n - 1)) x.1 p x.2 (putFld w 23 0 (v - 1)))) d

/-- SPORE: the fullest partitions first, PARTS of them at most (R340, R337). -/
def loopSpore (t : TimeState) (d : Dev) : Dev :=
  let ps := (knownParts d).filter (fun p => (part d p).st != 0)
  let (fills, d) := ps.foldl (fun (a : List (Nat × Nat) × Dev) p =>
    let d := a.2
    let fill := sporeFill d p
    let (drops, d) := limDelta d 2 p (((upto 0 8).map (fun c => ctrNow d .clu c 43 p)).sum % 2 ^ 48)
    let d := limCountUp (limCountUp d 2 p (loopHigh d 2 ≤ fill) (fill ≤ loopLow d 2)) 2 (4096 + p) (drops ≠ 0) false
    (a.1 ++ [(p, fill)], d)) ([], d)
  let due := fills.filter (fun x => (sporeUp d x.1 || heldLow d 2 x.1) && (part d x.1).st != 6
    && (validSamplers d x.1).any (fun y => let r := sporeStep d x.1 y (sporeUp d x.1); r.1 != r.2.2 || r.2.1 != r.2.2))
  let byFill (a : List (Nat × Nat)) (x : Nat × Nat) : List (Nat × Nat) :=
    a.takeWhile (fun y => x.2 ≤ y.2) ++ x :: a.dropWhile (fun y => x.2 ≤ y.2)
  ((due.foldl byFill []).take (bndB d 2)).foldl (fun d x => sporePart t d x.1 x.2 (sporeUp d x.1)) d

/-- The most that WR_CAP may be in a cluster (R242, Table 10.8, R340). -/
def wrCapTop (d : Dev) (c : Nat) : Nat :=
  let h := stackFor d c
  let n := (served d h.inst).length
  let a := (64 - hbmNt d h) * 128 / n
  let a := if rdF d h .hbmTemp 33 32 = 2 then min a (5600 / n) else a
  if throttled d c then min a (bndC d 3) else a

/-- A write of WR_CAP by a loop. -/
def setWrCap (d : Dev) (c v : Nat) : Dev :=
  wrF (holdBase d 9 c (wrCap d c)) ⟨.bpm, c⟩ .bpmSpillCfg 63 48 v

/-- SPILL for one cluster (R340). -/
def spillCluster (t : TimeState) (d : Dev) (m : List Nat) (c : Nat) : Dev :=
  let h := (stackFor d c).inst
  let x := wrCap d c
  let base := limBase d 9 c x
  let want := if heldHigh d 3 h then max (min x (bndA d 3)) (x - limStep base (bndB d 3))
    else if heldLow d 3 h then min base (x + limStep base (bndB d 3)) else x
  let v := min want (wrCapTop d c)
  limAct t d 3 ⟨8, v != want, m.getD h 0, 0x0103, c, 0, x, v⟩ (fun d => setWrCap d c v)

/-- SPILL: the longest spill block read of each stack, in ns (R340). -/
def loopSpill (t : TimeState) (d : Dev) (m : List Nat) : Dev :=
  let d := (hbmStacks d).foldl (fun d h => limCountUp d 3 h (loopHigh d 3 ≤ m.getD h 0) (m.getD h 0 ≤ loopLow d 3)) d
  (upto 0 8).foldl (fun d c => spillCluster t d m c) d

/-- The voltage bounds of a cluster: VMIN, VMAX (Table 15.8). DEDUCED, log entry 132. -/
def voltBounds (d : Dev) (c : Nat) : Nat × Nat :=
  let w := rd d limBlk .limVbnd c
  let near (v : Nat) : Nat := min 800 (max 650 v)
  let hi := near (fld w 47 32)
  (min hi (near (fld w 15 0)), hi)

/-- A request for VDD_CORE of a cluster goes to its regulator; VOLT_MV takes it when it is acknowledged (R386). DESIGN
CHOICE, log entry 70. -/
def setVolt (t : TimeState) (d : Dev) (c mv : Nat) : Dev :=
  send (memSet (memSet d .limPrev 5 c (mv + 1)) .limPrev 6 c (t.tick + 1)) (.avs c mv)

/-- Throttling begins: IDLE_CLK of the cluster's slices is IDLE_MIN, and what it was is kept (R340). -/
def throttleOn (d : Dev) (c : Nat) : Dev :=
  (upto (8 * c) 8).foldl (fun d s => setIdle (memSet d .limPrev 4 s (idleClk d s)) s (bndB d 1))
    (wrF d ⟨.clu, c⟩ .cluTherm 32 32 1)

/-- Throttling ends, and IDLE_CLK is as it was, unless software has set it meanwhile. DEDUCED, log entry 130. -/
def throttleOff (d : Dev) (c : Nat) : Dev :=
  (upto (8 * c) 8).foldl (fun d s =>
    if memGet d .limBase 8 s = 0 then d else wrF d (slcBlk s) .slcPwr 23 0 (memGet d .limPrev 4 s))
    (wrF d ⟨.clu, c⟩ .cluTherm 32 32 0)

/-- A temperature as a threshold's units: zero for one below zero. -/
def degrees (v : Nat) : Nat := (signed8 v).toNat

/-- THERMV for one cluster with its hottest junction and margin (R340, R341). -/
def thermCluster (t : TimeState) (d : Dev) (c temp margin : Nat) : Dev :=
  let b : Blk := ⟨.clu, c⟩
  let log (kind : Nat) (clamp : Bool) (input old new : Nat) : Act := ⟨kind, clamp, input, 0x0100, c, 0, old, new⟩
  let d := limCountUp d 4 c (loopHigh d 4 ≤ degrees temp) (degrees temp ≤ loopLow d 4)
  let d :=
    if heldHigh d 4 c && !throttled d c then limAct t d 4 (log 10 false (degrees temp) 0 1) (fun d => throttleOn d c)
    else if heldLow d 4 c && throttled d c then limAct t d 4 (log 11 false (degrees temp) 1 0) (fun d => throttleOff d c)
    else d
  let v := rdF d b .cluAvs 63 48
  let want := if margin < bndA d 4 then v + bndB d 4 else if 2 * bndA d 4 < margin then v - bndB d 4 else v
  let lim := voltBounds d c
  let new := max lim.1 (min lim.2 want)
  let low := margin < bndA d 4 && v = lim.2
  let d := if low then d else limAct t d 4 (log 9 (new != want) margin v new) (fun d => setVolt t d c new)
  if low && loopMode d 4 = 2 && !bit (rd d b .errStatus) 0 then
    limLog t (errFault t d b 0 10 0 (3 + c)) 4 (log 15 false margin v v)
  else d

/-- The sensors of a cluster die: hottest junction, margin, sensor, ageing. Its CLU page shows them, and a
junction that comes to WARN_C or above 125 °C is reported (Table 12.1). -/
def senseCluster (d : Dev) (c : Nat) (m : List Nat) : Dev :=
  let b : Blk := ⟨.clu, c⟩
  let temp := m.getD (4 * c) 0 % 256
  let v := rd d b .cluTherm
  let old := signed8 (fld v 7 0)
  let new := signed8 temp
  let top := if signed8 (fld v 23 16) < new then temp else fld v 23 16
  let d := wr d b .cluTherm (putFld (putFld (putFld v 23 16 top) 15 8 (m.getD (4 * c + 2) 0)) 7 0 temp)
  let a := rd d b .cluAvs
  let d := wr d b .cluAvs (putFld (putFld a 39 32 (m.getD (4 * c + 1) 0)) 15 0 (m.getD (4 * c + 3) 0))
  let warn := signed8 (rdF d fltBlk .fltCfg 15 8)
  let d := if warn ≤ new && !(warn ≤ old) then reportFault d 8 0 b 0 0 false else d
  if 135 ≤ new && old < 135 then reportFault d 9 4 b 0 0 false
  else if 125 < new && !(125 < old) then reportFault d 9 3 b 0 0 false
  else d

/-- THERMV: four measurements of each cluster (R340, R341). The sensors report whether the loop runs or not. DEDUCED,
log entry 132. -/
def loopTherm (t : TimeState) (d : Dev) (m : List Nat) (act : Bool) : Dev :=
  let d := (upto 0 8).foldl (fun d c => senseCluster d c m) d
  if act then (upto 0 8).foldl (fun d c => thermCluster t d c (m.getD (4 * c) 0 % 256) (m.getD (4 * c + 1) 0)) d else d

/-- A lane may be checked (R342). -/
def checkable (d : Dev) (l : Nat) : Bool :=
  !(blkSt d ⟨.mac, portOf d l⟩).enable && slcState d (l / 16) != 3 && !laneTested d l && memGet d .linkChk l 0 == 0

/-- LINKCHK: the next eligible lanes of each cluster in rotation, LANES at most (R342). -/
def loopLinkchk (t : TimeState) (d : Dev) : Dev :=
  (upto 0 8).foldl (fun d c =>
    let at' := memGet d .limCount 11 c
    let order := (upto 0 128).map (fun k => 128 * c + (at' + k) % 128)
    let l := ((order.filter (checkable d)).take (bndA d 5))
    let d := match l.getLast? with
      | some x => memSet d .limCount 11 c ((x + 1) % 128)
      | none => d
    l.foldl (fun d x =>
      if loopMode d 5 = 2 then memSet d .linkChk x 0 1
      else limLog t d 5 ⟨13, false, 0, 0x0201, x, x, 0, 0⟩) d) d

/-- LINKCHK_DWELL_END: a lane that failed is logged (R342). -/
def dwellEnd (t : TimeState) (d : Dev) (lane errors : Nat) (locked : Bool) : Dev :=
  if memGet d .linkChk lane 0 = 0 then d
  else
    let d := memSet d .linkChk lane 0 0
    if !locked || loopHigh d 5 < errors then limLog t d 5 ⟨12, false, errors, 0x0201, lane, lane, 0, 0⟩ else d

/-- LOOP_EVALUATION: a loop evaluates at its period's end; in Crust mode only DOZE and THERMV find input (R333, R337). -/
def loopEval (t : TimeState) (d : Dev) (i : Nat) (m : List Nat) : Dev :=
  let run := limRuns d && loopMode d i != 0 && (crustState d == 0 || i == 1 || i == 4)
  match i with
  | 0 => if run then loopSteer t d m else d
  | 1 => if run then loopDoze t d else d
  | 2 => if run then loopSpore t d else d
  | 3 => if run then loopSpill t d m else d
  | 4 => loopTherm t d m run
  | 5 => if run then loopLinkchk t d else d
  | _ => d

/-- Held bases of a unit: index and base. DEDUCED, log entry 130. -/
def heldBases (d : Dev) (unit : Nat) : List (Nat × Nat) :=
  d.mem.filterMap (fun e =>
    if e.1 / 2 ^ 32 == memCode .limBase * 4096 + unit && e.2 ≠ 0 then some (e.1 % 2 ^ 32, e.2 - 1) else none)

/-- LIM_LOOP_CTRL.RESTORE: every effective value that the loop holds returns to its base; none while the
controller is stopped (R334, R337). DEDUCED, log entry 132. -/
def loopRestore (t : TimeState) (d : Dev) (i : Nat) : Option Dev :=
  let log (d : Dev) (typ inst item old new : Nat) : Dev :=
    if old = new then d else limLog t d i ⟨14, false, 0, typ, inst, item, old, new⟩
  if !isOn d limBlk then none
  else some (match i with
    | 0 =>
      let d := (heldBases d 0).foldl (fun d x => log d 0x0104 0xFFFF x.1 (readWeight d 0 x.1) x.2) d
      let d := (upto 0 8).foldl (fun d c => (heldBases d c).foldl (fun d x =>
        weightWrite t (setFlt (clearBase d c x.1) { d.flt with saved := d.flt.saved.filter (fun y => !(y.1 == c && y.2.1 == x.1)) }) c x.1 x.2) d) d
      (upto 0 64).foldl (fun d s => memSet d .limCount 8 s 0) d
    | 1 =>
      let d := (heldBases d 8).foldl (fun d x =>
        wrF (clearBase (log d 0x0200 x.1 0 (idleClk d x.1) x.2) 8 x.1) (slcBlk x.1) .slcPwr 23 0 x.2) d
      (upto 0 64).foldl (fun d s =>
        let b := slcBlk s
        if bit (rd d b .slcPwrStat) 61 then
          memSet (wrF (log d 0x0200 s 0 1 0) b .slcPwrStat 61 61 0) .limCount 9 s 0
        else d) d
    | 2 => (upto 0 8).foldl (fun d c => (heldBases d (16 + c)).foldl (fun d x =>
        let w := memGet d .smp c x.1
        writeSmp (log d 0x0103 c x.1 (fld w 23 0) x.2) c (x.1 / 64) (x.1 % 64) (putFld w 23 0 x.2)) d) d
    | 3 => (heldBases d 9).foldl (fun d x =>
        wrF (clearBase (log d 0x0103 x.1 0 (wrCap d x.1) x.2) 9 x.1) ⟨.bpm, x.1⟩ .bpmSpillCfg 63 48 x.2) d
    | 4 => (upto 0 8).foldl (fun d c =>
        let d := if throttled d c then throttleOff (log d 0x0100 c 0 1 0) c else d
        let v := rdF d ⟨.clu, c⟩ .cluAvs 63 48
        let top := (voltBounds d c).2
        if v = top then d else setVolt t (log d 0x0100 c 0 v top) c top) d
    | _ => d)

/-- LIM_WDOG: the controller has missed its kick (R337). DESIGN CHOICE, log entry 76. -/
def limWdog (t : TimeState) (d : Dev) : Dev :=
  if isOn d limBlk then errFault t (wrF d limBlk .limStat 63 63 0) limBlk 0 17 1 0 else d

/-- CONTROLLER_RESTART: it runs again, and RESTARTS counts (R337). -/
def limRestarted (d : Dev) : Dev :=
  if isOn d limBlk && !bit (rd d limBlk .limStat) 63 then
    let n := satAdd 0xFFFF (rdF d limBlk .limStat 47 32) 1
    wrF (wrF d limBlk .limStat 63 63 1) limBlk .limStat 47 32 n
  else d

end Sys2Proof.Machine
end

