-- ==== Sys2Proof/Machine/Counters.lean ====
section
/-! DEFINITION. Performance counters as software sees them: PERF_VAL, snapshots, dumps, thresholds; and CTR_READ. -/
namespace Sys2Proof.Machine

/-- The snapshot and user access block. -/
def perfBlk : Blk := devBlk .perf

/-- Indexes of an event of a kind of block; none where its block holds no counter for it (Tables 16.1, 16.2). -/
def evSize : BlkKind → Nat → Option Nat
  | .mac, e => if 16 ≤ e then none else if e = 12 || e = 13 || e = 15 then some 8 else some 1
  | .slc, e => if e < 3 then some 1 else if e < 9 then some 16 else none
  | .prs, e => if e < 8 then some 16 else none
  | .voq, e => if e < 2 then some 128 else none
  | .edt, e => if e < 9 then some 16 else none
  | .sch, e => if e < 4 then some 128 else none
  | .mtr, e => if e < 3 then some 16384 else if e < 6 then some 128 else none
  | .fdh, e => if e < 12 then some 4096 else none
  | .exm, e => if e < 4 then some 128 else if e = 4 || e = 6 then some 1 else none
  | .bpm, e => if e < 16 then some 1024 else if e = 20 then some 1 else none
  | .d2d, e => if e < 2 then some 1 else none
  | .hbm, e => if e < 4 then some 1 else none
  | .cmt, e => if e < 3 then some 1 else none
  | .csl, e => if e < 2 then some 1 else none
  | .clu, e => if e < 44 then some 4096 else none
  | _, _ => none

/-- An instance exists: on an H4 the odd stacks do not (R47). -/
def instExists (d : Dev) (k : BlkKind) (i : Nat) : Bool := i < k.count && !(k == .hbm && d.h4 && i % 2 == 1)

/-- A counter: its block kind, instance, event and index. -/
structure CtrName where
  kind : BlkKind
  inst : Nat
  ev   : Nat
  ix   : Nat
  deriving DecidableEq, Repr

/-- The counter that a word in the format of PERF_SEL names, if it exists (R348). -/
def selName (d : Dev) (w : Nat) : Option CtrName :=
  match kindOfType (fld w 47 32) with
  | none => none
  | some k =>
    let i := fld w 31 16
    match evSize k (fld w 55 48) with
    | some n => if instExists d k i && fld w 13 0 < n then some ⟨k, i, fld w 55 48, fld w 13 0⟩ else none
    | none => none

/-- The storage key of a counter: CLU slots 0 to 11 are the FDH counters themselves (R347). -/
def nameKey (x : CtrName) : Nat :=
  if x.kind = .clu && x.ev < 12 then ctrKey .fdh x.inst x.ev x.ix else ctrKey x.kind x.inst x.ev x.ix

/-- A counter's word: WRAP and COUNT, live or in the shadow bank; a counter of a slice in OFF reads zero (R346, R348, R351). -/
def ctrValue (d : Dev) (shadow : Bool) (x : CtrName) : Nat :=
  if ctrGone d x.kind x.inst x.ev then 0 else SMap.get 0 (if shadow then d.shadow else d.ctr) (nameKey x)

/-- The selector after a 64-bit access to PERF_VAL (R348). DEDUCED, log entry 16. -/
def selAdvance (w : Nat) : Nat :=
  if !bit w 63 then w
  else
    let n := ((kindOfType (fld w 47 32)).bind (fun k => evSize k (fld w 55 48))).getD 0
    if fld w 13 0 + 1 < n then putFld w 13 0 (fld w 13 0 + 1)
    else putFld (putFld w 13 0 0) 55 48 (fld w 55 48 + 1)

/-- PERF_SEL with GONE. -/
def selWord (d : Dev) (w : Nat) : Nat :=
  match selName d w with
  | some x => putFld w 61 61 (b2n (ctrGone d x.kind x.inst x.ev))
  | none => putFld w 61 61 0

/-- A read of PERF_VAL; none is RESERVED. A 64-bit read advances the selector. -/
def perfRead (d : Dev) (whole : Bool) : Option (Nat × Dev) :=
  let w := rd d perfBlk .perfSel
  (selName d w).map (fun x =>
    (ctrValue d (bit w 62) x, if whole then wr d perfBlk .perfSel (selAdvance w) else d))

/-- A counter's COUNT is replaced, and WRAP cleared when bit 48 is 1; one of a slice in OFF ignores it (R349). -/
def ctrWrite (d : Dev) (x : CtrName) (v : Nat) : Dev :=
  if ctrGone d x.kind x.inst x.ev then d
  else
    let d := if x.kind = .mtr && x.ev < 3 then writeWord d ⟨.mtr, x.inst⟩ 1 (colourWord x.ix x.ev) else d
    let old := SMap.get 0 d.ctr (nameKey x)
    let wrap := bit old 48 && !bit v 48
    { d with ctr := SMap.set 0 d.ctr (nameKey x) (v % 2 ^ 48 + (if wrap then 2 ^ 48 else 0)) }

/-- How a register write ends: done, or a violation of a kind of Table 15. -/
inductive Wr
  | ok (d : Dev)
  | bad (kind : Nat)
  deriving DecidableEq, Repr

/-- A 64-bit write of PERF_VAL (R348, R349, R351). -/
def perfWrite (d : Dev) (v : Nat) : Wr :=
  let w := rd d perfBlk .perfSel
  match selName d w with
  | none => .bad 2
  | some x => if bit w 62 then .bad 3 else .ok (wr (ctrWrite d x v) perfBlk .perfSel (selAdvance w))

/-- PERF_SNAP.GO; none is NOT_PERMITTED (R351). -/
def snapRequest (d : Dev) : Option Dev :=
  if bit (rd d perfBlk .perfSnap) 63 || !isOn d perfBlk then none else some (wr d perfBlk .perfSnap (2 ^ 63))

/-- The block runs what it has begun: it is ON, or DISABLING, which waits for a snapshot or a dump (R361). -/
def perfRuns (d : Dev) : Bool := (blkSt d perfBlk).cur == 2 || (blkSt d perfBlk).cur == 3

/-- SNAPSHOT: at the snapshot tick every counter goes to its shadow (R351). -/
def snapTake (t : TimeState) (d : Dev) : Dev :=
  if !bit (rd d perfBlk .perfSnap) 63 || !perfRuns d then d
  else
    let d := readColours t d
    let d := wr { d with shadow := d.ctr } perfBlk .perfSnap 0
    wr d perfBlk .perfSnapTime ((t.now.sec % 65536) <<< 48 + t.now.ns)

/-- PERF_DUMP_CTRL; none is NOT_PERMITTED (R352). -/
def dumpWrite (d : Dev) (w : Nat) : Option Dev :=
  if bit (rd d perfBlk .perfDumpCtrl) 63 || fld w 31 16 < fld w 15 0 then none
  else some (wr d perfBlk .perfDumpCtrl (w.land (2 ^ 63 + 2 ^ 62 + 0xFFFFFFFFFFFF)))

/-- Every counter of an instance, in the order of a dump. -/
def instCtrs (k : BlkKind) (i : Nat) : List CtrName :=
  (upto 0 128).flatMap (fun e => match evSize k e with
    | some n => (upto 0 n).map (fun x => ⟨k, i, e, x⟩)
    | none => [])

/-- The counters that a dump names, in its order. -/
def dumpList (d : Dev) (w : Nat) : List CtrName :=
  match kindOfType (fld w 47 32) with
  | none => []
  | some k => ((upto (fld w 15 0) (fld w 31 16 + 1 - fld w 15 0)).filter (instExists d k)).flatMap (instCtrs k)

/-- DUMP_DONE: the words are written, and the event sent (R352). DEDUCED, log entries 50 and 68. -/
def dumpDone (t : TimeState) (d : Dev) : Dev :=
  let w := rd d perfBlk .perfDumpCtrl
  if !bit w 63 || !perfRuns d then d
  else
    let l := dumpList d w
    let d := if kindOfType (fld w 47 32) = some .mtr && !bit w 62 then readColours t d else d
    let d := dmaWords d 0 (rd d perfBlk .perfDumpAddr) (l.map (ctrValue d (bit w 62)))
    eventMgr t (wrF d perfBlk .perfDumpCtrl 63 63 0) 0x09 0 l.length 0 0

/-- A running dump whose DMA request fails ends (R365); how many words were written before is open. DEDUCED, log entry
68. -/
def dumpFault (t : TimeState) (d : Dev) : Dev :=
  let w := rd d perfBlk .perfDumpCtrl
  if !bit w 63 || !perfRuns d then d
  else
    let (n, d) := fresh d
    eventMgr t (wrF d perfBlk .perfDumpCtrl 63 63 0) 0x09 0 (n % ((dumpList d w).length + 1)) 0 0

/-- The port of a counter of a kind SP, SPC, CP, CPC or CLS, and of MAC counters (R353, R355). -/
def ctrPort (x : CtrName) : Option Nat :=
  match x.kind, evSize x.kind x.ev with
  | .mac, _ => some x.inst
  | k, some 16 => if k.info.level == .slice then some (x.inst * 16 + x.ix) else none
  | k, some 128 => if k.info.level == .slice then some (x.inst * 16 + x.ix / 8) else some (x.inst * 128 + x.ix)
  | .bpm, some 1024 => some (x.inst * 128 + x.ix / 8)
  | _, _ => none

/-- A partition owns the port of a counter. -/
def ownsPort (d : Dev) (p : Nat) (x : CtrName) : Bool :=
  match ctrPort x with
  | some l => memGet d .partPort 0 l == p
  | none => false

/-- A partition may watch a counter (R355). -/
def mayWatch (d : Dev) (p : Nat) (x : CtrName) : Bool :=
  p == 0 || (evSize x.kind x.ev == some 4096 && x.ix == p) || ownsPort d p x

/-- The counter and the configuration of a threshold entry. -/
def thrCtr (d : Dev) (j : Nat) : Nat := memGet d .perfThrCtr 0 j
def thrCfg (d : Dev) (j : Nat) : Nat := memGetD d .perfThrCfg 0 j (1 <<< 32)

/-- The count of EVERY restarts with a write of the entry; a crossing that waits for its frame is dropped. -/
def thrRestart (d : Dev) (j : Nat) : Dev :=
  let rest := d.watch.filter (fun x => x.1 != j)
  let d := memSet (memSet d .perfThrCfg 1 j 0) .perfThrCfg 3 j 0
  match selName d (thrCtr d j), bit (thrCfg d j) 63 with
  | some x, true => { d with watch := rest ++ [(j, nameKey x, 0)] }
  | _, _ => { d with watch := rest }

/-- PERF_THR_CTR of an entry. -/
def thrCtrWrite (d : Dev) (j w : Nat) : Dev := thrRestart (writeWord (memSet d .perfThrCtr 0 j w) perfBlk 0 (2 * j)) j

/-- PERF_THR_CFG of an entry; none is NOT_PERMITTED (R355). -/
def thrCfgWrite (d : Dev) (j w : Nat) : Option Dev :=
  let w := w.land (rwMask .perfThrCfg)
  let may := match selName d (thrCtr d j) with
    | some x => mayWatch d (fld w 59 48) x
    | none => fld w 59 48 == 0
  if bit w 63 && !may then none
  else some (thrRestart (writeWord (memSetD d .perfThrCfg 0 j (1 <<< 32) w) perfBlk 0 (2 * j + 1)) j)

/-- The counter that an entry names is one that the partition may watch (R355). -/
def thrOwned (d : Dev) (j p : Nat) : Bool :=
  match selName d (thrCtr d j) with
  | some x => mayWatch d p x
  | none => false

/-- THRESHOLD_FIRING: after every EVERY increments, unless the gap since the last record has not passed (R355).
The crossing waits for its frame. -/
def thrFire (t : TimeState) (d : Dev) (j : Nat) : Dev :=
  match findFirst (fun x => x.1 == j) d.watch with
  | none => d
  | some (_, k, n) =>
    let cfg := thrCfg d j
    let every := max 1 (fld cfg 31 0)
    if !isOn d perfBlk || n < every then d
    else
      let d := { d with watch := mapIf (fun x => x.1 == j) (fun x => (x.1, x.2.1, n % every)) d.watch }
      let last := memGet d .perfThrCfg 2 j
      if !thrOwned d j (fld cfg 59 48) || memGet d .perfThrCfg 1 j ≠ 0 || (last ≠ 0 && t.tick + 1 < last + 1800 * max 1 (fld cfg 45 32)) then d
      else
        let cur := SMap.get 0 d.ctr k % 2 ^ 48
        memSet (memSet d .perfThrCfg 1 j ((cur + 2 ^ 48 - n % every) % 2 ^ 48 + 1)) .perfThrCfg 3 j t.now.ns

/-- Events that never name a frame (R356). -/
def frameless (x : CtrName) : Bool :=
  x.kind == .hbm || x.kind == .cmt || x.kind == .csl || x.kind == .d2d || (x.kind == .slc && x.ev < 3)
    || (x.kind == .exm && x.ev == 4)

/-- SAMPLE_FRAME: the record of a crossing, with the frame that it names (R356). -/
def thrSample (t : TimeState) (d : Dev) (j skid : Nat) (fid : Option Nat) : Dev :=
  let v := memGet d .perfThrCfg 1 j
  let cfg := thrCfg d j
  let p := fld cfg 59 48
  let put (d : Dev) (e1 e2 e3 : Nat) : Dev :=
    let d := memSet (memSet d .perfThrCfg 1 j 0) .perfThrCfg 2 j (t.tick + 1)
    let ns := memGet d .perfThrCfg 3 j
    let (d, ok) := eventTo t d p (fld cfg 47 46) 0x0A 0 (j <<< 58 + e1 + (v - 1)) (ns <<< 32 + e2) e3
    if ok then d else wr d perfBlk .perfSmpStat (satAdd (2 ^ 32 - 1) (rd d perfBlk .perfSmpStat) 1)
  if v = 0 || !isOn d perfBlk then d
  else
    let blind := match selName d (thrCtr d j) with
      | some x => frameless x
      | none => true
    if blind || fid = none then put d (64 <<< 51 + 1 <<< 50) 0 0
    else match fid.bind (frameOf d) with
      | none => d
      | some f =>
        if 64 ≤ skid || (p ≠ 0 && mPart f.sect ≠ p) then d
        else put d (skid <<< 51) (f.port <<< 22 + mPart f.sect <<< 10)
          ((if f.stage = 2 then imQueue f.image else 0) <<< 44 + mFlowHash f.sect)

/-- PERF_SMP_STAT: a read clears DROPS. -/
def smpStatRead (d : Dev) : Nat × Dev := (rd d perfBlk .perfSmpStat, wr d perfBlk .perfSmpStat 0)

/-- Completion word 1 of CTR_READ (Table 16.4). -/
def ctrWord (st : Nat) (ue : Option Nat) (n : Nat) : Nat :=
  st <<< 60 + b2n ue.isSome <<< 59 + (ue.getD 0) <<< 24 + n

/-- Fields of a CTR_READ. -/
def crBase (c : Desc) : Nat := fld (dw c 1) 63 40
def crCount (c : Desc) : Nat := fld (dw c 1) 39 16
def crClusters (c : Desc) : List Nat := setBits (fld (dw c 1) 15 8) 8

/-- CTR_STATUS that ends a CTR_READ before it reads; 0 lets it run (R360, Table 16.4). DEDUCED, log entry 33. -/
def ctrReadCheck (d : Dev) (p : Nat) (c : Desc) : Nat :=
  let w := dw c 1
  if crCount c = 0 || 16777215 < crBase c + crCount c || crClusters c = [] || fld w 4 0 ≠ 0 || dw c 2 % 16 ≠ 0
      || (upto 3 5).any (fun i => dw c i ≠ 0) then 3
  else if p ≠ 0 && !(inRange d p 3 (crBase c) && inRange d p 3 (crBase c + crCount c - 1)) then 1
  else if (part d p).st = 6 && bit w 6 then 6
  else if (crClusters c).any (fun k => !isOn d (stackFor d k)) then 5
  else 0

/-- CTR_READ starts. -/
def ctrRead (d : Dev) (p r : Nat) : Dev :=
  match nextOp d p r 0x30 with
  | none => d
  | some c =>
    let st := ctrReadCheck d p c
    if st = 0 then startDesc d p r c.n else completeDesc d p r c.n 0 (ctrWord st none 0)

/-- A pair as CTR_READ reads it: its accumulators are flushed first; an uncorrectable pair reads free values. -/
def readPair (t : TimeState) (d : Dev) (p k i : Nat) (delta clear : Bool) : Nat × Bool × Dev :=
  let mine (a : Acc) : Bool := a.cluster == k && a.index == i
  let due := (d.fc.flush ++ d.fc.acc).filter mine
  let d := setFc d { d.fc with flush := d.fc.flush.filter (fun a => !mine a), acc := d.fc.acc.filter (fun a => !mine a) }
  let d := due.foldl (applyFlush t) d
  let fold := (part d p).folding
  let both := !delta && fold
  let one (d : Dev) (x : Bool) : Nat × Bool × Dev :=
    let (ue, d) := readWords t d (stackFor d k) 0 (ctrWords d k i x) (some 1)
    let bad := d.fc.ues.contains (ueKey k i x)
    let d := setFc d { d.fc with ues := d.fc.ues.filter (fun y => y != ueKey k i x) }
    let v := ctrPair d k i x
    let (v, d) := if ue then
        let (a, d) := fresh d
        let (b, d) := fresh d
        (a + b * 2 ^ 64, d)
      else (v, d)
    (v, ue || bad, if clear then putCtr d k i x 0 else d)
  let (v, ue, d) := one d delta
  if both then
    let (s, su, d) := one d true
    (pairAdd v (s % 2 ^ 64) (s / 2 ^ 64), ue || su, d)
  else (v, ue, d)

/-- CTR_READ_DONE: the ring's oldest running CTR_READ writes its records and completes (R360). -/
def ctrReadDone (t : TimeState) (d : Dev) (p r : Nat) : Dev :=
  match findFirst (fun c => opOf c.words == 0x30 && c.started && c.done.isNone) (ring d .command p r).descs with
  | none => d
  | some c =>
    let w := dw c 1
    let ixs := upto (crBase c) (crCount c)
    let pairs := (crClusters c).flatMap (fun k => ixs.map (fun i => (k, i)))
    if (crClusters c).any (fun k => !isOn d (stackFor d k)) then completeDesc d p r c.n 0 (ctrWord 5 none 0)
    else
      let (vals, ue, d) := pairs.foldl (fun (s : List (Nat × Nat) × Option Nat × Dev) x =>
        let (v, u, d) := readPair t s.2.2 p x.1 x.2 (bit w 5) (bit w 6)
        (s.1 ++ [(x.2, v)], s.2.1.orElse (fun _ => if u then some x.2 else none), d)) ([], none, d)
      let words := if bit w 7 then ixs.flatMap (fun i =>
          let l := vals.filter (fun x => x.1 == i)
          let s := l.foldl (fun a x => pairAdd a (x.2 % 2 ^ 64) (x.2 / 2 ^ 64)) 0
          [s % 2 ^ 64, s / 2 ^ 64])
        else vals.flatMap (fun x => [x.2 % 2 ^ 64, x.2 / 2 ^ 64])
      completeDesc (dmaWords d p (dw c 2) words) p r c.n 0 (ctrWord 0 ue (crCount c))

end Sys2Proof.Machine
end

