-- ==== Sys2Proof/Machine/Host.lean ====
section
/-! DEFINITION. The host interface and start-up: ring registers, DMA errors, PKT_SEND, the boot sequence,
recovery, and the resets. -/
namespace Sys2Proof.Machine

def pciBlk : Blk := devBlk .pci
def bootBlk : Blk := devBlk .boot

/-- What a write of a register does: it acts, it is NOT_PERMITTED, or it acts in part and is counted too. -/
inductive Wrote
  | ok (d : Dev) | no | part (d : Dev)
  deriving DecidableEq, Repr

/-- A handler's answer: none is NOT_PERMITTED. -/
def wrote : Option Dev → Wrote
  | some d => .ok d
  | none => .no

/-- A write of a ring's CFG (R369). A ring that is enabled takes no new LOG2_SIZE: a write of ENABLE = 1 to it is
not permitted, and one of ENABLE = 0 disables it. A disabled ring that had stopped on a fault writes nothing more.
DEDUCED, log entries 52 and 53. -/
def writeCfg (t : TimeState) (d : Dev) (k : RingKind) (p r w : Nat) : Wrote :=
  let x := ring d k p r
  match x.enable, bit w 63 with
  | false, true => .ok (setRing d k p r (enableRing x (fld w 4 0)))
  | false, false => .ok (setRing d k p r { x with log2 := ringLog2 (fld w 4 0), raw := fld w 4 0 })
  | true, true => .no
  | true, false =>
    let d := match openBatch d p r with
      | some b => if k == .command then discardBatch t d b 1 else d
      | none => d
    let x := ring d k p r
    let d := setRing d k p r { x with enable := false, stopped := true, cause := 5,
                                      descs := if x.silent then [] else x.descs }
    if fld w 4 0 = x.raw then .ok d else .part d

/-- A write of BASE, CPL or TAIL_WB: none while the ring is enabled (R369). -/
def writeRingAddr (d : Dev) (k : RingKind) (p r : Nat) (f : Ring → Ring) : Option Dev :=
  if (ring d k p r).enable then none else some (setRing d k p r (f (ring d k p r)))

/-- A write of TAIL, the doorbell (R368). -/
def writeTail (d : Dev) (p r tail : Nat) : Option Dev :=
  let x := ring d .command p r
  if tailOk x (tail % 2 ^ 32) then some (setRing d .command p r { x with tail := tail % 2 ^ 32 }) else none

/-- A write of HEAD of an event or Spore ring (R371). -/
def writeHead (d : Dev) (k : RingKind) (p r head : Nat) : Option Dev :=
  let x := ring d k p r
  if headOk x (head % 2 ^ 32) then some (setRing d k p r { x with head := head % 2 ^ 32 }) else none

/-- A write of PCI_VEC_DATA for the partition that PCI_VEC_ADDR names (R366, Table 17.12). -/
def writeVec (d : Dev) (w : Nat) : Option Dev :=
  let p := rdF d pciBlk .pciVecAddr 11 0
  let n := fld w 43 32
  if 2048 < fld w 10 0 + n || d.rings.any (fun e => e.1 / 64 == p && e.2.enable && n ≤ fld e.2.irq 58 48) then none
  else some (setPart d p { part d p with vec := n <<< 32 + fld w 10 0 })

/-- NOP (Table 17.3). -/
def ringNop (d : Dev) (p r : Nat) : Dev :=
  match nextOp d p r 0x00 with
  | some c => completeDesc d p r c.n 0 0
  | none => d

/-- Fields of a PKT_SEND (Table 17.6). -/
def pktQueue (c : Desc) : Nat := fld (dw c 1) 63 44
def pktProg (c : Desc) : Nat := fld (dw c 1) 43 32
def pktLen (c : Desc) : Nat := fld (dw c 1) 13 0

/-- SEND_STATUS of what a PKT_SEND asks for; 0 lets it run (R373). DEDUCED, log entries 33 and 66. -/
def pktCheck (d : Dev) (p : Nat) (c : Desc) : Nat :=
  if p ≠ 0 && queueOwner d (pktQueue c) != p then 2
  else if p ≠ 0 && !(progState d (pktProg c) == 1 && inRange d p 4 (pktProg c)) then 3
  else if pktLen c < 60 || 10236 < pktLen c then 4
  else if crustState d ≠ 0 then 7
  else 0

/-- PKT_SEND starts: its frame is read, or it completes at once. DEDUCED, log entry 66. -/
def pktSend (d : Dev) (p r : Nat) : Dev :=
  match nextOp d p r 0x10 with
  | none => d
  | some c =>
    let st := pktCheck d p c
    if st = 0 then send (startDesc d p r c.n) (.dmaRead p (dmaPasid d p) (dw c 2 / 8 * 8) (pktLen c))
    else completeDesc d p r c.n 0 (st <<< 60)

/-- The action image of a PKT_SEND: QUEUE, PROG, KIND 0, P0 to P31; P32 to P55 are zero. -/
def pktImage (c : Desc) : List Nat :=
  [pktQueue c <<< 44 + pktProg c <<< 32, dw c 4, dw c 5, dw c 6, dw c 7, 0, 0, 0]

/-- The ring's oldest descriptor of an opcode that its engine has. -/
def runningOp (d : Dev) (p r op : Nat) : Option Desc :=
  findFirst (fun c => opOf c.words == op && c.started && c.done.isNone) (ring d .command p r).descs

/-- The frame that PKT_SEND makes of the bytes it read, and the device that holds it and its reference on the program
(R167, R373). DEDUCED, log entry 66. -/
def pktFrame (t : TimeState) (d : Dev) (p : Nat) (c : Desc) (data : List Byte) : Frame × Dev :=
  let body := (data ++ List.replicate (pktLen c) 0).take (pktLen c)
  let (fid, d) := nextId d
  let f := { Frame.start fid (queuePort d (pktQueue c)) (withFcs body) t.now with stage := 2, tail := true, ready := true }
  let (m, d) := parseFrame d f
  let m := setMetaF (setMetaF (setMetaF m 0 53 42 p) 0 41 28 f.len) 0 27 26 0
  let f := { f with sect := m, fin := m, adTc := mTc m, image := pktImage c }
  (f, takeRef t (setFp d { d.fp with frames := d.fp.frames ++ [f] }) (queueSlice (pktQueue c)) (pktProg c))

/-- PKT_SEND_FRAME_READ: PA parses the frame as one arriving on the queue's port, and it is admitted as a
miss-path frame (R373). DEDUCED, log entry 66. -/
def pktRead (t : TimeState) (d : Dev) (p r : Nat) (data : List Byte) : Dev :=
  match runningOp d p r 0x10 with
  | none => d
  | some c =>
    if crustState d ≠ 0 then completeDesc d p r c.n 0 (7 <<< 60)
    else
      let q := pktQueue c
      let (f, d) := pktFrame t d p c data
      match requestCopy t d f q (pktProg c) (pktImage c) true false none with
      | (some e, _, d) =>
        let d := dropRef t (countRefuse d f q p e) (queueSlice q) (pktProg c)
        completeDesc (settleFrame d f.fid) p r c.n 0 (1 <<< 60)
      | (none, _, d) => completeDesc (settleFrame d f.fid) p r c.n 0 0

/-- The operation of a ring that a failed transfer ends, with its DMA_FAULT status (R365): one that is running,
or the next descriptor, whose image cannot be read; with none of the manager's, a dump. DEDUCED, log entry 67. -/
def transferFault (t : TimeState) (d : Dev) (p r : Nat) : Dev :=
  match runningOp d p r 0x10 with
  | some c => completeDesc d p r c.n 0 (5 <<< 60)
  | none =>
    match runningOp d p r 0x30 with
    | some c => completeDesc d p r c.n 0 (ctrWord 2 none 0)
    | none =>
      match nextDesc d p r with
      | none => if p = 0 then dumpFault t d else d
      | some c =>
        if opOf c.words = 0x20 && !bit (dw c 1) 39 then tblChange t d p r none
        else if opOf c.words = 0x28 then editLoad d p r .dmaFault []
        else d

/-- DMA_FAULT (R365, R369): an error bit of the PCI page, and what the failed request leads to. DEDUCED, log entries 50,
67 and 68. DESIGN CHOICE, log entries 139 and 140. -/
def dmaFault (t : TimeState) (d : Dev) (p r : Nat) (what : DmaUse) (timeout : Bool) : Dev :=
  let d := errFault t d pciBlk (if timeout then 2 else 1) 14 0 0
  match what with
  | .fetch => if (ring d .command p r).live then ringFault t d .command p r 1 else d
  | .record k => if (ring d k p r).live then ringFault t d k p r 2 else d
  | .transfer => transferFault t d p r

/-- PWRGOOD_AON is high. DESIGN CHOICE, log entry 12. -/
def powered (d : Dev) : Bool := memGet d .boot 0 7 == 0

/-- The start-up step in progress (Table 17.7): 8 once it is reached, 0 without power. DEDUCED, log entry 59. -/
def bootStep (d : Dev) : Nat :=
  let w := bootFacts d
  if !powered d then 0 else if bit w 63 then 8 else fld w 58 56

/-- Recovery mode (R377). -/
def recovering (d : Dev) : Bool := bit (bootFacts d) 62

/-- The boot runs, and is in this step. DEDUCED, log entry 58. -/
def inStep (d : Dev) (n : Nat) : Bool := bootStep d == n && !recovering d

/-- BOOT_STATUS.STEP (R374). DEDUCED, log entry 59. -/
def setStep (d : Dev) (n : Nat) : Dev := setBoot d 58 56 n

/-- A block is ON with ENABLE set. DEDUCED, log entry 63. -/
def switchOn (d : Dev) (b : Blk) : Dev := setBlk d b ⟨true, 2, false, false⟩

/-- The number of BOOT_STATUS.ERR for an envelope's outcome (Table 17.11). -/
def bootErr : EnvResult → Nat
  | .ok => 0
  | .noImage => 1
  | .badKind => 2
  | .revoked => 3
  | .svnLow => 4
  | .sigFail => 5
  | .decryptFail => 6
  | .missing => 8
  | .dmaFault => 1

/-- The failing check, and the failing section's directory index. DEDUCED, log entry 61. -/
def bootFail (d : Dev) (err sect : Nat) : Dev := setBoot (setBoot d 55 52 err) 51 48 sect

/-- The boot ends: recovery mode (R377). DEDUCED, log entries 60, 61 and 63. -/
def bootEnd (d : Dev) (err sect : Nat) : Dev :=
  let d := switchOn (switchOn (setBoot (bootFail d err sect) 62 62 1) bootBlk) pciBlk
  if memGet d .boot 0 1 = 2 then wrF d bootBlk .bootRecCtrl 62 62 1 else d

/-- Step 2: the boot ROM starts and ALIVE starts toggling; BOOT_SRC 2 waits for a recovery image (R275, Table 17.8).
DEDUCED, log entries 58 and 60. -/
def romStart (d : Dev) : Dev :=
  let d := setStep { d with aliveRun := true } 2
  if rdF d bootBlk .bootStrap 1 0 = 2 then bootEnd d 0 0 else d

/-- ALIVE_TOGGLE: the first one comes when the boot ROM has read the straps (R275). A lost REFCLK_AON and a JTAG
instruction that drives the pin keep ALIVE where it is. DEDUCED, log entry 58. -/
def aliveMoves (d : Dev) : Dev :=
  let d := if inStep d 1 then romStart d else d
  if memGet d .boot 0 8 = 1 || 3 ≤ memGet d .boot 0 9 then d else aliveToggle d

/-- The ROM turns to the second copy, or the boot ends (R377). Entry 1 of the boot's own state names the image:
0 the first copy, 1 the second, 2 one from the host. DEDUCED, log entry 61. -/
def nextCopy (d : Dev) (err : Nat) : Dev :=
  if memGet d .boot 0 1 = 0 then memSet (setStep (bootFail d err 0) 2) .boot 0 2 1 else bootEnd d err 0

/-- BOOT_IMAGE_READ_DONE (R374, R377). DESIGN CHOICE, log entry 42. DEDUCED, log entry 58. -/
def imageRead (d : Dev) (copy : Nat) (ok : Bool) : Dev :=
  let d := if inStep d 1 then romStart d else d
  if !inStep d 2 then d
  else if memGet d .boot 0 2 = 1 then
    match copy with
    | 1 =>
      let d := setBoot (memSet (memSet d .boot 0 2 0) .boot 0 1 1) 61 61 1
      if ok then setStep d 3 else bootEnd d 1 0
    | 2 => bootEnd (memSet d .boot 0 2 0) (max 1 (fld (bootFacts d) 55 52)) 0
    | _ => d
  else if copy = 0 then (if ok then setStep d 3 else nextCopy d 1)
  else d

/-- FIRMWARE_START (R374, R377). -/
def firmwareStart (d : Dev) (r : EnvResult) : Dev :=
  if !inStep d 3 then d
  else match r with
    | .ok => setStep d 4
    | r => nextCopy d (bootErr r)

/-- The lanes of a pseudo-channel that failed its training, each once. -/
def failedLanes (lanes : List (Nat × Nat × Nat)) (h pc : Nat) : List Nat :=
  ((lanes.filter (fun x => x.1 == h && x.2.1 == pc)).map (fun x => x.2.2)).eraseDups

/-- Training of a stack: rows that gave corrected errors are replaced and counted (R246), and the spare lane of a
pseudo-channel takes the place of one that failed (R247). -/
def repairStack (d : Dev) (lanes : List (Nat × Nat × Nat)) (h : Nat) : Dev :=
  let b : Blk := ⟨.hbm, h⟩
  let due (e : Nat × Nat) : Bool := e.1 / 2 ^ 32 == memKey .hbmRows h 0 / 2 ^ 32 && e.2 == 3
  let d := wrF d b .hbmStatus 63 48 (min 65535 (rdF d b .hbmStatus 63 48 + countIf due d.mem))
  let d := memDrop d .hbmRows h
  (upto 0 64).foldl (fun d pc => match failedLanes lanes h pc with
    | [l] => if l < 36 then memSet d .hbmSpare h pc (l + 1) else d
    | _ => d) (memDrop d .hbmSpare h)

/-- HBM_TRAINING_DONE: `lanes` failed, as stack, pseudo-channel and lane; bit h of `late` says that a step of stack h did
not complete. A stack with two failing lanes in a pseudo-channel, or with such a step, has failed, and does not leave
OFF (R247). -/
def trainingDone (t : TimeState) (d : Dev) (lanes : List (Nat × Nat × Nat)) (late : Nat) : Dev :=
  if !inStep d 4 then d
  else
    let d := (hbmStacks d).foldl (fun d h =>
      let b : Blk := ⟨.hbm, h⟩
      let d := repairStack d lanes h
      if bit late h || (upto 0 64).any (fun pc => 2 ≤ (failedLanes lanes h pc).length) then errFault t (memSet d .hbmRefill h 1 1) b 4 13 2 0 else memSet d .hbmRefill h 1 0) d
    setStep d 5

/-- The memories of the hub, the clusters and the slices hold zero words, and so do the edit stores and their golden copy
(R255). The collector's class records stay: they take events from the start. DESIGN CHOICE, log entry 163. -/
def filled (d : Dev) : Dev :=
  let mems := [Mem.prsKb, .exmDir, .exmChain, .exmWgt, .schQ, .schG, .gcl, .bpmLim, .bpmQ, .mcg, .mcl, .mir, .smp, .tcmFlip,
    .edtStore, .edtBad, .edtProg, .edtRef, .edtMcTime, .partPort, .partQown, .crust, .limLog, .perfThrCtr, .perfThrCfg]
  let filled (k : Nat) : Bool := mems.any (fun m => memKey m 0 0 ≤ k && k < memKey m 4096 0)
  { d with
    mem := SMap.drop filled d.mem
    marks := []
    parts := d.parts.filterMap (fun e =>
      let x : Part := { (if e.1 = 0 then Part.manager else Part.free) with vec := e.2.vec }
      if x = (if e.1 = 0 then Part.manager else Part.free) then none else some (e.1, x))
    ctr := []
    watch := [] }

/-- ON_DIE_FILL_DONE (R255). -/
def fillDone (d : Dev) : Dev := if inStep d 5 then setStep (filled d) 6 else d

/-- LOADS_DONE: the edit programs of the boot image are ACTIVE (R170); a section that fails ends the boot. DEDUCED, log
entry 62. -/
def loadsDone (d : Dev) (r : EnvResult) (sect : Nat) (payload : List Byte) : Dev :=
  if !inStep d 6 then d
  else match r with
    | .ok => match payloadProgs payload with
      | none => bootEnd d 5 sect
      | some progs =>
        if (loadCheck progs (usedRanges d)).isSome then bootEnd d 5 sect
        else setStep (storeProgs d progs 1) 7
    | r => bootEnd d (bootErr r) sect

/-- The blocks that are ON at DEVICE_READY beside the fixed-on ones (R375). -/
def readyBlocks (d : Dev) : List Blk :=
  [bootBlk, pciBlk] ++ ((hbmStacks d).filter (fun h => memGet d .hbmRefill h 1 == 0)).map (fun h => ⟨.hbm, h⟩)
    ++ blks .d2d 0 56 ++ blks .clu 0 8 ++ blks .slc 0 64

/-- CLUSTER_RELEASE_DONE: DEVICE_READY (R374, R375). STEP has three bits: step 8 reads 0. DESIGN CHOICE, log entry 64. -/
def releaseDone (d : Dev) (ms : Nat) : Dev :=
  if !inStep d 7 then d
  else
    let d := (readyBlocks d).foldl switchOn d
    let d := setBoot (setStep d 0) 63 63 1
    setBoot d 31 0 (min ms (2 ^ 32 - 1))

/-- BOOT_TIMEOUT (R377). -/
def bootTimeout (d : Dev) : Dev :=
  if !recovering d && 1 ≤ bootStep d && bootStep d ≤ 7 then bootEnd { d with aliveRun := true } 7 0 else d

/-- BOOT_REC_CTRL: GO needs recovery mode and BOOT ON (R377, R381). DEDUCED, log entry 65. -/
def writeRec (d : Dev) (w : Nat) : Option Dev :=
  if !isOn d bootBlk || (bit w 63 && !recovering d) then none
  else
    let old := rd d bootBlk .bootRecCtrl
    let d := wr d bootBlk .bootRecCtrl (putFld old 25 0 w)
    if bit w 63 && !bit old 63 then
      let d := wrF (wrF d bootBlk .bootRecCtrl 63 63 1) bootBlk .bootRecCtrl 62 62 0
      some (send d (.dmaRead 0 none (rd d bootBlk .bootRecAddr / 64 * 64) (fld w 25 0)))
    else some d

/-- RECOVERY_READ_DONE: the ROM restarts from step 3, or sets FAIL (R377). DESIGN CHOICE, log entry 42. DEDUCED, log
entry 61. -/
def recoveryRead (d : Dev) (ok : Bool) : Dev :=
  if !recovering d || !bit (rd d bootBlk .bootRecCtrl) 63 then d
  else
    let d := memSet (wrF d bootBlk .bootRecCtrl 63 63 0) .boot 0 1 2
    if ok then setStep (setBoot (bootFail d 0 0) 62 62 0) 3
    else wrF (bootFail d 1 0) bootBlk .bootRecCtrl 62 62 1

/-- BOOT_RESET: the key starts a system reset (Table 17.11). DEDUCED, log entry 65. -/
def writeBootReset (d : Dev) (w : Nat) : Option Dev :=
  if isOn d bootBlk && fld w 31 0 == 0x53595352 then some { d with resetReq := true } else none

/-- The device with nothing but its ordering code: what was sent, and the free values used, stay behind it. DEDUCED, log
entry 57. -/
def blank (d : Dev) : Dev := { Dev.reset with h4 := d.h4, free := d.free, out := d.out }

/-- The straps, which the boot ROM reads in step 2 (Table 17.8, R307). DEDUCED, log entry 57. -/
def strapped (d : Dev) (w : Nat) : Dev := wrF (wr d bootBlk .bootStrap (w % 16)) cslBlk .cslState 63 63 (w / 4)

/-- System reset: every page but FLT_STOP (Table 17.10). Rows that the training of the restart is to replace are as they
were (R246). The straps' pins, the JTAG instruction and the reference
clocks are as they were. DESIGN CHOICE, log entry 10. DEDUCED, log entry 57. -/
def systemReset (d : Dev) : Dev :=
  let n := wr (strapped (blank d) (rd d bootBlk .bootStrap)) fltBlk .fltStop (rd d fltBlk .fltStop)
  let n := ([8, 9, 10] ++ upto 16 8).foldl (fun n i => memSet n .boot 0 i (memGet d .boot 0 i)) n
  { n with mem := d.mem.foldl (fun l e => if memKey .hbmRows 0 0 ≤ e.1 && e.1 < memKey .hbmRows 8 0 && e.2 = 3 then SMap.set 0 l e.1 e.2 else l) n.mem }

/-- Power-on reset, at the rise or the fall of PWRGOOD_AON (R379, R385). -/
def powerOn (d : Dev) (rise : Bool) (straps : Nat) : Dev :=
  if rise then strapped (blank d) straps else memSet (blank d) .boot 0 7 1

/-- The rings that the partitions hold. DEDUCED, log entry 55. -/
def allRings (d : Dev) : List (RingKind × Nat × Nat) :=
  ((knownParts d).filter (fun p => (part d p).st != 0)).flatMap (fun p =>
    [RingKind.command, .event, .spore].flatMap (fun k => (upto 0 (ringsHeld d p k)).map (fun r => (k, p, r))))

/-- Every ring is at reset but for STAT, which reads STOPPED with CAUSE LINK_RESET (R380, Table 17.10). DEDUCED, log
entry 55. -/
def stopAll (d : Dev) : Dev :=
  (allRings d).foldl (fun n x =>
    setRing n x.1 x.2.1 x.2.2 { Ring.idle with stopped := true, cause := 4, drops := (ring d x.1 x.2.1 x.2.2).drops })
    { d with rings := [] }

/-- The index of no descriptor: the ring that posted it is gone. -/
def noDesc : Nat := 2 ^ 32

/-- Work of the commit engine that was not decoded as a commit ends, and so do its waits; what goes on has no
descriptor left to complete (R380). -/
def dropRingWork (t : TimeState) (d : Dev) : Dev :=
  let d := (d.cmt.batches.filter (fun b => !b.internal && b.state == 1)).foldl (fun d b => discardBatch t d b 1) d
  let d := (d.cmt.stalls.filter (fun s =>
      !d.cmt.batches.any (fun b => b.state == 2 && isStall b.part b.ring b.desc s))).foldl
    (fun d s => stallEnd t d s.part s.ring s.n) d
  { d with
    cmt := { d.cmt with
      drainWaits := []
      batches := d.cmt.batches.map (fun b => { b with desc := noDesc, changes := b.changes.map (fun c => { c with n := noDesc }) })
      stalls := d.cmt.stalls.map (fun s => { s with n := noDesc }) }
    tw := { d.tw with sent := d.tw.sent.map (fun x => { x with desc := noDesc }) } }

/-- The PCI page at reset; LINK_DOWNS counts since power-on, and a link that stays trained keeps its state. DEDUCED, log
entry 56. -/
def pciReset (d : Dev) (keep : Bool) : Dev :=
  let base := pageBase pciBlk 0 / 8
  let old := rd d pciBlk .pciStat
  let d := { d with
    regs := SMap.drop (fun k => base ≤ k && k < base + 0x200) d.regs
    latch := SMap.drop (fun k => base ≤ k && k < base + 0x200) d.latch
    msix := []
    pba := [] }
  softMore (wr d pciBlk .pciStat (if keep then old else fld old 15 0)) pciBlk

/-- No further DMA is issued: a dump ends, and so does a save to host memory (R365, R380). DEDUCED, log entry 167. -/
def endHostWork (t : TimeState) (d : Dev) : Dev :=
  let d := wrF d perfBlk .perfDumpCtrl 63 63 0
  (d.parts.filter (fun e => e.2.saving && e.2.job.headD 0 == 0)).foldl (fun d e =>
    partEnd t (setPart d e.1 { part d e.1 with saving := false, job := [] }) 13 7 e.1) d

/-- Link reset, and function level reset with the link kept (R379, R380). DEDUCED, log entries 22, 55, 56 and 167.
DESIGN CHOICE, log entry 140. -/
def linkReset (t : TimeState) (d : Dev) (keep : Bool) : Dev :=
  let up := bit (rd d pciBlk .pciStat) 63
  let d := endHostWork t (pciReset (dropRingWork t (stopAll d)) keep)
  if keep || !up then d
  else
    let d := wrF d pciBlk .pciStat 15 0 (min 0xFFFF (rdF d pciBlk .pciStat 15 0 + 1))
    errFault t d pciBlk 0 14 0 0

/-- PCIE_LINK_UP: after DEVICE_READY, or in recovery mode (R375, R377). DESIGN CHOICE, log entry 140. -/
def pcieUp (d : Dev) (speed width : Nat) : Dev :=
  let w := rd d pciBlk .pciStat
  if (bootStep d = 8 || recovering d || memGet d .boot 0 1 = 2) && isOn d pciBlk && !bit w 63 && 1 ≤ speed && speed ≤ 5
      && (width = 1 || width = 2 || width = 4) && memGet d .boot 0 10 = 0 then
    wr d pciBlk .pciStat (2 ^ 63 + speed <<< 32 + width <<< 28 + fld w 15 0)
  else d

end Sys2Proof.Machine
end

