-- ==== Sys2Proof/Machine/Ports.lean ====
section
/-! DEFINITION. Ports and their lanes, supplies, reference clocks, JTAG, device time's adjustments and PPS, drain
reports, and replication fences. -/
namespace Sys2Proof.Machine

/-- A write of MAC_CFG with the register's new value (R393): none is NOT_PERMITTED. -/
def writeMacCfg (d : Dev) (lane v : Nat) : Option Dev :=
  let b (l : Nat) : Blk := ⟨.mac, l⟩
  let off (l : Nat) : Bool := (blkSt d (b (portOf d l))).cur == 0
  let old := portWidth d lane
  let w := fld v 59 56
  if old = 0 || !off lane then none
  else
    let d := wr d (b lane) .macCfg (putFld (v.land (rwMask .macCfg)) 59 56 old)
    if w = old then some d
    else if (w = 1 || w = 2 || w = 4 || w = 8) && lane % w = 0 && (upto lane w).all off then
      let d := (upto (lane + w) (old - w)).foldl (fun d l => wrF d (b l) .macCfg 59 56 1) d
      let d := (upto (lane + 1) (w - 1)).foldl (fun d l => wrF d (b l) .macCfg 59 56 0) d
      some (wrF d (b lane) .macCfg 59 56 w)
    else none

/-- A port's clock runs: its cluster's REFCLK_SDc is there (R387). -/
def clocked (d : Dev) (c : Nat) : Bool := memGet d .boot 0 (16 + c) == 0

/-- LINK_UP: a port that is ON completes training (R392, Table 18.10); not before a slice in NAP or OFF has reloaded device
time (R18), and not while the port's owner is FREE (R285). DEDUCED, log entry 144. -/
def portUpNow (d : Dev) (port : Nat) (anDone : Bool) : Dev :=
  let b : Blk := ⟨.mac, port⟩
  let v := rd d b .macStat
  if port < 1024 && isOn d b && portWidth d port != 0 && !bit v 63 && clocked d (portCluster port)
      && slcState d (portSlice port) ≤ 1 && !halted d && (part d (memGet d .partPort 0 port)).st != 0 then
    wr d b .macStat (7 <<< 61 + b2n (anDone && bit (rd d b .macCfg) 54) <<< 60 + fld v 15 0)
  else d

/-- LINK_DOWN: the event is counted (Table 18.10). -/
def portDown (d : Dev) (port : Nat) : Dev :=
  let b : Blk := ⟨.mac, port⟩
  let v := rd d b .macStat
  if bit v 63 then wr d b .macStat (min 0xFFFF (fld v 15 0 + 1)) else d

/-- The registers of a PRBS set (Table 18.12). -/
structure PrbsSet where
  blk  : Blk
  ix   : Nat
  gen  : Reg
  chk  : Reg
  stat : Reg
  err  : Reg
  bits : Reg
  ctl  : Reg
  deriving DecidableEq, Repr

/-- Where the set of a lane stands (R400). -/
def prbsSet : PrbsLane → PrbsSet
  | .sds l => ⟨⟨.sds, l⟩, 0, .sdsPrbsGen, .sdsPrbsChk, .sdsPrbsStat, .sdsPrbsErr, .sdsPrbsBits, .sdsPrbsCtl⟩
  | .csl l => ⟨devBlk .csl, l, .cslPrbsGen, .cslPrbsChk, .cslPrbsStat, .cslPrbsErr, .cslPrbsBits, .cslPrbsCtl⟩
  | .pci l => ⟨devBlk .pci, l, .pciPrbsGen, .pciPrbsChk, .pciPrbsStat, .pciPrbsErr, .pciPrbsBits, .pciPrbsCtl⟩
  | .d2d i => ⟨⟨.d2d, i⟩, 0, .d2dPrbsGen, .d2dPrbsChk, .d2dPrbsStat, .d2dPrbsErr, .d2dPrbsBits, .d2dPrbsCtl⟩

/-- The lane exists. -/
def prbsExists : PrbsLane → Bool
  | .sds l => l < 1024
  | .csl l => l < 8
  | .pci l => l < 4
  | .d2d i => i < 56

/-- The lane carries nothing else (R401). DESIGN CHOICE, log entry 72. -/
def prbsFree (d : Dev) : PrbsLane → Bool
  | .sds l => (blkSt d ⟨.mac, portOf d l⟩).cur == 0 && memGet d .linkChk l 0 == 0
  | .csl _ => (blkSt d (devBlk .csl)).cur == 0
  | .pci _ => (blkSt d (devBlk .pci)).cur == 0
  | .d2d i => (blkSt d ⟨.d2d, i⟩).cur == 0

/-- A write of PRBS_GEN or PRBS_CHK (R401). A checker that is started or stopped has no lock. -/
def writePrbsEn (d : Dev) (lane : PrbsLane) (checker : Bool) (v : Nat) : Option Dev :=
  let x := prbsSet lane
  if bit v 63 && !prbsFree d lane then none
  else
    let r := if checker then x.chk else x.gen
    let d := wr d x.blk r (v.land (rwMask r)) x.ix
    some (if checker then wrF d x.blk x.stat 63 63 0 x.ix else d)

/-- A write of PRBS_CTL: LOOP obeys R401. -/
def writePrbsCtl (d : Dev) (lane : PrbsLane) (v : Nat) : Option Dev :=
  let x := prbsSet lane
  if fld v 1 0 ≠ 0 && !prbsFree d lane then none else some (wr d x.blk x.ctl (v.land (rwMask x.ctl)) x.ix)

/-- A locked checker has counted since it was last looked at: how many bits, and how many wrong, is open (R400). DESIGN
CHOICE, log entry 72. -/
def prbsCounted (d : Dev) (lane : PrbsLane) : Dev :=
  let x := prbsSet lane
  if bit (rd d x.blk x.stat x.ix) 63 then
    let (a, d) := fresh d
    let (e, d) := fresh d
    let d := wr d x.blk x.bits (ctrAdd (rd d x.blk x.bits x.ix) a) x.ix
    wr d x.blk x.err (ctrAdd (rd d x.blk x.err x.ix) e) x.ix
  else d

/-- PRBS_CHECKER_LOCK (R400). -/
def prbsLocked (d : Dev) (lane : PrbsLane) : Dev :=
  let x := prbsSet lane
  if prbsExists lane && bit (rd d x.blk x.chk x.ix) 63 then wrF d x.blk x.stat 63 63 1 x.ix else d

/-- PRBS_LOCK_LOSS (R400). -/
def prbsLost (d : Dev) (lane : PrbsLane) : Dev :=
  let x := prbsSet lane
  if prbsExists lane && bit (rd d x.blk x.stat x.ix) 63 then
    let d := prbsCounted d lane
    let v := rd d x.blk x.stat x.ix
    wr d x.blk x.stat (2 ^ 62 + min 0xFFFF (fld v 15 0 + 1)) x.ix
  else d

/-- SUPPLY_EXCURSION (R383, Table 18.1): rails 3 to 10 are the cores, whose band is not tested for 200 microseconds
after a change of their request. DEDUCED, log entry 69. DESIGN CHOICE, log entry 70. -/
def supplyExcursion (t : TimeState) (d : Dev) (rail : Nat) (fail : Bool) : Dev :=
  let core := 3 ≤ rail && rail ≤ 10
  let b : Blk := if core then ⟨.clu, rail - 3⟩ else devBlk .pwr
  let asked := memGet d .limPrev 6 (rail - 3)
  if 16 < rail then d
  else if fail then reportFault d 11 (if core then 2 else 4) b 0 rail false
  else if core && asked ≠ 0 && t.tick + 1 - asked < 360000 then d
  else reportFault d 10 0 b 0 rail false

/-- AVS_WRITE_RESULT (R386). DEDUCED, log entry 132. -/
def avsResult (d : Dev) (c : Nat) (ok : Bool) : Dev :=
  let want := memGet d .limPrev 5 c
  if 8 ≤ c || want = 0 then d
  else
    let d := memSet d .limPrev 5 c 0
    if ok then wrF d ⟨.clu, c⟩ .cluAvs 63 48 (want - 1) else reportFault d 10 0 ⟨.clu, c⟩ 0 (3 + c) false

/-- REFCLK_LOSS (R387). DEDUCED, log entry 69. -/
def clockLost (t : TimeState) (d : Dev) : RefClk → Dev
  | .aon => memSet d .boot 0 8 1
  | .sd c =>
    if 8 ≤ c || !clocked d c then d
    else
      let d := (upto (128 * c) 128).foldl portDown (memSet d .boot 0 (16 + c) 1)
      (upto (7 * c) 7).foldl (fun d i => reportFault d 12 2 ⟨.d2d, d2dPeer i⟩ 0 (d2dPeer i) false) d
  | .pcie => linkReset t (memSet d .boot 0 10 1) false

/-- REFCLK_RESTORED. -/
def clockBack (d : Dev) : RefClk → Dev
  | .aon => memSet d .boot 0 8 0
  | .sd c => if c < 8 then memSet d .boot 0 (16 + c) 0 else d
  | .pcie => memSet d .boot 0 10 0

/-- JTAG_INSTRUCTION (R402): a private instruction acts as BYPASS; one that takes over the pins stops forwarding
and drives ALIVE from its scan cell, whose level the spec does not give. IDCODE shifts out its register. DESIGN
CHOICE, log entry 71. -/
def jtagLoad (d : Dev) (code : Nat) : Dev :=
  if !powered d then d
  else
    let c := if 7 < code then 0 else code
    let d := memSet d .boot 0 9 c
    if c = 1 then send d (.readData (BitVec.ofNat 64 (0xB9204 <<< 12 + Config.jep106.toNat <<< 1 + 1)))
    else if 3 ≤ c then
      let (v, d) := fresh d
      { d with alive := v % 2 == 1 }
    else d

/-- The block of device time. -/
def timBlk : Blk := devBlk .tim

/-- A request to change device time joins those that wait: kind 1 is a step, kind 2 an increment (R217). DEDUCED, log
entry 74. -/
def timeAsk (d : Dev) (kind v : Nat) : Dev :=
  let n := memGet d .timReq 0 1
  memSet (memSet (memSet d .timReq 0 (16 + 2 * n) kind) .timReq 0 (17 + 2 * n) v) .timReq 0 1 (n + 1)

/-- Device time after a step of a signed number of nanoseconds: never negative (R217). DEDUCED, log entry 74. -/
def stepTime (x : DTime) (off : Nat) : DTime :=
  let m := dtNum x
  let n := off * 2 ^ 32
  if off < 2 ^ 63 then
    let y := numDt (m + n)
    { y with sec := y.sec % 2 ^ 48 }
  else
    let k := (2 ^ 64 - off) * 2 ^ 32
    numDt (m - k)

/-- TIME_ADJUST_APPLY: the oldest request takes effect. DEDUCED, log entry 74. -/
def timeApply (t : TimeState) (d : Dev) : TimeState × Dev :=
  let n := memGet d .timReq 0 0
  if memGet d .timReq 0 1 ≤ n then (t, d)
  else
    let kind := memGet d .timReq 0 (16 + 2 * n)
    let v := memGet d .timReq 0 (17 + 2 * n)
    let d := memSet (memSet d .timReq 0 (16 + 2 * n) 0) .timReq 0 (17 + 2 * n) 0
    let last := memGet d .timReq 0 1 = n + 1
    let d := memSet (memSet d .timReq 0 0 (if last then 0 else n + 1)) .timReq 0 1 (if last then 0 else memGet d .timReq 0 1)
    (if kind = 1 then let x := stepTime t.now v; { t with now := x, hist := [(t.tick, dtNum x, t.incr)] }
     else { t with incr := v, hist := (t.tick, dtNum t.now, v) :: t.hist }, d)

/-- PPS_OUT_PULSE: PPS_OUT changes level; with OUT_EN it drives the land (R231). DESIGN CHOICE, log entry 73. -/
def ppsOut (d : Dev) : Dev :=
  let up := memGet d .timReq 0 2 = 0
  if up && !bit (rd d timBlk .timPps) 0 then d
  else send (memSet d .timReq 0 2 (b2n up)) (.pps up)

/-- PPS_IN_CAPTURE: the edge that IN_EDGE names records device time; it holds until the next (Table 9.10). -/
def ppsIn (t : TimeState) (d : Dev) (rising : Bool) : Dev :=
  let w := rd d timBlk .timPps
  if bit w 1 && rising != bit w 2 then
    memSet (wr d timBlk .timPpsCapNs (2 ^ 63 + t.now.ns)) .timReq 0 3 t.now.sec
  else d

/-- What a slice or cluster has in flight in an epoch (R111). -/
def inFlight (d : Dev) (u e : Nat) : Bool :=
  if u < 64 then
    d.fp.frames.any (fun f => f.stage == 1 && !f.gone && portSlice f.port == u && mEpoch f.sect == e)
  else
    (upto (8 * (u - 64)) 8).any (fun b => memGet d .tcmEpoch b 0 != 0 && (memGet d .tcmEpoch b 0 - 1) % 8 == e)

/-- EPOCH_REPORT: nothing of the epoch is in flight, and a report is owed (R111). -/
def epochReport (d : Dev) (u e : Nat) : Dev :=
  if u < 72 && e < 8 && owed d u e = 1 && e ≠ unitVersion d u % 8 && !inFlight d u e && !unitAway d u then setOwed d u e 2
  else d

/-- BPM_REPL_FENCE.GO: the replications that have read a group entry are those that stand (R189). -/
def fenceGo (d : Dev) (c : Nat) : Dev :=
  let d := setFp d { d.fp with repls := mapIf (fun r => r.cluster == c) (fun r => { r with fenced := true }) d.fp.repls }
  wrF d ⟨.bpm, c⟩ .bpmReplFence 63 63 1

/-- REPL_FENCE_DONE. -/
def fenceDone (d : Dev) (c : Nat) : Dev :=
  if d.fp.repls.any (fun r => r.cluster == c && r.fenced) then d else wrF d ⟨.bpm, c⟩ .bpmReplFence 63 63 0

end Sys2Proof.Machine
end

