-- ==== Sys2Proof/Machine/Views.lean ====
section
/-! DEFINITION. What the registers of BAR0 read: the live values of fields that other state gives. -/
namespace Sys2Proof.Machine

/-- The bits of a register whose fields have one of the codes that `p` names. -/
def accMask (r : Reg) (p : Sys2Proof.Acc → Bool) : Nat :=
  (regInfo r).fields.foldl (fun m (f : Field) =>
    if p f.acc then m.lor ((2 ^ (f.hi + 1 - f.lo) - 1) <<< f.lo) else m) 0

/-- The block error bits that a kind defines, beside STUCK and VIOL_SAT (Table 2.9; R126, R153, R176, R203, R229, R251,
R282, R306, R323, R344, R345, R381). -/
def errBits (k : BlkKind) : Nat :=
  let n := match k with
    | .fdh | .edt | .sch | .flt | .pci => 3
    | .bpm => 4
    | .hbm => 6
    | .csl | .cmt => 2
    | .slc | .clu | .lim | .part => 1
    | _ => 0
  3 <<< 62 + (2 ^ n - 1)

/-- The block whose ENABLE and STATE a page shows: a lane inside a wider port shows its first lane's (R47). -/
def shownBlk (d : Dev) (b : Blk) : Blk := if innerLane d b then ⟨.mac, portOf d b.inst⟩ else b

/-- CTRL of a page (Table 2.6). -/
def ctrlView (d : Dev) (b : Blk) (sub : Nat) : Nat :=
  let x := blkSt d (shownBlk d b)
  (rdAt d b sub .ctrl 0).land 4 + b2n (blkSt d b).softReset * 2 + b2n x.enable

/-- STATE of a page (Table 2.7). -/
def stateView (d : Dev) (b : Blk) : Nat :=
  let b := shownBlk d b
  b2n (held d b) <<< 9 + b2n (blkSt d b).pend <<< 8 + (blkSt d b).cur

/-- The memory that PROT_SEL names (R265). -/
def protMem (d : Dev) (b : Blk) : Nat := rdF d b .protSel 7 0

/-- Header and protection registers. -/
def viewCommon (d : Dev) (b : Blk) (sub : Nat) : Reg → Option Nat
  | .ctrl => some (ctrlView d b sub)
  | .state => some (stateView d b)
  | .protCnt => some (preg d b (protMem d b) .cnt)
  | .protLast => some (preg d b (protMem d b) .last)
  | .scrubLap => some (preg d b (protMem d b) .lap)
  | .scrubLapLimit => some (preg d b (protMem d b) .limit)
  | .protInj => some ((preg d b (protMem d b) .inj).land (2 ^ 63 + 0xFFFFFFFF))
  | .scrubCtrl => some (preg d b (protMem d b) .ctrl)
  | _ => none

/-- A block's own counter. -/
def ctrView (d : Dev) (k : BlkKind) (inst ev ix : Nat) : Nat := ctrValue d false ⟨k, inst, ev, ix⟩

/-- PWR_STAT.DEV_STATE: RUN and IDLE tell whether some slice is ACTIVE (Table 15.5, R331). -/
def devState (d : Dev) : Nat :=
  if sleepState d ≠ 0 then sleepState d else if (upto 0 64).any (fun s => slcState d s == 0) then 0 else 1

/-- Two bits for each of 32 slices. -/
def slcStates (d : Dev) (lo : Nat) : Nat := (upto 0 32).foldl (fun a k => a + slcState d (lo + k) <<< (2 * k)) 0

/-- FLT_PENDING. -/
def fltPendingView (d : Dev) : Nat := (upto 0 64).foldl (fun a k => a + b2n (pendLevel d k != 0) <<< k) 0

/-- VER_LIVE (Table 5.11); a batch is open until its version is assigned. DEDUCED, log entry 27. -/
def verLiveView (d : Dev) : Nat :=
  d.cmt.oldest <<< 32 + (liveVersions d).length <<< 24 + d.cmt.batches.length <<< 8 + countIf (fun b => b.state == 1) d.cmt.batches

/-- CMT_BATCH of a tag (Table 5.14). DEDUCED, log entry 27. -/
def cmtBatchView (d : Dev) (g : Nat) : Nat :=
  match batchOf d g with
  | none => 0
  | some b =>
    let n := if b.internal then countIf (fun e => e.born == some g || e.dies == some g) d.entries else okCount b
    (if b.state ≤ 2 then 1 else b.state - 1) <<< 62 + b.part <<< 50 + (n % 2 ^ 18) <<< 32 + (if 3 ≤ b.state then b.version else 0)

/-- Registers of the commit engine, the twin and the counters. -/
def viewHub (d : Dev) (i : Nat) : Reg → Option Nat
  | .verLive => some (verLiveView d)
  | .commitStall => some (rdF d cmtBlk .commitStall 63 60 <<< 60 + ctrView d .cmt 0 1 0)
  | .commitStallTime => some (ctrView d .cmt 0 2 0)
  | .cmtCount => some (ctrView d .cmt 0 0 0)
  | .cmtBatch => some (cmtBatchView d i)
  | .cslCmd => some (b2n (cslBusy d) <<< 63 + (rd d cslBlk .cslCmd) % 2 ^ 63)
  | .cslPreplData => some (prepl d (rdF d cslBlk .cslPreplAddr 11 0))
  | .cslRetry => some (ctrView d .csl 0 0 0)
  | .cslReplDrop => some (ctrView d .csl 0 1 0)
  | .perfSel => some (selWord d (rd d perfBlk .perfSel))
  | .perfVal => some (((selName d (rd d perfBlk .perfSel)).map
      (ctrValue d (bit (rd d perfBlk .perfSel) 62))).getD 0)
  | .perfThrCtr => some (thrCtr d (rdF d perfBlk .perfThrSel 5 0))
  | .perfThrCfg => some (thrCfg d (rdF d perfBlk .perfThrSel 5 0))
  | _ => none

/-- Registers of the partition table (Tables 13.10, 13.11). -/
def viewPart (d : Dev) (r : Reg) : Option Nat :=
  let p := rdF d partBlk .partSel 11 0
  let x := part d p
  match r with
  | .partState => some (partState x)
  | .partPasid => some x.pasid
  | .partReset => some x.rst
  | .partBudget => some x.budget
  | .partRings => some x.rings
  | .partHost => some x.host
  | .partRangeAct => some (if p = 0 then 0 else rangeOf d p 0)
  | .partRangeGrp => some (if p = 0 then 0 else rangeOf d p 1)
  | .partRangeMbr => some (if p = 0 then 0 else rangeOf d p 2)
  | .partRangeCtr => some (if p = 0 then 0 else rangeOf d p 3)
  | .partRangePrg => some (if p = 0 then 0 else rangeOf d p 4)
  | .partRangeMcg => some (if p = 0 then 0 else rangeOf d p 5)
  | .partPool => some (poolWord d)
  | .partPortData => some (memGet d .partPort 0 (rdF d partBlk .partPortAddr 9 0))
  | .partQownData => some (memGet d .partQown 0 (rdF d partBlk .partQownAddr 13 0))
  | _ => none

/-- The entry of a Limitur log that LIM_LOG_ADDR names. DEDUCED, log entry 16. -/
def limLogView (d : Dev) : Nat :=
  let a := rd d limBlk .limLogAddr
  memGet d .limLog (fld a 14 12) (fld a 11 0)

/-- Other registers of the hub. -/
def viewDevice (t : TimeState) (d : Dev) (i : Nat) : Reg → Option Nat
  | .pwrStat => some (rdF d pwrBlk .pwrStat 11 8 <<< 8 + devState d)
  | .pwrSlcStateLo => some (slcStates d 0)
  | .pwrSlcStateHi => some (slcStates d 32)
  | .timNowNs => some (t.now.frac <<< 32 + t.now.ns)
  | .fltPending => some (fltPendingView d)
  | .fltLevel => some (fltLevel d)
  | .fltRecA => some (putFld (rd d fltBlk .fltRecA i) 62 62 (b2n (pendLevel d i != 0)))
  | .fltCrustData => some (memGet d .crust 0 (rdF d fltBlk .fltCrustAddr 9 0))
  | .pciVecData => some (part d (rdF d pciBlk .pciVecAddr 11 0)).vec
  | .limLogData => some (limLogView d)
  | _ => none

/-- BPM_LIM_DATA and BPM_LIM_OCC at BPM_LIM_ADDR (Table 8.10). -/
def limDataView (d : Dev) (c : Nat) : Nat :=
  let a := rd d ⟨.bpm, c⟩ .bpmLimAddr
  memGetD d .bpmLim c (fld a 13 12 * 4096 + fld a 11 0) (limDefault (fld a 13 12))
def limOccView (d : Dev) (c : Nat) : Nat :=
  let a := rd d ⟨.bpm, c⟩ .bpmLimAddr
  let i := fld a 11 0
  match fld a 13 12 with
  | 0 => portCells d c (128 * c + i / 8) (i % 8)
  | 1 => partBlocks d c i <<< 19 + partCells d c i
  | 2 => regionBlocks d c i <<< 19
  | _ => 0

/-- BPM_Q_DATA at BPM_Q_ADDR (Table 8.12). -/
def bpmQView (d : Dev) (c : Nat) : Nat :=
  let q := c * 131072 + rdF d ⟨.bpm, c⟩ .bpmQAddr 16 0
  memGetD d .bpmQ c (q % 131072) (0x40000 <<< 32) + b2n (spilling d q) <<< 31 + queueCells d q

/-- Registers of the pool manager of a cluster. -/
def viewBpm (d : Dev) (c : Nat) (r : Reg) : Option Nat :=
  let b : Blk := ⟨.bpm, c⟩
  match r with
  | .bpmOcc => some (poolRsv d c <<< 32 + poolFree d c)
  | .bpmSpillOcc => some (countIf (fun x => queueCluster x.queue == c) d.fp.blocks <<< 32 + stagingFree d c)
  | .bpmLimData => some (limDataView d c)
  | .bpmLimOcc => some (limOccView d c)
  | .bpmQData => some (bpmQView d c)
  | .bpmQSpill => some (queueBlocks d (c * 131072 + rdF d b .bpmQAddr 16 0)).length
  | .bpmMcgData => some (memGet d .mcg c (rdF d b .bpmMcgAddr 15 0))
  | .bpmMclData => some (memGet d .mcl c (rdF d b .bpmMclAddr 16 0))
  | .bpmMirData => some (memGet d .mir c (rdF d b .bpmMirAddr 5 0))
  | .bpmSmpData => some (memGet d .smp c (rdF d b .bpmSmpAddr 17 0))
  | _ => none

/-- The entries that a TCAM block holds, and the table that owns it (Table 4.22). -/
def tcmUsed (d : Dev) (b : Nat) : Nat :=
  countIf (fun e => e.kind == 4 && e.cluster == b / 8 && e.place / 8192 == b % 8) d.entries
def tcmOwner (d : Dev) (b : Nat) : Option Nat :=
  findFirst (fun k =>
    let e := memGet d .exmDir (b / 8) k
    bit e 63 && fld e 62 60 == 3 && dirFirst e ≤ b % 8 && b % 8 < dirFirst e + dirBlocks e) (upto 0 256)

/-- Entries of a kind in a cluster. -/
def usedIn (d : Dev) (k c : Nat) (p : Entry → Bool) : Nat :=
  countIf (fun e => e.kind == k && e.cluster == c && p e) d.entries

/-- Registers of a cluster's tables, prediction cache and stack. -/
def viewTables (t : TimeState) (d : Dev) (b : Blk) (r : Reg) : Option Nat :=
  let c := b.inst
  match r with
  | .exmOcc => some (usedIn d 1 c (fun _ => true) <<< 32 + usedIn d 0 c (fun e => stashBase ≤ e.place) <<< 22
      + usedIn d 0 c (fun e => e.place < stashBase))
  | .exmDirData => some (memGet d .exmDir c (rdF d b .exmDirAddr 7 0))
  | .exmChainData => some (memGet d .exmChain c (rdF d b .exmChainAddr 10 5 * 32 + rdF d b .exmChainAddr 4 0))
  | .exmWgtData => some (readWeight d c (rdF d b .exmWgtAddr 18 0))
  | .exmHbmq => some (rdF d b .exmHbmq 44 32 <<< 32 + flowDepth d c)
  | .lpmOcc => some (usedIn d 3 c (fun _ => true) <<< 32 + usedIn d 2 c (fun _ => true))
  | .tcmOcc =>
    let o := tcmOwner d c
    some (o.getD 0 <<< 32 + b2n o.isSome <<< 31 + preg d b 0 .pos <<< 14 + tcmUsed d c)
  | .fdhOcc => some (rdF d b .fdhOcc 42 32 <<< 32 + predValid t d c)
  | .fdhPstatData => some (ctrView d .fdh c (rdF d b .fdhPstatAddr 3 0) (rdF d b .fdhPstatAddr 27 16))
  | .fdhDiagData => some (predWord t d c (rdF d b .fdhDiagAddr 21 7) (rdF d b .fdhDiagAddr 6 4) (rdF d b .fdhDiagAddr 3 0))
  | .hbmStatus => some (rdF d b .hbmStatus 63 47 <<< 47 + hbmNt d b <<< 23 + stackBlocks d b)
  | .hbmRaw => some (ctrView d .hbm c 0 0)
  | _ => none

/-- The port and list that SCH_GATE_ADDR names. -/
def gatePort (d : Dev) (s : Nat) : Nat := 16 * s + rdF d ⟨.sch, s⟩ .schGateAddr 3 0
def gateSel (d : Dev) (s : Nat) : Nat := rdF d ⟨.sch, s⟩ .schGateAddr 16 16
def gateIx (d : Dev) (s : Nat) : Nat := rdF d ⟨.sch, s⟩ .schGateAddr 15 8

/-- Registers of the schedulers, gates and pauses of a slice. DEDUCED, log entry 28. -/
def viewSch (t : TimeState) (d : Dev) (s i : Nat) (r : Reg) : Option Nat :=
  let b : Blk := ⟨.sch, s⟩
  let g := gateList d (gatePort d s) (gateSel d s)
  let th := rdF d b .schPfcThAddr 6 0
  match r with
  | .schQData => some (memGetD d .schQ s (rdF d b .schQAddr 13 0) 1)
  | .schGData => some (memGetD d .schG s (rdF d b .schGAddr 14 0) 1)
  | .schGateEntry => some (gateEntry d (gatePort d s) (gateSel d s) (gateIx d s))
  | .schGateCycle => some (g.len <<< 32 + g.cycle)
  | .schGateBaseS => some g.sec
  | .schGateBaseNs => some g.ns
  | .schGateCtrl =>
    let x := gateOf d (gatePort d s)
    some (b2n x.pend.isSome * (3 <<< 62) + x.oper <<< 61 + b2n x.enable)
  | .schPfcThData => some (memGetD d .pfcTh s th (0x40000 <<< 32 + 0x40000))
  | .schPfcOcc => some (b2n ((xoffOf d (16 * s + th / 8)).contains (th % 8)) <<< 63 + ingressCells d (16 * s + th / 8) (th % 8))
  | .schPfc => some (putFld (rd d b .schPfc i) 31 24
      ((upto 0 8).foldl (fun a k => a + b2n (paused t d (16 * s + i) k) <<< k) 0))
  | _ => none

/-- A quarter of a word of a slice's edit store, as stored (Table 7.19). -/
def storeQuarter (d : Dev) (s : Nat) : Nat :=
  let a := rd d ⟨.edt, s⟩ .edtStoreAddr
  (storeWord d s (fld a 14 2) >>> (64 * fld a 1 0)) % 2 ^ 64

/-- Other registers of a slice. -/
def viewSlice (d : Dev) (b : Blk) (r : Reg) : Option Nat :=
  let s := b.inst
  match r with
  | .slcWakes => some (ctrView d .slc s 1 0)
  | .slcDozeClk => some (ctrView d .slc s 2 0)
  | .macCfg => some (if innerLane d b then 0 else rd d b .macCfg)
  | .prsKbData => some (kbInstr d s (rdF d b .prsKbAddr 13 8) (rdF d b .prsKbAddr 7 4) (rdF d b .prsKbAddr 3 0))
  | .edtProgData => some (progEntry d (rdF d b .edtProgAddr 11 0))
  | .edtRef => some (progRef d s (rdF d b .edtProgAddr 11 0))
  | .edtStoreData => some (storeQuarter d s)
  | .mtrCnt => some (ctrView d .mtr s (rdF d b .mtrAddr 17 16) (rdF d b .mtrAddr 13 0))
  | _ => none

/-- What element `i` of a register in page `sub` of a block holds now. -/
def regView (t : TimeState) (d : Dev) (b : Blk) (sub : Nat) (r : Reg) (i : Nat) : Nat :=
  let own : Option Nat := match b.kind with
    | .cmt | .csl | .perf => viewHub d i r
    | .part => viewPart d r
    | .pwr | .tim | .flt | .pci | .lim => viewDevice t d i r
    | .bpm => viewBpm d b.inst r
    | .exm | .lpm | .tcm | .fdh | .hbm => viewTables t d b r
    | .sch => viewSch t d b.inst i r
    | .slc | .mac | .prs | .edt | .mtr => viewSlice d b r
    | _ => none
  match viewCommon d b sub r with
  | some v => v
  | none => own.getD (rdAt d b sub r i)

end Sys2Proof.Machine
end

