-- ==== Sys2Proof/Machine/BusWrite.lean ====
section
/-! DEFINITION. Writes of BAR0 registers: the access codes of Table 2.12, and what each register's write does. -/
namespace Sys2Proof.Machine

/-- The half of a register that an access touches. -/
inductive Half
  | whole | low | high
  deriving DecidableEq, Repr

/-- The bits of a half. -/
def Half.mask : Half → Nat
  | .whole => 2 ^ 64 - 1
  | .low => 2 ^ 32 - 1
  | .high => (2 ^ 32 - 1) <<< 32

/-- An access includes bits 31:0. -/
def Half.hasLow (h : Half) : Bool := h != .high
/-- An access includes bits 63:32. -/
def Half.hasHigh (h : Half) : Bool := h != .low

/-- A register that only 64-bit writes reach (R73, R88, R203, R229, R231, R306, R349, Tables 12.11, 14.7, 17.12, 18.12).
DEDUCED, log entry 15. -/
def wideOnly : Reg → Bool
  | .prsKbData | .exmDirData | .exmChainData | .bpmLimData | .bpmQData | .bpmMcgData | .bpmMclData | .bpmMirData
  | .bpmSmpData | .schQData | .schGData | .schPfcThData | .schGateBaseS | .timStep | .fltCrustData | .partPortData
  | .partQownData | .cslPreplData | .perfVal | .pciVecData | .sdsPrbsErr | .sdsPrbsBits | .cslPrbsErr | .cslPrbsBits
  | .pciPrbsErr | .pciPrbsBits | .d2dPrbsErr | .d2dPrbsBits => true
  | _ => false

/-- Access codes with which a field can be written (Table 2.12); an RWL field only while the page is not locked. -/
def codeWrites (lock : Bool) : Sys2Proof.Acc → Bool
  | .rw | .w1c | .w1s | .wo => true
  | .rwl => !lock
  | _ => false

/-- A writable field spans bit 31/32 (R34). DEDUCED, log entry 15. -/
def spansHalves (lock : Bool) (r : Reg) : Bool :=
  (regInfo r).fields.any (fun f => codeWrites lock f.acc && f.lo < 32 && 31 < f.hi)

/-- The bits of a register that a write may touch: header registers lose what their block does not define (R37). DESIGN
CHOICE, log entry 20. -/
def definedBits (b : Blk) : Reg → Nat
  | .errStatus => errBits b.kind
  | .errMask => errBits b.kind
  | .errFlipD => if memCount b.kind = 0 then 0 else 2 ^ 64 - 1
  | .errFlipC => if memCount b.kind = 0 then (2 ^ 32 - 1) <<< 32 else 2 ^ 64 - 1
  | .sdsPrbsCtl | .cslPrbsCtl | .pciPrbsCtl => 3
  | _ => 2 ^ 64 - 1

/-- The value of a register after a write of `w`, field by field (Table 2.12). -/
def mergeWrite (d : Dev) (b : Blk) (sub : Nat) (r : Reg) (h : Half) (old w : Nat) : Nat :=
  let m := h.mask.land (definedBits b r)
  let lock := locked d b sub
  let rw := m.land (accMask r (fun a => a == .rw || a == .wo || (a == .rwl && !lock)))
  let c := w.land (m.land (accMask r (fun a => a == .w1c)))
  let s := w.land (m.land (accMask r (fun a => a == .w1s)))
  let v := (old.land (rw.xor (2 ^ 64 - 1))).lor (w.land rw)
  (v.land (c.xor (2 ^ 64 - 1))).lor s

/-- WRAP of a counter is cleared in its block page (R346). -/
def clearWrap (d : Dev) (k : BlkKind) (inst ev ix w : Nat) : Dev :=
  if bit w 48 then
    let key := ctrKey k inst ev ix
    { d with ctr := SMap.set 0 d.ctr key (SMap.get 0 d.ctr key % 2 ^ 48) }
  else d
/-- The same of a colour counter, whose word is read for it (R350). -/
def colourWrap (t : TimeState) (d : Dev) (s ev ix w : Nat) : Dev :=
  writeWord (clearWrap (readColour t d s ix ev) .mtr s ev ix w) ⟨.mtr, s⟩ 1 (colourWord ix ev)

/-- Error bits of a block whose condition lasts: an order guard of the cluster that acts as full (R141). -/
def errLasting (d : Dev) (b : Blk) : Nat :=
  if b.kind == .fdh && (upto (8 * b.inst) 8).any (guardFull d) then 2 else 0

/-- A write of ERR_STATUS; a bit that sets again in the same clock stays set, with a new record (R39), and so does one
whose condition lasts. DESIGN CHOICE, log entry 31. -/
def errClear (t : TimeState) (d : Dev) (b : Blk) (sub w again : Nat) : Dev :=
  let old := rdAt d b sub .errStatus 0
  let d := wrAt d b sub .errStatus 0 (old.land (w.xor (2 ^ 64 - 1)))
  (setBits (((again.lor (errLasting d b)).land (errBits b.kind)).land (w.land old)) 64).foldl (fun d n => errSetAt t d b sub n) d

/-- A write of CTRL. Over PCI Express the endpoint does not disable itself; over SMBus that is a link reset (R381).
DEDUCED, log entries 22 and 109. -/
def ctrlWrite (t : TimeState) (d : Dev) (b : Blk) (sub w : Nat) (smbus : Bool) : Wrote :=
  let locks (d : Dev) : Dev := if bit w 2 then wrAt d b sub .ctrl 0 4 else d
  if b.kind == .pci && !bit w 0 && !smbus then (if bit w 2 then .part (locks d) else .no)
  else
    let down := b.kind == .pci && !bit w 0 && (blkSt d b).cur == 2
    match writeCtrl t d b sub w with
    | (d, true) => .ok (if down then linkReset t d false else d)
    | (d, false) => .part d

/-- A write of ERR_FLIP_C and EVT_BASE: ARM needs a memory that exists (Table 2.11). DESIGN CHOICE, log entry 20. -/
def flipWrite (d : Dev) (b : Blk) (sub : Nat) (h : Half) (w v : Nat) : Wrote :=
  if h.hasLow && bit w 31 && memCount b.kind ≤ fld w 23 16 then .no else .ok (wrAt d b sub .errFlipC 0 v)

/-- A write of a protection register of the memory that PROT_SEL names (Table 11.6). DEDUCED, log entry 29. -/
def protWrite (t : TimeState) (d : Dev) (b : Blk) (r : Reg) (v : Nat) : Dev :=
  let m := protMem d b
  match r with
  | .protLast => setPreg d b m .last v
  | .scrubLapLimit => setPreg d b m .limit v
  | .protInj => setPreg d b m .inj (putFld (preg d b m .inj) 63 63 (fld v 63 63))
  | _ => scrubEnable t d b m v

/-- A write of PART_CMD; OP 0 and 11 to 15 start nothing. A RESTORE from host memory reads the image that comes with the
command. DESIGN CHOICE, log entry 24. DEDUCED, log entry 127. -/
def partCmdWrite (t : TimeState) (d : Dev) (h : Half) (v : Nat) (img : SaveHead) : Dev :=
  let d := wr d partBlk .partCmd v
  let op := fld v 3 0
  if h.hasLow && 1 ≤ op && op ≤ 10 then partCommand t d op (fld v 27 16) (bit v 28) img else d

/-- A write of CSL_CMD; OPs other than 1 to 4 are ignored (Table 14.5). -/
def cslCmdWrite (t : TimeState) (d : Dev) (h : Half) (v : Nat) : Option Dev :=
  let e := wr d cslBlk .cslCmd (v % 2 ^ 63)
  if !h.hasLow then some e
  else if cslBusy d then none
  else match fld v 3 0 with
    | 1 => attachPair e
    | 2 => detachPair e
    | 3 => resyncPart t e (fld v 27 16)
    | 4 => xferStart e
    | _ => some e

/-- The word of a partition's record that a register shows (Table 13.10). DESIGN CHOICE, log entry 162. -/
def partRegWord : Reg → Option Nat
  | .partPasid => some 0 | .partReset => some 1 | .partBudget => some 2 | .partRings => some 3 | .partHost => some 4
  | .partRangeAct => some 5 | .partRangeGrp => some 6 | .partRangeMbr => some 7 | .partRangeCtr => some 8
  | .partRangePrg => some 9 | .partRangeMcg => some 10 | .partState => some 15
  | _ => none

/-- A write of a record of the selected partition (Table 13.10). DEDUCED, log entry 128. -/
def partRecWrite (d : Dev) (r : Reg) (v : Nat) : Option Dev :=
  let p := rdF d partBlk .partSel 11 0
  let x := part d p
  let d := match partRegWord r with
    | some k => writeWord d partBlk 0 (partWord p k)
    | none => d
  match r with
  | .partPasid => if p = 0 || x.st = 0 then some (setPart d p { x with pasid := v }) else none
  | .partReset => some (setPart d p { x with rst := v })
  | .partBudget => some (setPart d p { x with budget := v })
  | .partRings => if p ≠ 0 && x.st = 0 then some (setPart d p { x with rings := v }) else none
  | .partHost => some (setPart d p { x with host := v })
  | .partRangeAct => writeRange d .act v
  | .partRangeGrp => writeRange d .grp v
  | .partRangeMbr => writeRange d .mbr v
  | .partRangeCtr => writeRange d .ctr v
  | .partRangePrg => writeRange d .prg v
  | .partRangeMcg => writeRange d .mcg v
  | .partPortData => writePortOwner d (rdF d partBlk .partPortAddr 9 0) v
  | .partQownData => writeQueueOwner d (rdF d partBlk .partQownAddr 13 0) v
  | _ => none

/-- A write of a loop's control register: RESTORE acts at once, and a new MODE starts the loop's counts anew (R333, R334). -/
def loopCtrlWrite (t : TimeState) (d : Dev) (i : Nat) (h : Half) (w v : Nat) : Option Dev :=
  let old := rd d limBlk .limLoopCtrl i
  let e := wr d limBlk .limLoopCtrl (v % 2 ^ 63) i
  let e := if fld old 1 0 = fld v 1 0 then e else memDrop e .limCount i
  if h.hasHigh && bit w 63 then loopRestore t e i else some e

/-- Registers of the hub whose write does more than store. DESIGN CHOICE, log entry 26. -/
def writeHub (t : TimeState) (d : Dev) (r : Reg) (i off : Nat) (h : Half) (w v : Nat) : Option Wrote :=
  match r with
  | .pwrCtrl => some (.ok (if !h.hasLow then d else if bit w 0 then sleepRequest t d else runRequest d))
  | .timStep => some (.ok (timeAsk d 1 w))
  | .timIncr => some (.ok (timeAsk (wr d timBlk .timIncr v) 2 v))
  | .fltStatus => some (.ok (statusClear t d w off))
  | .fltAck => some (wrote (faultAck d w))
  | .fltCrustCtrl => some (if h.hasHigh && bit w 63 then wrote (crustExit t d) else .ok d)
  | .fltInj => some (wrote (faultInject t d w))
  | .fltUnfence => some (wrote (unfence t d w))
  | .fltCrustData =>
    let p := rdF d fltBlk .fltCrustAddr 9 0
    some (.ok (writeWord (memSet d .crust 0 p v) fltBlk 1 p))
  | .bootReset => some (wrote (writeBootReset d w))
  | .bootRecAddr => some (if isOn d bootBlk then .ok (wr d bootBlk .bootRecAddr v) else .no)
  | .bootRecCtrl => some (wrote (writeRec d v))
  | .pciVecData => some (wrote (writeVec d w))
  | .limLoopCtrl => some (wrote (loopCtrlWrite t d i h w v))
  | .commitStall => some (.ok (clearWrap d .cmt 0 1 0 w))
  | .commitStallTime => some (.ok (clearWrap d .cmt 0 2 0 w))
  | .cmtCount => some (.ok (clearWrap d .cmt 0 0 0 w))
  | .cslCmd => some (wrote (cslCmdWrite t d h v))
  | .cslPreplData => some (.ok (setPrepl d (rdF d cslBlk .cslPreplAddr 11 0) v))
  | .cslRetry => some (.ok (clearWrap d .csl 0 0 0 w))
  | .cslReplDrop => some (.ok (clearWrap d .csl 0 1 0 w))
  | .perfSnap => some (if h.hasHigh && bit w 63 then wrote (snapRequest d) else .ok d)
  | .perfDumpCtrl => some (wrote (dumpWrite d v))
  | .perfThrCtr => some (.ok (thrCtrWrite d (rdF d perfBlk .perfThrSel 5 0) w))
  | .perfThrCfg => some (wrote (thrCfgWrite d (rdF d perfBlk .perfThrSel 5 0) v))
  | .perfVal => some (match perfWrite d w with
    | .ok d => .ok d
    | .bad _ => .no)
  | .partCmd => some (.ok (partCmdWrite t d h v ⟨[], []⟩))
  | .partPasid | .partReset | .partBudget | .partRings | .partHost | .partRangeAct | .partRangeGrp | .partRangeMbr
  | .partRangeCtr | .partRangePrg | .partRangeMcg | .partPortData | .partQownData => some (wrote (partRecWrite d r v))
  | _ => none

/-- The lane of a PRBS set in a block's page. -/
def prbsOf (b : Blk) (i : Nat) : PrbsLane :=
  match b.kind with
  | .csl => .csl i
  | .pci => .pci i
  | .d2d => .d2d b.inst
  | _ => .sds b.inst

/-- Registers of a PRBS set (R400, R401). -/
def writePrbs (d : Dev) (b : Blk) (r : Reg) (i w v : Nat) : Option Wrote :=
  let lane := prbsOf b i
  match r with
  | .sdsPrbsGen | .cslPrbsGen | .pciPrbsGen | .d2dPrbsGen => some (wrote (writePrbsEn d lane false v))
  | .sdsPrbsChk | .cslPrbsChk | .pciPrbsChk | .d2dPrbsChk => some (wrote (writePrbsEn d lane true v))
  | .sdsPrbsCtl | .cslPrbsCtl | .pciPrbsCtl | .d2dPrbsCtl => some (wrote (writePrbsCtl d lane v))
  | .sdsPrbsErr | .cslPrbsErr | .pciPrbsErr | .d2dPrbsErr | .sdsPrbsBits | .cslPrbsBits | .pciPrbsBits | .d2dPrbsBits =>
    let d := prbsCounted d lane
    let old := rd d b r i
    some (.ok (wr d b r (w % 2 ^ 48 + (if bit old 48 && !bit w 48 then 2 ^ 48 else 0)) i))
  | _ => none

/-- FDH_FLUSH: GO starts a flush of what the write names; none while one runs (Table 6.9). -/
def flushWrite (t : TimeState) (d : Dev) (c : Nat) (h : Half) (w v : Nat) : Option Dev :=
  let b := fdhBlk c
  if h.hasHigh && bit w 63 then
    if bit (rd d b .fdhFlush) 63 then none
    else some (memSet (memSet (wr d b .fdhFlush v) .fdhRun 0 c v) .fdhRun 0 (8 + c) (t.tick + 1))
  else some (wr d b .fdhFlush v)

/-- LOG2_BUCKETS and LOG2_SPACING stay while their table holds entries (Tables 4.14, 4.21). DEDUCED, log entry 18. -/
def flowCfgWrite (d : Dev) (c v : Nat) : Option Dev :=
  let b : Blk := ⟨.exm, c⟩
  if usedIn d 1 c (fun _ => true) ≠ 0 && rdF d b .exmFlowCfg 4 0 ≠ fld v 4 0 then none else some (wr d b .exmFlowCfg v)

/-- A write of TCM_CFG (R103). DEDUCED, log entry 18. -/
def tcmCfgWrite (d : Dev) (i v : Nat) : Option Dev :=
  let b : Blk := ⟨.tcm, i⟩
  let held := match tcmOwner d i with
    | some k => tableHeld d (i / 8) k
    | none => false
  if held && rdF d b .tcmCfg 3 0 ≠ fld v 3 0 then none else some (wr d b .tcmCfg v)

/-- Registers of a cluster whose write does more than store. -/
def writeCluster (t : TimeState) (d : Dev) (b : Blk) (r : Reg) (h : Half) (w v : Nat) : Option Wrote :=
  let c := b.inst
  match r with
  | .hbmRegion => some (wrote (hbmRegion d c v))
  | .hbmRaw => some (.ok (clearWrap d .hbm c 0 0 w))
  | .hbmTrainCtrl => some (wrote (trainGo d c (putFld v 63 63 (fld w 63 63))))
  | .bpmSpillCfg => some (.ok (wr (if h.hasHigh then clearBase d 9 c else d) b .bpmSpillCfg v))
  | .bpmReplFence => some (.ok (if h.hasHigh && bit w 63 then fenceGo d c else d))
  | .bpmLimData =>
    let a := rd d b .bpmLimAddr
    some (.ok (writeLim d c (fld a 13 12) (fld a 11 0) w))
  | .bpmQData => some (wrote (writeBpmQ d (c * 131072 + rdF d b .bpmQAddr 16 0) w))
  | .bpmMcgData =>
    let a := rd d b .bpmMcgAddr
    some (wrote (eachCluster d (bit a 63) c (fun d c => writeMcg d c (fld a 15 0) w)))
  | .bpmMclData => some (.ok (writeMcl d c (rdF d b .bpmMclAddr 16 0) w))
  | .bpmMirData =>
    let a := rd d b .bpmMirAddr
    some (wrote (eachCluster d (bit a 63) c (fun d c => some (writeMir d c (fld a 5 0) w))))
  | .bpmSmpData =>
    let a := rd d b .bpmSmpAddr
    some (wrote (eachCluster d (bit a 63) c (fun d c => some (writeSmp d c (fld a 17 6) (fld a 5 0) w))))
  | .exmFlowCfg => some (wrote (flowCfgWrite d c v))
  | .exmDirData => some (wrote (writeDir d c w))
  | .exmChainData => some (wrote (writeChain d c w))
  | .exmWgtData => some (if h.hasLow then wrote (writeWeight t d c w) else .ok d)
  | .tcmCfg => some (wrote (tcmCfgWrite d c v))
  | .tcmSrchCtrl => some (wrote (srchCtrl d c (putFld v 63 63 (fld w 63 63))))
  | .fdhFlush => some (wrote (flushWrite t d c h w v))
  | .fdhPstatData => some (.ok (clearWrap d .fdh c (rdF d b .fdhPstatAddr 3 0) (rdF d b .fdhPstatAddr 27 16) w))
  | _ => none

/-- SLC_PWR: a written IDLE_CLK is its own base again (R334); REQ makes the request that it names (R328, R330). -/
def slcPwrWrite (d : Dev) (s : Nat) (h : Half) (v : Nat) : Option Dev :=
  let d := wr (if h.hasLow then clearBase d 8 s else d) (slcBlk s) .slcPwr (putFld v 63 62 (rdF d (slcBlk s) .slcPwr 63 62))
  if !h.hasHigh then some d
  else match fld v 63 62 with
    | 1 => some (napRequest d s)
    | 2 => offRequest d s
    | q => some (autoRequest d s q)

/-- The list and port that a gate register's write acts on. DEDUCED, log entry 23. -/
def gateWrite (t : TimeState) (d : Dev) (s : Nat) (r : Reg) (w v : Nat) : Option Wrote :=
  let port := gatePort d s
  let l := gateSel d s
  match r with
  | .schGateEntry => some (wrote (writeGateEntry d port l (gateIx d s) v))
  | .schGateCycle => some (wrote (writeGateList d port l 0 (fun g => ⟨fld v 40 32, fld v 29 0, g.sec, g.ns⟩)))
  | .schGateBaseS => some (wrote (writeGateList d port l 1 (fun g => ⟨g.len, g.cycle, fld v 47 0, g.ns⟩)))
  | .schGateBaseNs => some (wrote (writeGateList d port l 2 (fun g => ⟨g.len, g.cycle, g.sec, fld v 29 0⟩)))
  | .schGateCtrl => some (match gateCtrl t d port (putFld v 63 63 (fld w 63 63)) with
    | (d, true) => .ok d
    | (d, false) => .part d)
  | _ => none

/-- Registers of a slice whose write does more than store. -/
def writeSlice (t : TimeState) (d : Dev) (b : Blk) (r : Reg) (h : Half) (w v : Nat) : Option Wrote :=
  let s := b.inst
  match r with
  | .slcPwr => some (wrote (slcPwrWrite d s h v))
  | .slcWakes => some (.ok (clearWrap d .slc s 1 0 w))
  | .slcDozeClk => some (.ok (clearWrap d .slc s 2 0 w))
  | .macCfg => some (wrote (writeMacCfg d s v))
  | .prsKbData => some (wrote (writeKb d s w))
  | .schQData => some (wrote (writeQueue d s (rdF d b .schQAddr 13 0) w))
  | .schGData => some (.ok (writeGroup t d s (rdF d b .schGAddr 14 0) w))
  | .schPfcThData => some (.ok (writePfcTh d s (rdF d b .schPfcThAddr 6 0) w))
  | .mtrProf => some (wrote (writeMeter t d s (rdF d b .mtrAddr 13 0) v))
  | .mtrCnt => some (.ok (colourWrap t d s (rdF d b .mtrAddr 17 16) (rdF d b .mtrAddr 13 0) w))
  | r => gateWrite t d s r w v

/-- SCH_PORT: a class whose BAND changes loses its finish time (R209). -/
def writeSchPort (d : Dev) (s i v : Nat) : Dev :=
  let old := rd d ⟨.sch, s⟩ .schPort i
  wr ((upto 0 8).foldl (fun d tc =>
    if fld old (3 * tc + 2) (3 * tc) = fld v (3 * tc + 2) (3 * tc) then d else unsetF d (cKey (16 * s + i) tc)) d) ⟨.sch, s⟩ .schPort v i

/-- What the write of a register does with its merged value `v`; `w` is what was written, zero outside the half. -/
def writeEffect (t : TimeState) (d : Dev) (b : Blk) (sub : Nat) (r : Reg) (i off : Nat) (h : Half) (w v : Nat)
    (smbus : Bool) : Wrote :=
  let store : Wrote := .ok (wrAt d b sub r i v)
  match r with
  | .ctrl => ctrlWrite t d b sub w smbus
  | .errStatus => .ok (errClear t d b sub w 0)
  | .errFlipC => flipWrite d b sub h w v
  | .protLast | .scrubLapLimit | .protInj | .scrubCtrl => .ok (protWrite t d b r v)
  | .prsCfg | .prsPselB => .ok (profilesLeft d (wrAt d b sub r i v) b.inst)
  | _ =>
    let own : Option Wrote := match b.kind with
      | .pwr | .tim | .flt | .boot | .lim | .cmt | .perf | .part => writeHub t d r i off h w v
      | .csl | .pci => match writeHub t d r i off h w v with
        | some x => some x
        | none => writePrbs d b r i w v
      | .d2d | .sds => writePrbs d b r i w v
      | .hbm | .bpm | .exm | .tcm | .fdh => writeCluster t d b r h w v
      | .sch => if r == .schPort then some (.ok (writeSchPort d b.inst i v)) else writeSlice t d b r h w v
      | .slc | .mac | .prs | .mtr => writeSlice t d b r h w v
      | _ => none
    own.getD store

/-- A write of a register by its access codes (R34, R39 to R43, Table 2.12): none is NOT_PERMITTED. DEDUCED, log entry
15. -/
def regWrite (t : TimeState) (d : Dev) (b : Blk) (sub : Nat) (r : Reg) (i off : Nat) (h : Half) (w : Nat) (smbus : Bool) : Wrote :=
  let lock := locked d b sub
  if (blkSt d b).softReset && r ≠ .ctrl then .no
  else if h ≠ .whole && (wideOnly r || spansHalves lock r) then .no
  else if h.mask.land (accMask r (codeWrites lock)) = 0 then .no
  else
    let w := w.land h.mask
    writeEffect t d b sub r i off h w (mergeWrite d b sub r h (regView t d b sub r i) w) smbus

end Sys2Proof.Machine
end

