-- ==== Sys2Proof/Machine/Bus.lean ====
section
/-! DEFINITION. Accesses to the BARs: which register an offset names, violations, latched reads, partition windows,
the MSI-X table, and SMBus. -/
namespace Sys2Proof.Machine

/-- The half that an access touches; none is UNALIGNED (R34). -/
def accHalf (size off : Nat) : Option Half :=
  if size = 8 && off % 8 = 0 then some .whole
  else if size = 4 && off % 4 = 0 then some (if off % 8 = 0 then .low else .high)
  else none

/-- The block whose page 0 counts accesses to pages that do not exist (R46). -/
def bar0Home (off : Nat) : Blk :=
  if off < 0x1000000 || 0x3000000 ≤ off then devBlk .dev
  else
    let c := (off - 0x1000000) / 0x400000
    let o := (off - 0x1000000) % 0x400000
    if o < 0x200000 then ⟨.clu, c⟩ else ⟨.slc, c * 8 + (o - 0x200000) / 0x40000⟩

/-- The page of a block at an offset (Tables 2.1 and 2.17). DEDUCED, log entry 14. -/
def pageAt (off : Nat) : Option (Blk × Nat) :=
  let home := bar0Home off
  let level := home.kind.info.level
  if 0x3000000 ≤ off then none
  else
    let pg := (off - regionBase level home.inst) / 0x1000
    allKinds.findSome? (fun k =>
      let x := k.info
      if x.level == level && x.page ≤ pg && pg < x.page + x.per * x.span then
        some (⟨k, home.inst * x.per + (pg - x.page) / x.span⟩, (pg - x.page) % x.span)
      else none)

/-- The page answers: its stack is there, its slice has power, and start-up has come so far (R36, R47, R377, R378).
DESIGN CHOICE, log entry 13. -/
def pageLive (d : Dev) (b : Blk) : Bool :=
  let up := if recovering d then [BlkKind.dev, .pwr, .flt, .boot, .pci].contains b.kind
    else if bootStep d ≤ 1 then b.kind == .flt || b.kind == .pwr
    else b.kind.info.level == .device || 7 ≤ bootStep d
  up && !(b.kind == .hbm && d.h4 && b.inst % 2 == 1)
    && !(b.kind.info.level == .slice && b.kind != .slc && sliceOff d (blkUnit b))

/-- The block and page at an offset, when the page answers. DESIGN CHOICE, log entry 13. -/
def livePage (d : Dev) (off : Nat) : Option (Blk × Nat) :=
  match pageAt off with
  | some (b, sub) => if pageLive d b then some (b, sub) else none
  | none => none

/-- An index register names something that is RESERVED (R265, R348; Tables 4.17, 6.11, 6.12, 8.10, 8.14, 9.9, 15.8).
DESIGN CHOICE, log entry 19. -/
def reservedNow (d : Dev) (b : Blk) (r : Reg) : Bool :=
  match r with
  | .scrubLap | .scrubLapLimit => memCount b.kind ≤ protMem d b || b.kind == .hbm
  | .protCnt | .protLast | .protInj | .scrubCtrl => memCount b.kind ≤ protMem d b
  | .exmChainData => 25 < rdF d b .exmChainAddr 4 0
  | .fdhPstatData => 11 < rdF d b .fdhPstatAddr 3 0
  | .fdhDiagData => 9 < rdF d b .fdhDiagAddr 3 0
  | .bpmLimData | .bpmLimOcc =>
    let i := rdF d b .bpmLimAddr 11 0
    match rdF d b .bpmLimAddr 13 12 with
    | 1 => false
    | 2 => 15 < i
    | _ => 1023 < i
  | .bpmSmpData => rdF d b .bpmSmpAddr 5 0 == 0
  | .mtrCnt => rdF d b .mtrAddr 17 16 == 3
  | .limLogData => 5 < rdF d b .limLogAddr 14 12
  | .perfVal => (selName d (rd d perfBlk .perfSel)).isNone
  | _ => false

/-- The register at an offset of a page; none is RESERVED. A lane inside a wider port has its header and MAC_CFG (R47). -/
def regAt (d : Dev) (b : Blk) (sub off : Nat) : Option (Reg × Nat) :=
  match findReg b.kind sub (off % 0x1000 / 8 * 8) with
  | some (r, i) =>
    if reservedNow d b r || (innerLane d b && (regInfo r).place != .header && r != .macCfg) then none else some (r, i)
  | none => none

/-- A read that is NOT_PERMITTED: of a WO register, or of a key that does not exist (Tables 2.12, 3.15). -/
def readDenied (d : Dev) (b : Blk) (r : Reg) : Bool :=
  (regInfo r).fields.all (fun f => f.acc == .wo) || (r == .prsKbData && 13 < rdF d b .prsKbAddr 7 4)

/-- Sends the data of a completed read. DESIGN CHOICE, log entries 12 and 137. -/
def answer (d : Dev) (v : Nat) : Dev := send d (.readData (BitVec.ofNat 64 v))

/-- The latched high half of a register, as value + 1 (R34). DESIGN CHOICE, log entry 17. -/
def latched (d : Dev) (key : Nat) : Nat := SMap.get 0 d.latch key

/-- The latch takes a high half plus one, or nothing (R34). DESIGN CHOICE, log entry 17. -/
def setLatch (d : Dev) (key v : Nat) : Dev := { d with latch := SMap.set 0 d.latch key v }

/-- Reads a half of a register whose value is `v`: what it returns, and the latch (R34, R349). DEDUCED, log entry 16. -/
def latchRead (d : Dev) (key : Nat) (h : Half) (v : Nat) : Nat × Dev :=
  match h with
  | .whole => (v, d)
  | .low => (v % 2 ^ 32, setLatch d key (v / 2 ^ 32 + 1))
  | .high => if latched d key = 0 then (v / 2 ^ 32, d) else (latched d key - 1, setLatch d key 0)

/-- A counter of a PRBS checker. DESIGN CHOICE, log entry 72. -/
def prbsCounter : Reg → Bool
  | .sdsPrbsErr | .sdsPrbsBits | .cslPrbsErr | .cslPrbsBits | .pciPrbsErr | .pciPrbsBits | .d2dPrbsErr | .d2dPrbsBits => true
  | _ => false

/-- What a read does beside returning a value: latches of device time, windows that advance, fields that a read clears.
DEDUCED, log entry 16. -/
def readEffect (t : TimeState) (d : Dev) (b : Blk) (sub : Nat) (r : Reg) (h : Half) : Dev :=
  match r with
  | .timNowNs => if h.hasLow then wr d timBlk .timNowS t.now.sec else d
  | .timPpsCapNs => if h.hasLow then wr d timBlk .timPpsCapS (memGet d .timReq 0 3) else d
  | .perfVal => if h = .whole then wr d perfBlk .perfSel (selAdvance (rd d perfBlk .perfSel)) else d
  | .perfSmpStat => if h.hasLow then wr d perfBlk .perfSmpStat 0 else d
  | .limLogData =>
    let a := rd d limBlk .limLogAddr
    if bit a 63 then wr d limBlk .limLogAddr (putFld a 11 0 (fld a 11 0 + 1)) else d
  | .exmChainData => if h = .whole then wr d b .exmChainAddr (chainAdvance (rd d b .exmChainAddr)) else d
  | .prsKbData => if h = .whole then wr d b .prsKbAddr (kbAdvance (rd d b .prsKbAddr)) else d
  | .edtStoreData =>
    let a := rd d b .edtStoreAddr
    wrF d b .edtStoreAddr 63 63 (b2n (bit (parityBad d b.inst (fld a 14 2)) (fld a 1 0)))
  | .violationCount => if h.hasLow then wrAt d b sub .violationCount 0 (putFld (rdAt d b sub .violationCount 0) 31 0 0) else d
  | .protCnt =>
    let m := protMem d b
    let v := preg d b m .cnt
    let v := if h.hasLow then putFld v 31 0 0 else v
    setPreg d b m .cnt (if h.hasHigh then putFld v 63 32 0 else v)
  | _ => d

/-- The words of protected memory that a read of a register reads: their memory and place. -/
def regWords (d : Dev) (b : Blk) (r : Reg) (i : Nat) : List (Nat × Nat) :=
  let at' (a : Reg) (hi lo : Nat) : Nat := rdF d b a hi lo
  let gate (f : Nat → Nat → Nat) : List (Nat × Nat) := [(2, f (gatePort d b.inst) (gateSel d b.inst))]
  match r with
  | .fltRecA => [(0, 4 * i)] | .fltRecB => [(0, 4 * i + 1)] | .fltRecC => [(0, 4 * i + 2)] | .fltRecD => [(0, 4 * i + 3)]
  | .fltCrustData => [(1, at' .fltCrustAddr 9 0)]
  | .bpmLimData => [(2, at' .bpmLimAddr 13 12 * 4096 + at' .bpmLimAddr 11 0)]
  | .bpmLimOcc => [(2, countWord (at' .bpmLimAddr 13 12) (at' .bpmLimAddr 11 0))]
  | .bpmQData => [(3, at' .bpmQAddr 16 0)]
  | .bpmMcgData => [(4, at' .bpmMcgAddr 15 0)]
  | .bpmMclData => [(4, 65536 + at' .bpmMclAddr 16 0)]
  | .bpmMirData => [(4, 196608 + at' .bpmMirAddr 5 0)]
  | .bpmSmpData => [(4, 196672 + at' .bpmSmpAddr 17 0)]
  | .exmDirData => [(5, at' .exmDirAddr 7 0)]
  | .exmChainData => [(5, 256 + at' .exmChainAddr 10 5 * 32 + at' .exmChainAddr 4 0)]
  | .schQData => [(0, at' .schQAddr 13 0)]
  | .schGData => [(1, at' .schGAddr 14 0)]
  | .schGateEntry => gate (fun p l => gclWord p l (gateIx d b.inst))
  | .schGateCycle => gate (fun p l => gclHead p l 0)
  | .schGateBaseS => gate (fun p l => gclHead p l 1)
  | .schGateBaseNs => gate (fun p l => gclHead p l 2)
  | .prsKbData => [(0, kbIx (at' .prsKbAddr 13 8) (at' .prsKbAddr 7 4) (at' .prsKbAddr 3 0))]
  | .edtProgData => [(1, at' .edtProgAddr 11 0)]
  | .partPortData => [(1, at' .partPortAddr 9 0)]
  | .partQownData => [(1, 1024 + at' .partQownAddr 13 0)]
  | .perfThrCtr => [(0, 2 * at' .perfThrSel 5 0)]
  | .perfThrCfg => [(0, 2 * at' .perfThrSel 5 0 + 1)]
  | .limLogData => [(0, at' .limLogAddr 14 12 * 4096 + at' .limLogAddr 11 0)]
  | r => if b.kind == .part then (match partRegWord r with
      | some k => [(0, partWord (at' .partSel 11 0) k)]
      | none => []) else []

/-- The memory has not been filled yet; the collector's class records take events from the start. DESIGN CHOICE, log
entry 163. -/
def unfilled (d : Dev) (b : Blk) (m : Nat) : Bool := bootStep d < 6 && !recovering d && !(b.kind == .flt && m == 0)

/-- The counters of a meter bank, and a reference count, whose words a read of a register reads (R169, R350). -/
def readCounts (t : TimeState) (d : Dev) (b : Blk) (r : Reg) : Dev :=
  let colour (x : CtrName) : Dev := if x.kind = .mtr && x.ev < 3 then readColour t d x.inst x.ix x.ev else d
  match r with
  | .mtrCnt => colour ⟨.mtr, b.inst, rdF d b .mtrAddr 17 16, rdF d b .mtrAddr 13 0⟩
  | .perfVal => match selName d (rd d perfBlk .perfSel), bit (rd d perfBlk .perfSel) 62 with
    | some x, false => colour x
    | _, _ => d
  | .edtRef => readRef t d b.inst (rdF d b .edtProgAddr 11 0)
  | _ => d

/-- A register is read from protected memory: whether a word of it cannot be read, and the state (R253, R255). -/
def readMems (t : TimeState) (d : Dev) (b : Blk) (r : Reg) (i : Nat) : Bool × Dev :=
  (regWords d b r i).foldl (fun s x =>
    let (u, d) := readWord t s.2 b x.1 x.2
    (s.1 || u || unfilled d b x.1, d)) (false, readCounts t d b r)

/-- A permitted read of a register: its value and what it leaves. A 64-bit read of MAC_TXTS_A pops a record (R396). A word
that cannot be read gives a free value (R253). DESIGN CHOICE, log entry 163. -/
def regRead (t : TimeState) (d : Dev) (b : Blk) (sub : Nat) (r : Reg) (i off : Nat) (h : Half) : Nat × Dev :=
  if r = .macTxtsA then (if h = .whole then popTxts d b.inst else (0, d))
  else
    let d := if prbsCounter r then prbsCounted d (prbsOf b i) else d
    let (ue, d) := if h = .high && latched d (off / 8) ≠ 0 then (false, d) else readMems t d b r i
    let (x, d) := if ue then (let (x, d) := fresh d; (x % 2 ^ 64, d)) else (regView t d b sub r i, d)
    let (v, d) := latchRead d (off / 8) h x
    (v, readEffect t d b sub r h)

/-- An access wakes the register file of a napping slice (R36). -/
def wakeRegs (d : Dev) (b : Blk) : Dev := if b.kind.info.level == .slice then regsAwake d (blkUnit b) else d

/-- A read of BAR0 (R34 to R36, R45, R46, R404). -/
def bar0Read (t : TimeState) (d : Dev) (size off : Nat) : Dev :=
  if !powered d then d
  else match livePage d off with
    | none => answer (violate t d (bar0Home off) 0 4 off) 0
    | some (b, sub) =>
      let d := wakeRegs d b
      match accHalf size off with
      | none => answer (violate t d b sub 1 off) 0
      | some h =>
        match regAt d b sub off with
        | none => answer (violate t d b sub 2 off) 0
        | some (r, i) =>
          if readDenied d b r then answer (violate t d b sub 3 off) 0
          else
            let (v, d) := regRead t d b sub r i off h
            answer d v

/-- A write of BAR0: `w` is what the access carries, in its lowest bytes. -/
def bar0Write (t : TimeState) (d : Dev) (size off : Nat) (w : Nat) (smbus : Bool) : Dev :=
  if !powered d then d
  else match livePage d off with
    | none => violate t d (bar0Home off) 0 4 off
    | some (b, sub) =>
      let d := wakeRegs d b
      match accHalf size off with
      | none => violate t d b sub 1 off
      | some h =>
        match regAt d b sub off with
        | none => violate t d b sub 2 off
        | some (r, i) =>
          let w := if h = .high then (w % 2 ^ 32) <<< 32 else w
          match regWrite t d b sub r i off h w smbus with
          | .ok d => d
          | .no => violate t d b sub 3 off
          | .part d => violate t d b sub 3 off

/-- The registers of a ring (Table 17.5). -/
inductive RingReg
  | base | cpl | cfg | tail | head | irq | stat | tailWb
  deriving DecidableEq, Repr

/-- The ring register in a slot of a ring's block. -/
def ringRegAt (k : RingKind) (slot : Nat) : Option RingReg :=
  match k, slot with
  | .command, n => [RingReg.base, .cpl, .cfg, .tail, .head, .irq, .stat][n]?
  | .event, n => [RingReg.base, .cfg, .head, .tail, .irq, .stat][n]?
  | .spore, n => [RingReg.base, .cfg, .head, .tail, .tailWb, .irq, .stat][n]?

/-- The value of a ring register. -/
def ringView (d : Dev) (k : RingKind) (p r : Nat) (x : RingReg) : Nat :=
  let y := ring d k p r
  match x with
  | .base => y.base
  | .cpl => y.cpl
  | .cfg => b2n y.enable <<< 63 + y.raw
  | .tail => y.tail
  | .head => if k = .command then y.done <<< 32 + y.head else y.head
  | .irq => y.irq
  | .stat => ringStat k y
  | .tailWb => y.tailWb

/-- The writable bits of a ring register. -/
def ringMask (k : RingKind) : RingReg → Nat
  | .base | .cpl => 2 ^ 64 - 2 ^ 12
  | .cfg => 2 ^ 63 + 31
  | .tail => if k = .command then 0xFFFFFFFF else 0
  | .head => if k = .command then 0 else 0xFFFFFFFF
  | .irq => 2 ^ 63 + 0x7FF <<< 48 + 0xFFFFFFFF
  | .stat => 0
  | .tailWb => 2 ^ 64 - 8 + 1

/-- A ring register that only 64-bit writes reach, for its address spans bit 31/32 (R34). -/
def ringWide : RingReg → Bool
  | .base | .cpl | .tailWb => true
  | _ => false

/-- A write of a ring register. -/
def ringWrite (t : TimeState) (d : Dev) (k : RingKind) (p r : Nat) (x : RingReg) (h : Half) (w : Nat) : Wrote :=
  let m := h.mask.land (ringMask k x)
  if m = 0 || (h ≠ .whole && ringWide x) then .no
  else
    let v := ((ringView d k p r x).land (m.xor (2 ^ 64 - 1))).lor (w.land m)
    match x with
    | .base => wrote (writeRingAddr d k p r (fun y => { y with base := v }))
    | .cpl => wrote (writeRingAddr d k p r (fun y => { y with cpl := v }))
    | .tailWb => wrote (writeRingAddr d k p r (fun y => { y with tailWb := v }))
    | .cfg => writeCfg t d k p r v
    | .tail => wrote (writeTail d p r v)
    | .head => wrote (writeHead d k p r v)
    | .irq => wrote (irqWrite d k p r v)
    | .stat => .no

/-- What an offset of a partition window names (Table 13.4, R353). -/
inductive WinSpot
  | winId | viol | ring (k : RingKind) (r : Nat) (x : RingReg) | slot (c j : Nat) (shadow : Bool) | usrSel (c : Nat)
  | usrVal (c : Nat) | reserved | absent
  deriving DecidableEq, Repr

/-- The ring register at an offset of a window page. -/
def ringSpot (d : Dev) (p : Nat) (k : RingKind) (o size : Nat) : WinSpot :=
  if (part d p).st = 0 || ringsHeld d p k ≤ o / size then .absent
  else match ringRegAt k (o % size / 8) with
    | some x => .ring k (o / size) x
    | none => .reserved

/-- What an offset of a window names. -/
def winSpot (d : Dev) (p o : Nat) : WinSpot :=
  let page := o / 0x1000
  let x := o % 0x1000
  if recovering d then .absent
  else if page = 0 then (if x / 8 = 0 then .winId else if x / 8 = 8 then .viol else .reserved)
  else if page = 1 then ringSpot d p .command x 0x100
  else if page = 2 then ringSpot d p .event x 0x400
  else if page = 3 then ringSpot d p .spore x 0x100
  else if page ≤ 11 && bit (rd d perfBlk .perfUserEn (p / 64)) (p % 64) then
    if x < 0x400 then .slot (page - 4) (x / 8) false
    else if x < 0x800 then .slot (page - 4) ((x - 0x400) / 8) true
    else if x / 8 = 0x100 then .usrSel (page - 4)
    else if x / 8 = 0x101 then .usrVal (page - 4)
    else .reserved
  else .absent

/-- WIN_ID (Table 13.12). -/
def winId (d : Dev) (p : Nat) : Nat :=
  let f := partFlags (part d p)
  p <<< 32 + fld f 11 8 <<< 8 + fld f 2 0

/-- A counter slot of a partition in a cluster (R347, R353). -/
def slotView (d : Dev) (p c j : Nat) (shadow : Bool) : Nat := if j < 44 then ctrValue d shadow ⟨.clu, c, j, p⟩ else 0

/-- The counter that USR_SEL names: none when it does not exist, and whether the partition may read it (R353). -/
def usrCounter (d : Dev) (p c : Nat) : Option (CtrName × Bool) :=
  (selName d (memGet d .winSel p c)).map (fun x =>
    (x, match ctrPort x with
      | some l => l / 128 == c && ownsPort d p x
      | none => false))

/-- Reads a half through the one latch of a window: the register that it holds and the half (R353). DESIGN CHOICE, log
entry 17. -/
def winLatchRead (d : Dev) (p key : Nat) (h : Half) (v : Nat) : Nat × Dev :=
  match h with
  | .whole => (v, d)
  | .low => (v % 2 ^ 32, memSet (memSet d .winLatch p 0 (key + 1)) .winLatch p 1 (v / 2 ^ 32))
  | .high => if memGet d .winLatch p 0 = key + 1 then
      (memGet d .winLatch p 1, memSet (memSet d .winLatch p 0 0) .winLatch p 1 0)
    else (v / 2 ^ 32, d)

/-- A read of BAR2. -/
def bar2Read (d : Dev) (size off : Nat) : Dev :=
  let p := off / 0x10000 % 4096
  let key := 2 ^ 23 + off / 8
  let bad (d : Dev) (k : Nat) : Dev := answer (violateWin d p k off) 0
  let give (d : Dev) (h : Half) (v : Nat) : Dev :=
    let (v, d) := latchRead d key h v
    answer d v
  let user (d : Dev) (h : Half) (v : Nat) : Dev :=
    let (v, d) := winLatchRead d p key h v
    answer d v
  if !powered d then d
  else match winSpot d p (off % 0x10000), accHalf size off with
    | .absent, _ => bad d 4
    | _, none => bad d 1
    | .reserved, _ => bad d 2
    | .winId, some h => give d h (winId d p)
    | .viol, some h =>
      let v := memGet d .winViol 0 p
      give (if h.hasLow then memSet d .winViol 0 p (putFld v 31 0 0) else d) h v
    | .ring k r x, some h =>
      let v := ringView d k p r x
      let d := if x = .stat && k = .event && h.hasLow then setRing d k p r { ring d k p r with drops := 0 } else d
      give d h v
    | .slot c j sh, some h => user d h (slotView d p c j sh)
    | .usrSel c, some h => user d h (selWord d (memGet d .winSel p c))
    | .usrVal c, some h =>
      match usrCounter d p c with
      | none => bad d 2
      | some (_, false) => bad d 3
      | some (x, true) =>
        let w := memGet d .winSel p c
        let e := if h = .whole then memSet d .winSel p c (selAdvance w) else d
        user e h (ctrValue d (bit w 62) x)

/-- A write of BAR2. -/
def bar2Write (t : TimeState) (d : Dev) (size off w : Nat) : Dev :=
  let p := off / 0x10000 % 4096
  let bad (d : Dev) (k : Nat) : Dev := violateWin d p k off
  if !powered d then d
  else match winSpot d p (off % 0x10000), accHalf size off with
    | .absent, _ => bad d 4
    | _, none => bad d 1
    | .reserved, _ => bad d 2
    | .ring k r x, some h =>
      let w := if h = .high then (w % 2 ^ 32) <<< 32 else w
      match ringWrite t d k p r x h w with
      | .ok d => d
      | .no => bad d 3
      | .part d => bad d 3
    | .usrSel c, some h =>
      let w := if h = .high then (w % 2 ^ 32) <<< 32 else w
      let m := h.mask.land (accMask .perfSel (fun a => a == .rw))
      memSet d .winSel p c (((memGet d .winSel p c).land (m.xor (2 ^ 64 - 1))).lor (w.land m))
    | .usrVal c, some _ => bad d (if (usrCounter d p c).isNone then 2 else 3)
    | _, some _ => bad d 3

/-- A 64-bit word of BAR4: the MSI-X table, and the pending bit array (Table 17.1). PRESUMED, log entry 6. -/
def bar4Word (d : Dev) (off : Nat) : Nat :=
  let k := off / 8
  if k < 4096 then (if k % 2 = 0 then msixAddr d (k / 2) else msixData d (k / 2))
  else if k < 4096 + 32 then (upto 0 64).foldl (fun a i => a + b2n (d.pba.contains ((k - 4096) * 64 + i)) <<< i) 0
  else 0

/-- A read of BAR4. PRESUMED, log entry 21. -/
def bar4Read (d : Dev) (size off : Nat) : Dev :=
  if !powered d then d
  else match accHalf size off with
    | none => answer d 0
    | some .whole => answer d (bar4Word d off)
    | some .low => answer d (bar4Word d off % 2 ^ 32)
    | some .high => answer d (bar4Word d off / 2 ^ 32)

/-- A pending vector that is no longer masked sends its message (R366). -/
def vectorUnmask (d : Dev) (v : Nat) : Dev :=
  if d.pba.contains v && !bit (msixData d v) 32 then
    send { d with pba := d.pba.filter (fun x => x != v) } (.msix v (msixAddr d v) (msixData d v % 2 ^ 32))
  else d

/-- A write of BAR4: vector control keeps its mask bit alone. PRESUMED, log entries 6 and 21. -/
def bar4Write (d : Dev) (size off w : Nat) : Dev :=
  let k := off / 8
  match accHalf size off with
  | none => d
  | some h =>
    if !powered d || 4096 ≤ k then d
    else
      let w := if h = .high then (w % 2 ^ 32) <<< 32 else w
      let v := ((bar4Word d off).land (h.mask.xor (2 ^ 64 - 1))).lor (w.land h.mask)
      let v := if k % 2 = 0 then v else v % 2 ^ 33
      let dflt : Word := if k % 2 = 0 then 0 else BitVec.ofNat 64 (2 ^ 32)
      vectorUnmask { d with msix := SMap.set dflt d.msix k (BitVec.ofNat 64 v) } (k / 2)

/-- Size and offset of the bytes that an access enables: all of them, or one whole half of eight. Enables that do not
cover a whole half leave an access of no size, which is UNALIGNED (Table 2.15). DEDUCED, log entry 143. -/
def accessed (size off be : Nat) : Nat × Nat :=
  if size = 8 && off % 8 = 0 && be = 0x0F then (4, off)
  else if size = 8 && off % 8 = 0 && be = 0xF0 then (4, off + 4)
  else if (size = 8 && be = 0xFF) || (size = 4 && be = 0x0F) then (size, off)
  else (0, off)

/-- What a write carries at the bytes that it enables. DEDUCED, log entry 143. -/
def carried (size off be w : Nat) : Nat := if (accessed size off be).2 = off then w else w / 2 ^ 32

/-- A host access to a BAR; a BAR that the endpoint does not have takes none. DESIGN CHOICE, log entries 12 and 13. -/
def barWrite (t : TimeState) (d : Dev) (bar size off be w : Nat) : Dev :=
  let a := accessed size off be
  let w := carried size off be w
  match bar with
  | 0 => bar0Write t d a.1 a.2 w false
  | 2 => bar2Write t d a.1 a.2 w
  | 4 => bar4Write d a.1 a.2 w
  | _ => d

/-- A read of a BAR with its size and byte enables (R34, R45). DESIGN CHOICE, log entries 12 and 13. PRESUMED, log entry
21. -/
def barRead (t : TimeState) (d : Dev) (bar size off be : Nat) : Dev :=
  let a := accessed size off be
  match bar with
  | 0 => bar0Read t d a.1 a.2
  | 2 => bar2Read d a.1 a.2
  | 4 => bar4Read d a.1 a.2
  | _ => d

/-- An SMBus transaction: a 64-bit write or read of BAR0 (R378). DESIGN CHOICE, log entry 12. -/
def smbusAccess (t : TimeState) (d : Dev) (write : Bool) (off w : Nat) : Dev :=
  if write then bar0Write t d 8 off w true else bar0Read t d 8 off

/-- The block exists and has the page. -/
def blkPage (b : Blk) (sub : Nat) : Bool := b.inst < b.kind.count && sub < b.kind.info.span

/-- The 64-bit write, and read, of a register by its name: element `i` in a block's own page. -/
def hostWrite (t : TimeState) (d : Dev) (b : Blk) (r : Reg) (i w : Nat) : Dev :=
  if blkPage b (regSub r) then bar0Write t d 8 (regOff b (regSub r) r i) w false else d

/-- A 64-bit read of a register of a block by the host, where the block has that page. -/
def hostRead (t : TimeState) (d : Dev) (b : Blk) (r : Reg) (i : Nat) : Dev :=
  if blkPage b (regSub r) then bar0Read t d 8 (regOff b (regSub r) r i) else d

/-- The same for a header register in page `sub`. -/
def headWrite (t : TimeState) (d : Dev) (b : Blk) (sub : Nat) (r : Reg) (w : Nat) : Dev :=
  if blkPage b sub then bar0Write t d 8 (regOff b sub r 0) w false else d

/-- The same of a register of a page's head. -/
def headRead (t : TimeState) (d : Dev) (b : Blk) (sub : Nat) (r : Reg) : Dev :=
  if blkPage b sub then bar0Read t d 8 (regOff b sub r 0) else d

end Sys2Proof.Machine
end

