-- ==== Sys2Proof/Machine/Ops.lean ====
section
/-! DEFINITION. What every command shares: how it ends, and the accesses by which software gives it. -/
namespace Sys2Proof.Machine

/-- Device time as a system reset leaves it, on the count of ticks that goes on (R217, R379). -/
def timeReset (t : TimeState) : TimeState :=
  { TimeState.reset with tick := t.tick, hist := [(t.tick, 0, TimeState.reset.incr)] }

/-- What follows every command: a detach that both devices have acknowledged ends (R320), a system reset that was asked
for is carried out (R379, R381), and ports that SC serves follow the eligibility that the command leaves (R206). The
queue is as it was; device time is, but for a system reset, which leaves the tick count of the always-on domain.
DESIGN CHOICE, log entry 10. -/
def settled (s : State) (d : Dev) : State :=
  let d := detachEnd s.tim d
  if d.resetReq then { s with tim := timeReset s.tim, dev := systemReset d }
  else { s with dev := settleSched s.tim d }

/-- A command whose effect on the device is `d`. DESIGN CHOICE, log entries 8, 9 and 138. -/
def ends (s : State) (d : Dev) : Host.Outcome State Fault Refusal := .next (settled s d)

/-- A command that concerns a unit of the device, which exists when `ok`. DESIGN CHOICE, log entry 8. -/
def act (s : State) (ok : Bool) (d : Dev) : Host.Outcome State Fault Refusal := ends s (if ok then d else s.dev)

/-- The block exists. -/
def isBlk (b : Blk) : Bool := b.inst < b.kind.count

/-- Units of the device: ports and their classes, slices, clusters, stacks, partitions and their rings, queues. -/
def isPort (p : Nat) : Bool := p < 1024
def isClass (p c : Nat) : Bool := p < 1024 && c < 8
def isSlice (s : Nat) : Bool := s < 64
def isCluster (c : Nat) : Bool := c < 8
def isStack (d : Dev) (c : Nat) : Bool := c < 8 && !(d.h4 && c % 2 == 1)
def isPart (p : Nat) : Bool := p < 4096
def isRing (p r : Nat) : Bool := p < 4096 && r < 16
def isQueue (q : Nat) : Bool := q < 1048576

/-- A write of bits 63:32 of a register by its name (R34). -/
def highWrite (t : TimeState) (d : Dev) (b : Blk) (r : Reg) (w : Nat) : Dev :=
  if blkPage b (regSub r) then bar0Write t d 4 (regOff b (regSub r) r 0 + 4) w false else d

/-- The BAR2 offset of a ring register (Tables 13.4, 17.5). -/
def ringOff (k : RingKind) (p r : Nat) (x : RingReg) : Nat :=
  let slot := ((upto 0 8).find? (fun n => ringRegAt k n == some x)).getD 31
  let page := match k with
    | .command => 1
    | .event => 2
    | .spore => 3
  let size := if k = .event then 0x400 else 0x100
  p * 0x10000 + page * 0x1000 + r * size + slot * 8

/-- A ring block of a kind that its window page has room for. -/
def isRingOf (k : RingKind) (p r : Nat) : Bool := p < 4096 && r < (if k = .event then 4 else 16)

/-- A 64-bit write, and read, of a ring register through its partition's window. -/
def ringRegWrite (t : TimeState) (d : Dev) (k : RingKind) (p r : Nat) (x : RingReg) (w : Nat) : Dev :=
  bar2Write t d 8 (ringOff k p r x) w
def ringRegRead (d : Dev) (k : RingKind) (p r : Nat) (x : RingReg) : Dev := bar2Read d 8 (ringOff k p r x)

/-- A write of PART_CMD with an operation for a partition (Table 13.3). -/
def partOp (s : State) (op p mode : Nat) : Host.Outcome State Fault Refusal :=
  act s (isPart p) (hostWrite s.tim s.dev partBlk .partCmd 0 (mode <<< 28 + p <<< 16 + op))

/-- A write of CSL_CMD with an operation (Table 14.5). -/
def cslOp (s : State) (op p : Nat) : Host.Outcome State Fault Refusal :=
  act s (isPart p) (hostWrite s.tim s.dev cslBlk .cslCmd 0 (p <<< 16 + op))

/-- A write of SLC_PWR.REQ of a slice, DOZE_EN kept (Table 15.6). DESIGN CHOICE, log entry 30. -/
def slcRequest (s : State) (x req : Nat) : Host.Outcome State Fault Refusal :=
  act s (isSlice x) (highWrite s.tim s.dev (slcBlk x) .slcPwr (req <<< 30 + rdF s.dev (slcBlk x) .slcPwr 32 32))

end Sys2Proof.Machine
end

