-- ==== Sys2Proof/Machine/Clock.lean ====
section
/-! DEFINITION. One tick of the slice clock, which passes while no command waits. -/
namespace Sys2Proof.Machine

/-- Device time one tick on (R217): seconds have 48 bits. DESIGN CHOICE, log entries 1 and 11. DEDUCED, log entry 74. -/
def advance (t : TimeState) : TimeState :=
  let y := numDt (dtNum t.now + t.incr)
  { t with tick := t.tick + 1, now := { y with sec := y.sec % 2 ^ 48 } }

/-- The clock counters of a slice: CYCLES runs in ACTIVE and DOZE, DOZE_CLK in DOZE (Table 16.2). DESIGN CHOICE, log
entry 1. -/
def sliceTick (d : Dev) (s : Nat) : Dev :=
  if gated d s then d else match slcState d s with
  | 0 => memSet (count d (Ev.plain .slc 0) s 0 0 0) .scrubRun s 0 (memGet d .scrubRun s 0 + 1)
  | 1 => count (count d (Ev.plain .slc 0) s 0 0 0) (Ev.plain .slc 2) s 0 0 0
  | _ => d

/-- One tick: none without power; before the boot ROM runs, and in recovery mode, only what the hub and the slices that
have started count, and what is left of a profile's use (R75). DESIGN CHOICE, log entry 1. -/
def idle (s : State) : State :=
  if !powered s.dev then s
  else if bootStep s.dev ≤ 1 then { s with tim := { s.tim with tick := s.tim.tick + 1, hist := [(s.tim.tick + 1, dtNum s.tim.now, s.tim.incr)] } }
  else
    let d := if 7 ≤ bootStep s.dev && !recovering s.dev then (upto 0 64).foldl sliceTick (profilesAged s.dev) else s.dev
    settled { s with tim := advance s.tim } d

end Sys2Proof.Machine
end

