-- ==== Sys2Proof/Machine/CmdBlock.lean ====
section
/-! DEFINITION. Blocks and their pages: CTRL, STATE and the error registers. -/
namespace Sys2Proof.Machine

/-- A 64-bit write of ERR_STATUS; `again` holds the bits that set in the same clock (R39). DESIGN CHOICE, log entry 31. -/
def errStatusWrite (t : TimeState) (d : Dev) (b : Blk) (sub w again : Nat) : Dev :=
  if again = 0 || !powered d || livePage d (regOff b sub .errStatus 0) != some (b, sub) || (blkSt d b).softReset then
    headWrite t d b sub .errStatus w
  else errClear t (wakeRegs d b) b sub w again

/-- BRING_UP_COMPLETE (R41). -/
def execBringUpComplete (blk : Blk) (s : State) : Host.Outcome State Fault Refusal :=
  act s (isBlk blk) (bringUp s.tim s.dev blk)

/-- SHUT_DOWN_COMPLETE (R41). -/
def execShutDownComplete (blk : Blk) (s : State) : Host.Outcome State Fault Refusal :=
  act s (isBlk blk) (shutDown s.tim s.dev blk)

/-- PEND_ENABLE_RESTART (R41). -/
def execPendEnableRestart (blk : Blk) (s : State) : Host.Outcome State Fault Refusal :=
  act s (isBlk blk) (pendRestart s.dev blk)

/-- SOFT_RESET_COMPLETE (R42). -/
def execSoftResetComplete (blk : Blk) (s : State) : Host.Outcome State Fault Refusal :=
  act s (isBlk blk) (softDone s.tim s.dev blk)

/-- STUCK (R41). -/
def execStuck (blk : Blk) (s : State) : Host.Outcome State Fault Refusal :=
  act s (isBlk blk) (stuckBlock s.tim s.dev blk)

/-- CTRL_ENABLE (R41). -/
def execCtrlEnable (blk : Blk) (sub : Nat) (en : Bool) (s : State) : Host.Outcome State Fault Refusal :=
  act s (isBlk blk) (headWrite s.tim s.dev blk sub .ctrl (b2n en))

/-- CTRL_SOFT_RESET (R42). -/
def execCtrlSoftReset (blk : Blk) (sub : Nat) (en : Bool) (s : State) : Host.Outcome State Fault Refusal :=
  act s (isBlk blk) (headWrite s.tim s.dev blk sub .ctrl (2 + b2n en))

/-- CTRL_LOCK (R40). DESIGN CHOICE, log entry 30. -/
def execCtrlLock (blk : Blk) (sub : Nat) (s : State) : Host.Outcome State Fault Refusal :=
  act s (isBlk blk) (headWrite s.tim s.dev blk sub .ctrl (4 + (ctrlView s.dev blk sub) % 2))

/-- ERR_STATUS_CLEAR (R39). -/
def execErrStatusClear (blk : Blk) (sub : Nat) (w again : Word) (s : State) : Host.Outcome State Fault Refusal :=
  act s (isBlk blk) (errStatusWrite s.tim s.dev blk sub w.toNat again.toNat)

/-- VIOLATION_COUNT_READ (R46). -/
def execViolationCountRead (blk : Blk) (sub : Nat) (s : State) : Host.Outcome State Fault Refusal :=
  act s (isBlk blk) (headRead s.tim s.dev blk sub .violationCount)

/-- REGISTER_WRITE (R34). DEDUCED, log entry 143. -/
def execRegisterWrite (bar : Nat) (span : Span) (off : Nat) (w : Word) (s : State) : Host.Outcome State Fault Refusal :=
  ends s (barWrite s.tim s.dev bar span.size off span.be w.toNat)

/-- REGISTER_READ_LATCH (R34). DEDUCED, log entry 143. -/
def execRegisterReadLatch (bar : Nat) (span : Span) (off : Nat) (s : State) : Host.Outcome State Fault Refusal :=
  ends s (barRead s.tim s.dev bar span.size off span.be)

/-- SMBUS_TRANSACTION (R378). -/
def execSmbusTransaction (write : Bool) (off : Nat) (w : Word) (s : State) : Host.Outcome State Fault Refusal :=
  ends s (smbusAccess s.tim s.dev write off w.toNat)

end Sys2Proof.Machine
end

