-- ==== Sys2Proof/Machine/CmdBoot.lean ====
section
/-! DEFINITION. Power-on, start-up, resets and JTAG. -/
namespace Sys2Proof.Machine

/-- The straps as BOOT_STRAP holds them (Table 17.8). -/
def strapWord (testEn twinRole : Bool) (bootSrc : Nat) : Nat :=
  b2n testEn <<< 3 + b2n twinRole <<< 2 + bootSrc % 4

/-- POWER_ON_RESET (R379). DESIGN CHOICE, log entry 4. -/
def execPowerOnReset (rise testEn twinRole : Bool) (bootSrc : Nat) (s : State) : Host.Outcome State Fault Refusal :=
  ends { s with tim := TimeState.reset } (powerOn s.dev rise (strapWord testEn twinRole bootSrc))

/-- BOOT_IMAGE_READ_DONE (R374). -/
def execBootImageReadDone (copy : Nat) (ok : Bool) (s : State) : Host.Outcome State Fault Refusal :=
  ends s (imageRead s.dev copy ok)

/-- FIRMWARE_START (R374). -/
def execFirmwareStart (r : EnvResult) (s : State) : Host.Outcome State Fault Refusal :=
  ends s (Sys2Proof.Machine.firmwareStart s.dev r)

/-- HBM_TRAINING_DONE (R247). -/
def execHbmTrainingDone (lanes : List (Nat × Nat × Nat)) (late : Nat) (s : State) : Host.Outcome State Fault Refusal :=
  ends s (trainingDone s.tim s.dev lanes late)

/-- ON_DIE_FILL_DONE (R255). -/
def execOnDieFillDone (s : State) : Host.Outcome State Fault Refusal := ends s (fillDone s.dev)

/-- LOADS_DONE (R374). -/
def execLoadsDone (r : EnvResult) (sect : Nat) (payload : List Byte) (s : State) : Host.Outcome State Fault Refusal :=
  ends s (Sys2Proof.Machine.loadsDone s.dev r sect payload)

/-- CLUSTER_RELEASE_DONE (R374). -/
def execClusterReleaseDone (ms : Nat) (s : State) : Host.Outcome State Fault Refusal := ends s (releaseDone s.dev ms)

/-- BOOT_TIMEOUT (R377). -/
def execBootTimeout (s : State) : Host.Outcome State Fault Refusal := ends s (Sys2Proof.Machine.bootTimeout s.dev)

/-- RECOVERY_READ_DONE (R377). -/
def execRecoveryReadDone (ok : Bool) (s : State) : Host.Outcome State Fault Refusal := ends s (recoveryRead s.dev ok)

/-- SYSTEM_RESET (R379). -/
def execSystemReset (s : State) : Host.Outcome State Fault Refusal := ends s ({ s.dev with resetReq := true })

/-- LINK_RESET (R380). -/
def execLinkReset (s : State) : Host.Outcome State Fault Refusal :=
  ends s (Sys2Proof.Machine.linkReset s.tim s.dev false)

/-- FUNCTION_LEVEL_RESET (R379). DEDUCED, log entry 56. -/
def execFunctionLevelReset (s : State) : Host.Outcome State Fault Refusal :=
  ends s (Sys2Proof.Machine.linkReset s.tim s.dev true)

/-- BOOT_RESET (R381). -/
def execBootReset (w : Word) (s : State) : Host.Outcome State Fault Refusal :=
  ends s (hostWrite s.tim s.dev bootBlk .bootReset 0 w.toNat)

/-- RECOVERY_GO (R377). -/
def execRecoveryGo (w : Word) (s : State) : Host.Outcome State Fault Refusal :=
  ends s (hostWrite s.tim s.dev bootBlk .bootRecCtrl 0 w.toNat)

/-- PCIE_LINK_UP (R375). -/
def execPcieLinkUp (speed width : Nat) (s : State) : Host.Outcome State Fault Refusal :=
  ends s (pcieUp s.dev speed width)

/-- JTAG_INSTRUCTION (R402). -/
def execJtagInstruction (code : Nat) (s : State) : Host.Outcome State Fault Refusal := ends s (jtagLoad s.dev code)

end Sys2Proof.Machine
end

