-- ==== Sys2Proof/Machine/CmdFault.lean ====
section
/-! DEFINITION. The fault collector, the watchdogs and Crust mode. -/
namespace Sys2Proof.Machine

/-- FAULT_EVENT (R266). -/
def execFaultEvent (e : FaultEv) (s : State) : Host.Outcome State Fault Refusal :=
  ends s (Sys2Proof.Machine.faultEvent s.tim s.dev e)

/-- WINDOW_EXPIRY (R267). -/
def execWindowExpiry (cls : Nat) (s : State) : Host.Outcome State Fault Refusal :=
  act s (decide (cls < 64)) (Sys2Proof.Machine.windowExpiry s.tim s.dev cls)

/-- ALIVE_TOGGLE (R275). -/
def execAliveToggle (s : State) : Host.Outcome State Fault Refusal := ends s (aliveMoves s.dev)

/-- AON_WDOG_KICK (R276). -/
def execAonWdogKick (s : State) : Host.Outcome State Fault Refusal := ends s (aonKicked s.tim s.dev)

/-- AON_WDOG (R276). -/
def execAonWdog (s : State) : Host.Outcome State Fault Refusal := ends s (aonWatchdog s.tim s.dev)

/-- CRUST_ACTIVE (R278). -/
def execCrustActive (s : State) : Host.Outcome State Fault Refusal :=
  ends s (Sys2Proof.Machine.crustActive s.tim s.dev)

/-- CRUST_EXIT_COMPLETE (R281). -/
def execCrustExitComplete (late : Bool) (s : State) : Host.Outcome State Fault Refusal :=
  ends s (crustExited s.tim s.dev late)

/-- FLT_ACK (R268). -/
def execFltAck (w : Word) (s : State) : Host.Outcome State Fault Refusal :=
  ends s (hostWrite s.tim s.dev fltBlk .fltAck 0 w.toNat)

/-- FLT_STATUS_CLEAR (R270). -/
def execFltStatusClear (w : Word) (s : State) : Host.Outcome State Fault Refusal :=
  ends s (hostWrite s.tim s.dev fltBlk .fltStatus 0 w.toNat)

/-- FLT_INJ (R271). -/
def execFltInj (w : Word) (s : State) : Host.Outcome State Fault Refusal :=
  ends s (hostWrite s.tim s.dev fltBlk .fltInj 0 w.toNat)

/-- FLT_UNFENCE (R274). -/
def execFltUnfence (w : Word) (s : State) : Host.Outcome State Fault Refusal :=
  ends s (hostWrite s.tim s.dev fltBlk .fltUnfence 0 w.toNat)

/-- CRUST_EXIT (R281). -/
def execCrustExit (s : State) : Host.Outcome State Fault Refusal :=
  ends s (hostWrite s.tim s.dev fltBlk .fltCrustCtrl 0 (2 ^ 63))

/-- SUPPLY_EXCURSION (R383). -/
def execSupplyExcursion (rail : Nat) (fail : Bool) (s : State) : Host.Outcome State Fault Refusal :=
  ends s (Sys2Proof.Machine.supplyExcursion s.tim s.dev rail fail)

/-- REFCLK_LOSS (R387). -/
def execRefclkLoss (clk : RefClk) (s : State) : Host.Outcome State Fault Refusal := ends s (clockLost s.tim s.dev clk)

/-- REFCLK_RESTORED (R387). -/
def execRefclkRestored (clk : RefClk) (s : State) : Host.Outcome State Fault Refusal := ends s (clockBack s.dev clk)

/-- AVS_WRITE_RESULT (R386). -/
def execAvsWriteResult (cluster : Nat) (ok : Bool) (s : State) : Host.Outcome State Fault Refusal :=
  act s (isCluster cluster) (avsResult s.dev cluster ok)

/-- AVS_READBACK (R386). DESIGN CHOICE, log entry 32. -/
def execAvsReadback (cluster _milliVolts _milliAmps : Nat) (s : State) : Host.Outcome State Fault Refusal :=
  act s (isCluster cluster) (s.dev)

end Sys2Proof.Machine
end

