-- ==== Sys2Proof/Machine/CmdFrame.lean ====
section
/-! DEFINITION. The frame path: ingress, verification, pools, schedulers, egress, spill and Spores. -/
namespace Sys2Proof.Machine

/-- RX_FRAME_START (R17). -/
def execRxFrameStart (port : Nat) (data : List Byte) (s : State) : Host.Outcome State Fault Refusal :=
  act s (isPort port) (rxStart s.tim s.dev port data)

/-- HEADER_WINDOW_RELEASE (R48). -/
def execHeaderWindowRelease (fid : Nat) (s : State) : Host.Outcome State Fault Refusal :=
  ends s (releaseFrame s.tim s.dev fid)

/-- FLOW_LOOKUP_RESULT (R87). -/
def execFlowLookupResult (cluster : Nat) (s : State) : Host.Outcome State Fault Refusal :=
  act s (isCluster cluster) (flowReturn s.tim s.dev cluster)

/-- VERIFY (R136). -/
def execVerify (fid : Nat) (s : State) : Host.Outcome State Fault Refusal := ends s (verifyFrame s.tim s.dev fid)

/-- POOL_REQUEST (R182). -/
def execPoolRequest (fid cluster : Nat) (s : State) : Host.Outcome State Fault Refusal :=
  act s (isCluster cluster) (Sys2Proof.Machine.poolRequest s.tim s.dev fid cluster)

/-- POOL_GRANT (R182). -/
def execPoolGrant (fid cluster : Nat) (s : State) : Host.Outcome State Fault Refusal :=
  act s (isCluster cluster) (Sys2Proof.Machine.poolGrant s.tim s.dev fid cluster)

/-- CREDIT_RETURN (R21). -/
def execCreditReturn (src dst : Nat) (s : State) : Host.Outcome State Fault Refusal :=
  act s (isSlice src && isSlice dst) (Sys2Proof.Machine.creditReturn s.dev src dst)

/-- D2D_CELL_ARRIVAL (R21). -/
def execD2dCellArrival (src dst : Nat) (s : State) : Host.Outcome State Fault Refusal :=
  act s (isSlice src && isSlice dst) (cellArrival s.tim s.dev src dst)

/-- D2D_RETRY (R23). -/
def execD2dRetry (link : Nat) (s : State) : Host.Outcome State Fault Refusal :=
  act s (isBlk ⟨.d2d, link⟩) (Sys2Proof.Machine.d2dRetry s.dev link)

/-- FRAME_TAIL (R179). -/
def execFrameTail (fid : Nat) (fcsGood fecGood : Bool) (s : State) : Host.Outcome State Fault Refusal :=
  ends s (tailArrival s.tim s.dev fid fcsGood fecGood)

/-- SC_GRANT (R206). -/
def execScGrant (port : Nat) (s : State) : Host.Outcome State Fault Refusal :=
  act s (isPort port) (Sys2Proof.Machine.scGrant s.tim s.dev port)

/-- VERDICT_ARRIVAL (R139). -/
def execVerdictArrival (fid : Nat) (s : State) : Host.Outcome State Fault Refusal :=
  ends s (Sys2Proof.Machine.verdictArrival s.tim s.dev fid)

/-- TX_FRAME_END (R144). -/
def execTxFrameEnd (cid : Nat) (s : State) : Host.Outcome State Fault Refusal :=
  ends s (Sys2Proof.Machine.txFrameEnd s.tim s.dev cid)

/-- REPL_CHAIN_ARRIVAL (R190). -/
def execReplChainArrival (fid cluster : Nat) (s : State) : Host.Outcome State Fault Refusal :=
  act s (isCluster cluster) (replArrival s.tim s.dev fid cluster)

/-- SPILL_BLOCK_FLUSH (R195). -/
def execSpillBlockFlush (queue : Nat) (s : State) : Host.Outcome State Fault Refusal :=
  act s (isQueue queue) (spillFlush s.tim s.dev queue)

/-- SPILL_READ_BACK (R196). -/
def execSpillReadBack (queue : Nat) (s : State) : Host.Outcome State Fault Refusal :=
  act s (isQueue queue) (spillRead s.tim s.dev queue)

/-- SPILL_BLOCK_RETURN (R240). -/
def execSpillBlockReturn (queue : Nat) (s : State) : Host.Outcome State Fault Refusal :=
  act s (isQueue queue) (spillReturn s.tim s.dev queue)

/-- AUDIT_PASS_END (R200). -/
def execAuditPassEnd (cluster us : Nat) (s : State) : Host.Outcome State Fault Refusal :=
  act s (isCluster cluster) (auditEnd s.tim s.dev cluster us)

/-- SPORE_DELIVERY (R202). -/
def execSporeDelivery (cid : Nat) (s : State) : Host.Outcome State Fault Refusal :=
  ends s (Sys2Proof.Machine.sporeDelivery s.tim s.dev cid)

/-- HOST_COPY_DELIVERY (R288). -/
def execHostCopyDelivery (part cluster : Nat) (s : State) : Host.Outcome State Fault Refusal :=
  act s (isPart part && isCluster cluster) (hostDelivery s.tim s.dev part cluster)

/-- SPILL_TOKEN_REFILL (R197). -/
def execSpillTokenRefill (cluster : Nat) (s : State) : Host.Outcome State Fault Refusal :=
  act s (isCluster cluster) (tokenRefill s.dev cluster)

/-- REPL_FENCE (R189). -/
def execReplFence (cluster : Nat) (s : State) : Host.Outcome State Fault Refusal :=
  act s (isCluster cluster) (hostWrite s.tim s.dev ⟨.bpm, cluster⟩ .bpmReplFence 0 (2 ^ 63))

/-- REPL_FENCE_DONE (R189). -/
def execReplFenceDone (cluster : Nat) (s : State) : Host.Outcome State Fault Refusal :=
  act s (isCluster cluster) (fenceDone s.dev cluster)

/-- SAMPLER_WRITE (R201). -/
def execSamplerWrite (cluster : Nat) (w : Word) (s : State) : Host.Outcome State Fault Refusal :=
  act s (isCluster cluster) (hostWrite s.tim s.dev ⟨.bpm, cluster⟩ .bpmSmpData 0 w.toNat)

/-- QUEUE_RECORD_WRITE (R205). -/
def execQueueRecordWrite (slice : Nat) (w : Word) (s : State) : Host.Outcome State Fault Refusal :=
  act s (isSlice slice) (hostWrite s.tim s.dev ⟨.sch, slice⟩ .schQData 0 w.toNat)

/-- GROUP_SHAPER_WRITE (R211). -/
def execGroupShaperWrite (slice : Nat) (w : Word) (s : State) : Host.Outcome State Fault Refusal :=
  act s (isSlice slice) (hostWrite s.tim s.dev ⟨.sch, slice⟩ .schGData 0 w.toNat)

/-- METER_PROFILE_WRITE (R216). -/
def execMeterProfileWrite (slice : Nat) (w : Word) (s : State) : Host.Outcome State Fault Refusal :=
  act s (isSlice slice) (hostWrite s.tim s.dev ⟨.mtr, slice⟩ .mtrProf 0 w.toNat)

/-- PRS_KB_DATA_WRITE (R75). -/
def execPrsKbDataWrite (slice : Nat) (w : Word) (s : State) : Host.Outcome State Fault Refusal :=
  act s (isSlice slice) (hostWrite s.tim s.dev ⟨.prs, slice⟩ .prsKbData 0 w.toNat)

/-- FDH_FLUSH (R148). -/
def execFdhFlush (cluster : Nat) (w : Word) (s : State) : Host.Outcome State Fault Refusal :=
  act s (isCluster cluster) (hostWrite s.tim s.dev ⟨.fdh, cluster⟩ .fdhFlush 0 w.toNat)

/-- FLUSH_COMPLETE (R148). -/
def execFlushComplete (cluster : Nat) (s : State) : Host.Outcome State Fault Refusal :=
  act s (isCluster cluster) (Sys2Proof.Machine.flushComplete s.dev cluster)

end Sys2Proof.Machine
end

