-- ==== Sys2Proof/Machine/CmdMemory.lean ====
section
/-! DEFINITION. Memories and what keeps them: the stacks, protection, the edit stores, TCAM, the match tables and counters of rules. -/
namespace Sys2Proof.Machine

/-- HBM_TEMP_REPORT (R246). -/
def execHbmTempReport (cluster tempC : Nat) (s : State) : Host.Outcome State Fault Refusal :=
  act s (isStack s.dev cluster) (hbmTemp s.tim s.dev cluster tempC)

/-- HBM_REFRESH (R246). DESIGN CHOICE, log entry 32. -/
def execHbmRefresh (cluster : Nat) (s : State) : Host.Outcome State Fault Refusal :=
  act s (isStack s.dev cluster) (s.dev)

/-- TRACKING_SLOT (R248). -/
def execTrackingSlot (cluster channel margin : Nat) (s : State) : Host.Outcome State Fault Refusal :=
  act s (isStack s.dev cluster) (Sys2Proof.Machine.trackingSlot s.tim s.dev cluster channel margin)

/-- HBM_REGION_REFILL_DONE (R256). -/
def execHbmRegionRefillDone (cluster : Nat) (s : State) : Host.Outcome State Fault Refusal :=
  act s (isStack s.dev cluster) (regionRefilled s.dev cluster)

/-- HBM_TRAIN_PASS_DONE (R247). -/
def execHbmTrainPassDone (cluster errors lanes : Nat) (s : State) : Host.Outcome State Fault Refusal :=
  act s (isStack s.dev cluster) (trainDone s.dev cluster errors lanes)

/-- HBM_REGION_WRITE (R235). -/
def execHbmRegionWrite (cluster : Nat) (w : Word) (s : State) : Host.Outcome State Fault Refusal :=
  act s (isCluster cluster) (hostWrite s.tim s.dev ⟨.hbm, cluster⟩ .hbmRegion 0 w.toNat)

/-- HBM_TRAIN_GO (R247). -/
def execHbmTrainGo (cluster : Nat) (w : Word) (s : State) : Host.Outcome State Fault Refusal :=
  act s (isCluster cluster) (hostWrite s.tim s.dev ⟨.hbm, cluster⟩ .hbmTrainCtrl 0 w.toNat)

/-- ECC_WRITE_BACK (R253). -/
def execEccWriteBack (blk : Blk) (mem word : Nat) (s : State) : Host.Outcome State Fault Refusal :=
  act s (isBlk blk) (Sys2Proof.Machine.eccWriteBack s.dev blk mem word)

/-- SCRUB_READ (R257). -/
def execScrubRead (blk : Blk) (mem : Nat) (s : State) : Host.Outcome State Fault Refusal :=
  act s (isBlk blk) (Sys2Proof.Machine.scrubRead s.tim s.dev blk mem)

/-- GOLDEN_REBUILD (R262). -/
def execGoldenRebuild (word : Nat) (s : State) : Host.Outcome State Fault Refusal :=
  ends s (Sys2Proof.Machine.goldenRebuild s.dev word)

/-- MC_RELOAD_DONE (R172). -/
def execMcReloadDone (slice : Nat) (readBackGood : Bool) (s : State) : Host.Outcome State Fault Refusal :=
  act s (isSlice slice) (Sys2Proof.Machine.mcReloadDone s.tim s.dev slice readBackGood)

/-- REF_REBUILD (R169). -/
def execRefRebuild (slice : Nat) (s : State) : Host.Outcome State Fault Refusal :=
  act s (isSlice slice) (Sys2Proof.Machine.refRebuild s.dev slice)

/-- PROGRAM_FREED (R168). -/
def execProgramFreed (prog : Nat) (s : State) : Host.Outcome State Fault Refusal :=
  ends s (Sys2Proof.Machine.programFreed s.tim s.dev prog)

/-- EDIT_LOAD_DONE (R170). -/
def execEditLoadDone (s : State) : Host.Outcome State Fault Refusal := ends s (Sys2Proof.Machine.editLoadDone s.dev)

/-- EDIT_LOAD (R170). -/
def execEditLoad (part ring : Nat) (r : EnvResult) (payload : List Byte) (s : State) : Host.Outcome State Fault Refusal :=
  act s (isRing part ring) (Sys2Proof.Machine.editLoad s.dev part ring r payload)

/-- EDIT_RETIRE (R168). -/
def execEditRetire (part ring : Nat) (s : State) : Host.Outcome State Fault Refusal :=
  act s (isRing part ring) (Sys2Proof.Machine.editRetire s.tim s.dev part ring)

/-- TCAM_SHADOW_CHECK (R105). -/
def execTcamShadowCheck (tcm : Nat) (s : State) : Host.Outcome State Fault Refusal :=
  act s (isBlk ⟨.tcm, tcm⟩) (shadowCheck s.tim s.dev tcm)

/-- TCAM_DIAG_SEARCH_DONE (R102). -/
def execTcamDiagSearchDone (tcm : Nat) (s : State) : Host.Outcome State Fault Refusal :=
  act s (isBlk ⟨.tcm, tcm⟩) (srchDone s.tim s.dev tcm)

/-- TCAM_DIAG_SEARCH (R102). -/
def execTcamDiagSearch (tcm : Nat) (w : Word) (s : State) : Host.Outcome State Fault Refusal :=
  act s (isBlk ⟨.tcm, tcm⟩) (hostWrite s.tim s.dev ⟨.tcm, tcm⟩ .tcmSrchCtrl 0 w.toNat)

/-- WEIGHT_SWITCH (R99). -/
def execWeightSwitch (cluster group : Nat) (s : State) : Host.Outcome State Fault Refusal :=
  act s (isCluster cluster) (Sys2Proof.Machine.weightSwitch s.tim s.dev cluster group)

/-- ACCUMULATOR_FLUSH (R358). -/
def execAccumulatorFlush (cluster : Nat) (s : State) : Host.Outcome State Fault Refusal :=
  act s (isCluster cluster) (accFlush s.tim s.dev cluster)

/-- CHAIN_WRITE (R88). -/
def execChainWrite (cluster : Nat) (w : Word) (s : State) : Host.Outcome State Fault Refusal :=
  act s (isCluster cluster) (hostWrite s.tim s.dev ⟨.exm, cluster⟩ .exmChainData 0 w.toNat)

/-- DIRECTORY_WRITE (R88). -/
def execDirectoryWrite (cluster : Nat) (w : Word) (s : State) : Host.Outcome State Fault Refusal :=
  act s (isCluster cluster) (hostWrite s.tim s.dev ⟨.exm, cluster⟩ .exmDirData 0 w.toNat)

/-- WEIGHT_WRITE (R99). -/
def execWeightWrite (cluster : Nat) (w : Word) (s : State) : Host.Outcome State Fault Refusal :=
  act s (isCluster cluster) (hostWrite s.tim s.dev ⟨.exm, cluster⟩ .exmWgtData 0 w.toNat)

/-- FLIP_ARM (R260). -/
def execFlipArm (blk : Blk) (sub : Nat) (w : Word) (s : State) : Host.Outcome State Fault Refusal :=
  act s (isBlk blk) (headWrite s.tim s.dev blk sub .errFlipC w.toNat)

/-- PROT_CNT_READ (R265). -/
def execProtCntRead (blk : Blk) (s : State) : Host.Outcome State Fault Refusal :=
  act s (isBlk blk) (hostRead s.tim s.dev blk .protCnt 0)

end Sys2Proof.Machine
end

