-- ==== Sys2Proof/Machine/CmdPart.lean ====
section
/-! DEFINITION. Partitions, their images, ranges and owners. -/
namespace Sys2Proof.Machine

/-- A write of PART_CMD with OP RESTORE, with the image that the device reads (R302). DESIGN CHOICE, log entry 24. -/
def restoreWrite (t : TimeState) (d : Dev) (p : Nat) (img : SaveHead) : Dev :=
  if powered d && livePage d (regOff partBlk 0 .partCmd 0) == some (partBlk, 0) && !(blkSt d partBlk).softReset then
    partCmdWrite t d .whole (p <<< 16 + 8) img
  else hostWrite t d partBlk .partCmd 0 (p <<< 16 + 8)

/-- CREATE (R287). -/
def execCreate (part : Nat) (s : State) : Host.Outcome State Fault Refusal := partOp s 1 part 0

/-- DELETE (R299). -/
def execDelete (part : Nat) (s : State) : Host.Outcome State Fault Refusal := partOp s 2 part 0

/-- QUIESCE (R295). -/
def execQuiesce (part : Nat) (s : State) : Host.Outcome State Fault Refusal := partOp s 3 part 0

/-- RESET (R296). -/
def execReset (part : Nat) (s : State) : Host.Outcome State Fault Refusal := partOp s 4 part 0

/-- START (R298). -/
def execStart (part : Nat) (s : State) : Host.Outcome State Fault Refusal := partOp s 5 part 0

/-- FREEZE (R300). -/
def execFreeze (part : Nat) (s : State) : Host.Outcome State Fault Refusal := partOp s 6 part 0

/-- SAVE (R301). -/
def execSave (part : Nat) (s : State) : Host.Outcome State Fault Refusal := partOp s 7 part 0

/-- RESTORE (R302). -/
def execRestore (part : Nat) (img : SaveHead) (s : State) : Host.Outcome State Fault Refusal :=
  act s (isPart part) (restoreWrite s.tim s.dev part img)

/-- THAW (R304). -/
def execThaw (part : Nat) (s : State) : Host.Outcome State Fault Refusal := partOp s 9 part 0

/-- SET_MODE (R305). -/
def execSetMode (part : Nat) (reorder : Bool) (s : State) : Host.Outcome State Fault Refusal :=
  partOp s 10 part (b2n reorder)

/-- OWNERSHIP_WRITE (R285). -/
def execOwnershipWrite (queue : Bool) (w : Word) (s : State) : Host.Outcome State Fault Refusal :=
  ends s (hostWrite s.tim s.dev partBlk (if queue then .partQownData else .partPortData) 0 w.toNat)

/-- RANGE_WRITE (R284). -/
def execRangeWrite (kind : RangeKind) (w : Word) (s : State) : Host.Outcome State Fault Refusal :=
  ends s (hostWrite s.tim s.dev partBlk (rangeReg kind) 0 w.toNat)

/-- TRANSITION_END (R149). -/
def execTransitionEnd (part : Nat) (s : State) : Host.Outcome State Fault Refusal :=
  act s (isPart part) (Sys2Proof.Machine.transitionEnd s.tim s.dev part)

/-- QUIESCED (R295). -/
def execQuiesced (part : Nat) (s : State) : Host.Outcome State Fault Refusal :=
  act s (isPart part) (partQuiesced s.tim s.dev part)

/-- RESET_DONE (R296). -/
def execResetDone (part : Nat) (s : State) : Host.Outcome State Fault Refusal :=
  act s (isPart part) (partResetDone s.tim s.dev part)

/-- DRAIN_US_EXPIRY (R296). -/
def execDrainUsExpiry (part : Nat) (s : State) : Host.Outcome State Fault Refusal :=
  act s (isPart part) (drainExpiry s.tim s.dev part)

/-- RESET_SLOW (R296). -/
def execResetSlow (part : Nat) (s : State) : Host.Outcome State Fault Refusal :=
  act s (isPart part) (Sys2Proof.Machine.resetSlow s.tim s.dev part)

/-- PURGE_DONE (R299). -/
def execPurgeDone (part : Nat) (s : State) : Host.Outcome State Fault Refusal :=
  act s (isPart part) (Sys2Proof.Machine.purgeDone s.tim s.dev part)

/-- SAVE_DONE (R301). -/
def execSaveDone (part : Nat) (ok : Bool) (s : State) : Host.Outcome State Fault Refusal :=
  act s (isPart part) (Sys2Proof.Machine.saveDone s.tim s.dev part ok)

/-- RESTORE_DONE (R302). -/
def execRestoreDone (part outcome : Nat) (s : State) : Host.Outcome State Fault Refusal :=
  act s (isPart part) (Sys2Proof.Machine.restoreDone s.tim s.dev part outcome)

/-- FOLD_DONE (R304). -/
def execFoldDone (part : Nat) (s : State) : Host.Outcome State Fault Refusal :=
  act s (isPart part) (Sys2Proof.Machine.foldDone s.tim s.dev part)

end Sys2Proof.Machine
end

