-- ==== Sys2Proof/Machine/CmdPerf.lean ====
section
/-! DEFINITION. Counters: snapshots, dumps, thresholds and software access. -/
namespace Sys2Proof.Machine

/-- SNAPSHOT_REQUEST (R351). -/
def execSnapshotRequest (s : State) : Host.Outcome State Fault Refusal :=
  ends s (hostWrite s.tim s.dev perfBlk .perfSnap 0 (2 ^ 63))

/-- SNAPSHOT (R351). -/
def execSnapshot (s : State) : Host.Outcome State Fault Refusal := ends s (snapTake s.tim s.dev)

/-- DUMP_DONE (R352). -/
def execDumpDone (s : State) : Host.Outcome State Fault Refusal := ends s (Sys2Proof.Machine.dumpDone s.tim s.dev)

/-- THRESHOLD_FIRING (R355). -/
def execThresholdFiring (entry : Nat) (s : State) : Host.Outcome State Fault Refusal :=
  act s (decide (entry < 64)) (thrFire s.tim s.dev entry)

/-- SAMPLE_FRAME (R356). -/
def execSampleFrame (entry skid : Nat) (fid : Option Nat) (s : State) : Host.Outcome State Fault Refusal :=
  act s (decide (entry < 64)) (thrSample s.tim s.dev entry skid fid)

/-- PERF_VAL_WRITE (R349). -/
def execPerfValWrite (w : Word) (s : State) : Host.Outcome State Fault Refusal :=
  ends s (hostWrite s.tim s.dev perfBlk .perfVal 0 w.toNat)

/-- PERF_VAL_READ (R348). -/
def execPerfValRead (s : State) : Host.Outcome State Fault Refusal := ends s (hostRead s.tim s.dev perfBlk .perfVal 0)

/-- PERF_DUMP (R352). -/
def execPerfDump (w : Word) (s : State) : Host.Outcome State Fault Refusal :=
  ends s (hostWrite s.tim s.dev perfBlk .perfDumpCtrl 0 w.toNat)

/-- THRESHOLD_ENTRY_WRITE (R355). -/
def execThresholdEntryWrite (w : Word) (s : State) : Host.Outcome State Fault Refusal :=
  ends s (hostWrite s.tim s.dev perfBlk .perfThrCfg 0 w.toNat)

/-- PERF_DROPS_READ (R355). -/
def execPerfDropsRead (s : State) : Host.Outcome State Fault Refusal :=
  ends s (hostRead s.tim s.dev perfBlk .perfSmpStat 0)

/-- CTR_READ (R360). -/
def execCtrRead (part ring : Nat) (s : State) : Host.Outcome State Fault Refusal :=
  act s (isRing part ring) (Sys2Proof.Machine.ctrRead s.dev part ring)

/-- CTR_READ_DONE (R360). -/
def execCtrReadDone (part ring : Nat) (s : State) : Host.Outcome State Fault Refusal :=
  act s (isRing part ring) (Sys2Proof.Machine.ctrReadDone s.tim s.dev part ring)

end Sys2Proof.Machine
end

