-- ==== Sys2Proof/Machine/CmdPower.lean ====
section
/-! DEFINITION. Power of the slices and of the device, and the Limitur loops. -/
namespace Sys2Proof.Machine

/-- DOZE_ENTRY (R325). -/
def execDozeEntry (slice : Nat) (s : State) : Host.Outcome State Fault Refusal :=
  act s (isSlice slice) (Sys2Proof.Machine.dozeEntry s.tim s.dev slice)

/-- WAKE_COMPLETE (R326). -/
def execWakeComplete (slice : Nat) (s : State) : Host.Outcome State Fault Refusal :=
  act s (isSlice slice) (wakeDone s.dev slice)

/-- WAKE_LATE (R327). -/
def execWakeLate (slice : Nat) (s : State) : Host.Outcome State Fault Refusal :=
  act s (isSlice slice) (Sys2Proof.Machine.wakeLate s.dev slice)

/-- WAKE_FAIL (R327). -/
def execWakeFail (slice : Nat) (s : State) : Host.Outcome State Fault Refusal :=
  act s (isSlice slice) (Sys2Proof.Machine.wakeFail s.tim s.dev slice)

/-- NAP_ENTRY (R328). -/
def execNapEntry (slice : Nat) (s : State) : Host.Outcome State Fault Refusal :=
  act s (isSlice slice) (Sys2Proof.Machine.napEntry s.tim s.dev slice)

/-- NAP_EXIT (R328). -/
def execNapExit (slice : Nat) (s : State) : Host.Outcome State Fault Refusal :=
  act s (isSlice slice) (Sys2Proof.Machine.napExit s.dev slice)

/-- SLICE_POWER_DOWN (R330). -/
def execSlicePowerDown (slice : Nat) (s : State) : Host.Outcome State Fault Refusal :=
  act s (isSlice slice) (powerDown s.tim s.dev slice)

/-- SLICE_POWER_UP (R330). -/
def execSlicePowerUp (slice : Nat) (s : State) : Host.Outcome State Fault Refusal :=
  act s (isSlice slice) (powerUp s.dev slice)

/-- REGISTER_FILE_RETENTION (R36). -/
def execRegisterFileRetention (slice : Nat) (s : State) : Host.Outcome State Fault Refusal :=
  act s (isSlice slice) (regsRetained s.dev slice)

/-- SLEEP_ENTRY_DONE (R332). -/
def execSleepEntryDone (s : State) : Host.Outcome State Fault Refusal := ends s (sleepEntered s.dev)

/-- SLEEP_EXIT_DONE (R332). -/
def execSleepExitDone (s : State) : Host.Outcome State Fault Refusal := ends s (sleepExited s.dev)

/-- NAP_REQUEST (R328). -/
def execNapRequest (slice : Nat) (s : State) : Host.Outcome State Fault Refusal := slcRequest s slice 1

/-- OFF_REQUEST (R330). -/
def execOffRequest (slice : Nat) (s : State) : Host.Outcome State Fault Refusal := slcRequest s slice 2

/-- AUTO_REQUEST (R328). -/
def execAutoRequest (slice : Nat) (s : State) : Host.Outcome State Fault Refusal := slcRequest s slice 0

/-- SLEEP_REQUEST (R331). -/
def execSleepRequest (s : State) : Host.Outcome State Fault Refusal :=
  ends s (hostWrite s.tim s.dev pwrBlk .pwrCtrl 0 1)

/-- RUN_REQUEST (R332). -/
def execRunRequest (s : State) : Host.Outcome State Fault Refusal :=
  ends s (hostWrite s.tim s.dev pwrBlk .pwrCtrl 0 0)

/-- LOOP_EVALUATION (R333). -/
def execLoopEvaluation (loop : Nat) (m : List Nat) (s : State) : Host.Outcome State Fault Refusal :=
  act s (decide (loop < 6)) (loopEval s.tim s.dev loop m)

/-- LIM_WDOG (R337). -/
def execLimWdog (s : State) : Host.Outcome State Fault Refusal := ends s (Sys2Proof.Machine.limWdog s.tim s.dev)

/-- CONTROLLER_RESTART (R337). -/
def execControllerRestart (s : State) : Host.Outcome State Fault Refusal := ends s (limRestarted s.dev)

/-- LINKCHK_DWELL_END (R342). -/
def execLinkchkDwellEnd (lane errors : Nat) (locked : Bool) (s : State) : Host.Outcome State Fault Refusal :=
  act s (isPort lane) (dwellEnd s.tim s.dev lane errors locked)

/-- LOOP_RESTORE (R334). DESIGN CHOICE, log entry 30. -/
def execLoopRestore (loop : Nat) (s : State) : Host.Outcome State Fault Refusal :=
  act s (decide (loop < 6)) (hostWrite s.tim s.dev limBlk .limLoopCtrl loop (2 ^ 63 + rd s.dev limBlk .limLoopCtrl loop % 2 ^ 63))

end Sys2Proof.Machine
end

