-- ==== Sys2Proof/Machine/CmdRing.lean ====
section
/-! DEFINITION. The rings of the partitions and their descriptors. -/
namespace Sys2Proof.Machine

/-- DESCRIPTOR_FETCH (R368). -/
def execDescriptorFetch (part ring : Nat) (w : List Word) (s : State) : Host.Outcome State Fault Refusal :=
  act s (isRing part ring) (fetchDesc s.dev part ring (w.map BitVec.toNat))

/-- DMA_FAULT (R365). -/
def execDmaFault (part ring : Nat) (what : DmaUse) (timeout : Bool) (s : State) : Host.Outcome State Fault Refusal :=
  act s (isRing part ring) (Sys2Proof.Machine.dmaFault s.tim s.dev part ring what timeout)

/-- IRQ_TIMER (R370). -/
def execIrqTimer (part ring : Nat) (kind : RingKind) (s : State) : Host.Outcome State Fault Refusal :=
  act s (isRingOf kind part ring) (Sys2Proof.Machine.irqTimer s.dev kind part ring)

/-- PKT_SEND_FRAME_READ (R373). -/
def execPktSendFrameRead (part ring : Nat) (data : List Byte) (s : State) : Host.Outcome State Fault Refusal :=
  act s (isRing part ring) (pktRead s.tim s.dev part ring data)

/-- PKT_SEND (R373). -/
def execPktSend (part ring : Nat) (s : State) : Host.Outcome State Fault Refusal :=
  act s (isRing part ring) (Sys2Proof.Machine.pktSend s.dev part ring)

/-- NOP (R367). -/
def execNop (part ring : Nat) (s : State) : Host.Outcome State Fault Refusal :=
  act s (isRing part ring) (ringNop s.dev part ring)

/-- DOORBELL (R368). -/
def execDoorbell (part ring tail : Nat) (s : State) : Host.Outcome State Fault Refusal :=
  act s (isRingOf .command part ring) (ringRegWrite s.tim s.dev .command part ring .tail tail)

/-- RING_ENABLE (R369). -/
def execRingEnable (kind : RingKind) (part ring log2 : Nat) (s : State) : Host.Outcome State Fault Refusal :=
  act s (isRingOf kind part ring) (ringRegWrite s.tim s.dev kind part ring .cfg (2 ^ 63 + log2 % 32))

/-- RING_DISABLE (R369). DESIGN CHOICE, log entry 30. -/
def execRingDisable (kind : RingKind) (part ring : Nat) (s : State) : Host.Outcome State Fault Refusal :=
  act s (isRingOf kind part ring) (bar2Write s.tim s.dev 4 (ringOff kind part ring .cfg + 4) 0)

/-- IRQ_WRITE (R370). -/
def execIrqWrite (kind : RingKind) (part ring : Nat) (w : Word) (s : State) : Host.Outcome State Fault Refusal :=
  act s (isRingOf kind part ring) (ringRegWrite s.tim s.dev kind part ring .irq w.toNat)

/-- EVENT_HEAD_WRITE (R371). -/
def execEventHeadWrite (kind : RingKind) (part ring head : Nat) (s : State) : Host.Outcome State Fault Refusal :=
  act s (isRingOf kind part ring) (ringRegWrite s.tim s.dev kind part ring .head head)

/-- EVENT_DROPS_READ (R371). -/
def execEventDropsRead (kind : RingKind) (part ring : Nat) (s : State) : Host.Outcome State Fault Refusal :=
  act s (isRingOf kind part ring) (ringRegRead s.dev kind part ring .stat)

/-- VECTOR_RANGE_WRITE (R366). -/
def execVectorRangeWrite (w : Word) (s : State) : Host.Outcome State Fault Refusal :=
  ends s (hostWrite s.tim s.dev pciBlk .pciVecData 0 w.toNat)

end Sys2Proof.Machine
end

