-- ==== Sys2Proof/Machine/CmdTime.lean ====
section
/-! DEFINITION. Gates, pauses, device time and the ports. -/
namespace Sys2Proof.Machine

/-- GATE_ENTRY_CHANGE (R220, R223). -/
def execGateEntryChange (port : Nat) (s : State) : Host.Outcome State Fault Refusal :=
  act s (isPort port) (gateOpens s.tim s.dev port)

/-- GATE_LIST_TAKEOVER (R221). -/
def execGateListTakeover (port : Nat) (s : State) : Host.Outcome State Fault Refusal :=
  act s (isPort port) (gateTakeover s.tim s.dev port)

/-- GATE_GO (R221). -/
def execGateGo (slice : Nat) (w : Word) (s : State) : Host.Outcome State Fault Refusal :=
  act s (isSlice slice) (hostWrite s.tim s.dev ⟨.sch, slice⟩ .schGateCtrl 0 w.toNat)

/-- GATE_WAKE (R224). -/
def execGateWake (port : Nat) (s : State) : Host.Outcome State Fault Refusal :=
  act s (isPort port) (Sys2Proof.Machine.gateWake s.dev port)

/-- PFC_FRAME (R225). -/
def execPfcFrame (port opcode enables : Nat) (timers : List Nat) (s : State) : Host.Outcome State Fault Refusal :=
  act s (isPort port) (Sys2Proof.Machine.pfcFrame s.tim s.dev port opcode enables timers)

/-- PAUSE_EXPIRY (R225). -/
def execPauseExpiry (port cls : Nat) (s : State) : Host.Outcome State Fault Refusal :=
  act s (isClass port cls) (Sys2Proof.Machine.pauseExpiry s.tim s.dev port cls)

/-- PFC_REFRESH (R226). -/
def execPfcRefresh (port : Nat) (s : State) : Host.Outcome State Fault Refusal :=
  act s (isPort port) (Sys2Proof.Machine.pfcRefresh s.dev port)

/-- PFC_STORM (R227). -/
def execPfcStorm (port cls : Nat) (s : State) : Host.Outcome State Fault Refusal :=
  act s (isClass port cls) (Sys2Proof.Machine.pfcStorm s.tim s.dev port cls)

/-- PFC_WATCHDOG_END (R227). -/
def execPfcWatchdogEnd (port cls : Nat) (s : State) : Host.Outcome State Fault Refusal :=
  act s (isClass port cls) (Sys2Proof.Machine.pfcWatchdogEnd s.dev port cls)

/-- TIME_ADJUST_APPLY (R217). -/
def execTimeAdjustApply (s : State) : Host.Outcome State Fault Refusal :=
  ends { s with tim := (timeApply s.tim s.dev).1 } (timeApply s.tim s.dev).2

/-- TIME_STEP (R217). -/
def execTimeStep (w : Word) (s : State) : Host.Outcome State Fault Refusal :=
  ends s (hostWrite s.tim s.dev timBlk .timStep 0 w.toNat)

/-- TIME_INCR_WRITE (R217). -/
def execTimeIncrWrite (w : Word) (s : State) : Host.Outcome State Fault Refusal :=
  ends s (hostWrite s.tim s.dev timBlk .timIncr 0 w.toNat)

/-- TIME_READ (R231). -/
def execTimeRead (cap : Bool) (s : State) : Host.Outcome State Fault Refusal :=
  ends s (hostRead s.tim s.dev timBlk (if cap then .timPpsCapNs else .timNowNs) 0)

/-- PPS_OUT_PULSE (R231). -/
def execPpsOutPulse (s : State) : Host.Outcome State Fault Refusal := ends s (ppsOut s.dev)

/-- PPS_IN_CAPTURE (R231). -/
def execPpsInCapture (rising : Bool) (s : State) : Host.Outcome State Fault Refusal :=
  ends s (ppsIn s.tim s.dev rising)

/-- LINK_UP (R392). -/
def execLinkUp (port : Nat) (anDone : Bool) (s : State) : Host.Outcome State Fault Refusal :=
  act s (isPort port) (portUpNow s.dev port anDone)

/-- LINK_DOWN (R392). -/
def execLinkDown (port : Nat) (s : State) : Host.Outcome State Fault Refusal :=
  act s (isPort port) (portDown s.dev port)

/-- PORT_WIDTH_WRITE (R393). -/
def execPortWidthWrite (lane : Nat) (w : Word) (s : State) : Host.Outcome State Fault Refusal :=
  act s (isPort lane) (hostWrite s.tim s.dev ⟨.mac, lane⟩ .macCfg 0 w.toNat)

/-- TXTS_POP (R396). -/
def execTxtsPop (lane : Nat) (s : State) : Host.Outcome State Fault Refusal :=
  act s (isPort lane) (hostRead s.tim s.dev ⟨.mac, lane⟩ .macTxtsA 0)

/-- PRBS_ENABLE (R401). -/
def execPrbsEnable (lane : PrbsLane) (checker : Bool) (w : Word) (s : State) : Host.Outcome State Fault Refusal :=
  act s (prbsExists lane) (hostWrite s.tim s.dev (prbsSet lane).blk (if checker then (prbsSet lane).chk else (prbsSet lane).gen) (prbsSet lane).ix w.toNat)

/-- PRBS_CHECKER_LOCK (R400). -/
def execPrbsCheckerLock (lane : PrbsLane) (s : State) : Host.Outcome State Fault Refusal :=
  act s (prbsExists lane) (prbsLocked s.dev lane)

/-- PRBS_LOCK_LOSS (R400). -/
def execPrbsLockLoss (lane : PrbsLane) (s : State) : Host.Outcome State Fault Refusal :=
  act s (prbsExists lane) (prbsLost s.dev lane)

/-- TICK_REALIGN (R387). DESIGN CHOICE, log entry 32. -/
def execTickRealign (s : State) : Host.Outcome State Fault Refusal := ends s (s.dev)

end Sys2Proof.Machine
end

