-- ==== Sys2Proof/Machine/CmdTwin.lean ====
section
/-! DEFINITION. The twin: pairing, numbers, replication, bulk sync and detach. -/
namespace Sys2Proof.Machine

/-- NUMBER_REQUEST (R122). -/
def execNumberRequest (s : State) : Host.Outcome State Fault Refusal := ends s (Sys2Proof.Machine.numberRequest s.dev)

/-- NUMBER_GRANT (R122). -/
def execNumberGrant (version : Nat) (s : State) : Host.Outcome State Fault Refusal :=
  ends s (Sys2Proof.Machine.numberGrant s.dev version)

/-- REPLICATED_COMMIT (R315). -/
def execReplicatedCommit (version part : Nat) (changes : List RepChange) (lost : Bool) (s : State) : Host.Outcome State Fault Refusal :=
  act s (isPart part) (commitArrives s.tim s.dev version part changes lost)

/-- REPLICATION_ACK (R123). -/
def execReplicationAck (version : Nat) (ok : Bool) (s : State) : Host.Outcome State Fault Refusal :=
  ends s (replAck s.dev version ok)

/-- HELLO (R310). -/
def execHello (h : Hello) (width : Nat) (s : State) : Host.Outcome State Fault Refusal :=
  ends s (twinHello s.dev h width)

/-- TRAINING_TIMEOUT (R310). -/
def execTrainingTimeout (s : State) : Host.Outcome State Fault Refusal := ends s (trainTimeout s.tim s.dev)

/-- HEARTBEAT_SEND (R309). -/
def execHeartbeatSend (s : State) : Host.Outcome State Fault Refusal := ends s (heartbeatOut s.dev)

/-- HEARTBEAT (R318). -/
def execHeartbeat (h : Heartbeat) (s : State) : Host.Outcome State Fault Refusal := ends s (heartbeatIn s.tim s.dev h)

/-- HEARTBEAT_TIMEOUT (R318). -/
def execHeartbeatTimeout (s : State) : Host.Outcome State Fault Refusal := ends s (twinLoss s.tim s.dev 2)

/-- TWIN_ALIVE_LOSS (R318). -/
def execTwinAliveLoss (s : State) : Host.Outcome State Fault Refusal := ends s (twinLoss s.tim s.dev 1)

/-- TWIN_ALIVE_EDGE (R318). -/
def execTwinAliveEdge (s : State) : Host.Outcome State Fault Refusal :=
  ends s (setTw s.dev { s.dev.tw with edge := !s.dev.tw.edge })

/-- FLIT_RETRY (R309). -/
def execFlitRetry (eighth : Bool) (s : State) : Host.Outcome State Fault Refusal :=
  ends s (flitBad s.tim s.dev eighth)

/-- CSL_RETRAIN_DONE (R309). -/
def execCslRetrainDone (width : Nat) (s : State) : Host.Outcome State Fault Refusal := ends s (retrained s.dev width)

/-- SYNC_RECORD (R312). -/
def execSyncRecord (r : SyncRec) (s : State) : Host.Outcome State Fault Refusal :=
  ends s (Sys2Proof.Machine.syncRecord s.tim s.dev r)

/-- SYNC_BATCH_COMMIT (R312). -/
def execSyncBatchCommit (part : Nat) (s : State) : Host.Outcome State Fault Refusal :=
  act s (isPart part) (syncBatch s.tim s.dev part)

/-- CUT_OVER (R313). -/
def execCutOver (theirs : Nat) (s : State) : Host.Outcome State Fault Refusal :=
  ends s (Sys2Proof.Machine.cutOver s.dev theirs)

/-- DETACH_MESSAGE (R320). -/
def execDetachMessage (crust : Bool) (s : State) : Host.Outcome State Fault Refusal :=
  ends s (detachIn s.tim s.dev crust)

/-- DETACH_ACK (R320). -/
def execDetachAck (s : State) : Host.Outcome State Fault Refusal := ends s (detachAcked s.tim s.dev)

/-- DETACH_TIMEOUT (R320). -/
def execDetachTimeout (s : State) : Host.Outcome State Fault Refusal := ends s (detachLate s.tim s.dev)

/-- XFER_DONE (R322). -/
def execXferDone (sentKib : Nat) (fault : Bool) (area : Nat) (data : List Byte) (s : State) : Host.Outcome State Fault Refusal :=
  ends s (Sys2Proof.Machine.xferDone s.tim s.dev sentKib fault area data)

/-- ATTACH (R311). -/
def execAttach (s : State) : Host.Outcome State Fault Refusal := cslOp s 1 0

/-- DETACH (R320). -/
def execDetach (s : State) : Host.Outcome State Fault Refusal := cslOp s 2 0

/-- RESYNC (R316). -/
def execResync (part : Nat) (s : State) : Host.Outcome State Fault Refusal := cslOp s 3 part

/-- XFER (R322). -/
def execXfer (s : State) : Host.Outcome State Fault Refusal := cslOp s 4 0

end Sys2Proof.Machine
end

