-- ==== Sys2Proof/Machine/CmdVersion.lean ====
section
/-! DEFINITION. The commit engine and its versions. -/
namespace Sys2Proof.Machine

/-- EPOCH_REPORT (R111). -/
def execEpochReport (unit epoch : Nat) (s : State) : Host.Outcome State Fault Refusal :=
  act s (decide (unit < 72)) (Sys2Proof.Machine.epochReport s.dev unit epoch)

/-- DRAINED (R111). -/
def execDrained (unit epoch : Nat) (s : State) : Host.Outcome State Fault Refusal :=
  act s (decide (unit < 72)) (Sys2Proof.Machine.drained s.tim s.dev unit epoch)

/-- SETTLE_COMPLETE (R114). -/
def execSettleComplete (tag : Nat) (s : State) : Host.Outcome State Fault Refusal :=
  act s (decide (tag < 64)) (Sys2Proof.Machine.settleComplete s.tim s.dev tag)

/-- VERSION_ASSIGN (R110). -/
def execVersionAssign (s : State) : Host.Outcome State Fault Refusal :=
  ends s (Sys2Proof.Machine.versionAssign s.tim s.dev)

/-- TAG_RESOLVE_ACK (R119). -/
def execTagResolveAck (s : State) : Host.Outcome State Fault Refusal := ends s (Sys2Proof.Machine.tagResolveAck s.dev)

/-- SLICE_ADOPT (R119). -/
def execSliceAdopt (unit : Nat) (s : State) : Host.Outcome State Fault Refusal :=
  act s (decide (unit < 72)) (Sys2Proof.Machine.sliceAdopt s.dev unit)

/-- SWITCH_COMPLETE (R119). -/
def execSwitchComplete (s : State) : Host.Outcome State Fault Refusal :=
  ends s (Sys2Proof.Machine.switchComplete s.tim s.dev)

/-- COMMIT_CREDIT_REFILL (R121). -/
def execCommitCreditRefill (s : State) : Host.Outcome State Fault Refusal := ends s (creditRefill s.dev)

/-- PARTITION_CREDIT_REFILL (R293). -/
def execPartitionCreditRefill (part : Nat) (s : State) : Host.Outcome State Fault Refusal :=
  act s (isPart part) (partRefill s.dev part)

/-- DRAIN_SLOW (R126). -/
def execDrainSlow (s : State) : Host.Outcome State Fault Refusal := ends s (Sys2Proof.Machine.drainSlow s.tim s.dev)

/-- VER_DRAIN_DONE (R109). -/
def execVerDrainDone (part ring : Nat) (s : State) : Host.Outcome State Fault Refusal :=
  act s (isRing part ring) (Sys2Proof.Machine.verDrainDone s.dev part ring)

/-- TBL_CHANGE (R117). -/
def execTblChange (part ring : Nat) (img : List Byte) (s : State) : Host.Outcome State Fault Refusal :=
  act s (isRing part ring) (Sys2Proof.Machine.tblChange s.tim s.dev part ring (some img))

/-- TBL_COMMIT (R119). -/
def execTblCommit (part ring : Nat) (s : State) : Host.Outcome State Fault Refusal :=
  act s (isRing part ring) (Sys2Proof.Machine.tblCommit s.tim s.dev part ring)

/-- TBL_ABORT (R118). -/
def execTblAbort (part ring : Nat) (s : State) : Host.Outcome State Fault Refusal :=
  act s (isRing part ring) (Sys2Proof.Machine.tblAbort s.tim s.dev part ring)

/-- VER_DRAIN (R109). -/
def execVerDrain (part ring : Nat) (s : State) : Host.Outcome State Fault Refusal :=
  act s (isRing part ring) (Sys2Proof.Machine.verDrain s.dev part ring)

end Sys2Proof.Machine
end

