-- ==== Sys2Proof/Machine/Dispatch.lean ====
section
/-! DEFINITION. The meaning of every command: one arm for each constructor. -/
namespace Sys2Proof.Machine

/-- A command's effect on everything but the queue. DESIGN CHOICE, log entry 9. -/
def exec (i : Instr) (s : State) : Host.Outcome State Fault Refusal :=
  match i with
  | .rxFrameStart port data => Sys2Proof.Machine.execRxFrameStart port data s
  | .headerWindowRelease fid => Sys2Proof.Machine.execHeaderWindowRelease fid s
  | .flowLookupResult cluster => Sys2Proof.Machine.execFlowLookupResult cluster s
  | .verify fid => Sys2Proof.Machine.execVerify fid s
  | .poolRequest fid cluster => Sys2Proof.Machine.execPoolRequest fid cluster s
  | .poolGrant fid cluster => Sys2Proof.Machine.execPoolGrant fid cluster s
  | .creditReturn src dst => Sys2Proof.Machine.execCreditReturn src dst s
  | .d2dCellArrival src dst => Sys2Proof.Machine.execD2dCellArrival src dst s
  | .d2dRetry link => Sys2Proof.Machine.execD2dRetry link s
  | .frameTail fid fcsGood fecGood => Sys2Proof.Machine.execFrameTail fid fcsGood fecGood s
  | .scGrant port => Sys2Proof.Machine.execScGrant port s
  | .verdictArrival fid => Sys2Proof.Machine.execVerdictArrival fid s
  | .txFrameEnd cid => Sys2Proof.Machine.execTxFrameEnd cid s
  | .replChainArrival fid cluster => Sys2Proof.Machine.execReplChainArrival fid cluster s
  | .spillBlockFlush queue => Sys2Proof.Machine.execSpillBlockFlush queue s
  | .spillReadBack queue => Sys2Proof.Machine.execSpillReadBack queue s
  | .spillBlockReturn queue => Sys2Proof.Machine.execSpillBlockReturn queue s
  | .auditPassEnd cluster us => Sys2Proof.Machine.execAuditPassEnd cluster us s
  | .sporeDelivery cid => Sys2Proof.Machine.execSporeDelivery cid s
  | .hostCopyDelivery part cluster => Sys2Proof.Machine.execHostCopyDelivery part cluster s
  | .gateEntryChange port => Sys2Proof.Machine.execGateEntryChange port s
  | .gateListTakeover port => Sys2Proof.Machine.execGateListTakeover port s
  | .pfcFrame port opcode enables timers => Sys2Proof.Machine.execPfcFrame port opcode enables timers s
  | .pauseExpiry port cls => Sys2Proof.Machine.execPauseExpiry port cls s
  | .pfcRefresh port => Sys2Proof.Machine.execPfcRefresh port s
  | .pfcStorm port cls => Sys2Proof.Machine.execPfcStorm port cls s
  | .pfcWatchdogEnd port cls => Sys2Proof.Machine.execPfcWatchdogEnd port cls s
  | .timeAdjustApply => Sys2Proof.Machine.execTimeAdjustApply s
  | .ppsOutPulse => Sys2Proof.Machine.execPpsOutPulse s
  | .ppsInCapture rising => Sys2Proof.Machine.execPpsInCapture rising s
  | .hbmTempReport cluster tempC => Sys2Proof.Machine.execHbmTempReport cluster tempC s
  | .hbmRefresh cluster => Sys2Proof.Machine.execHbmRefresh cluster s
  | .trackingSlot cluster channel margin => Sys2Proof.Machine.execTrackingSlot cluster channel margin s
  | .hbmRegionRefillDone cluster => Sys2Proof.Machine.execHbmRegionRefillDone cluster s
  | .hbmTrainPassDone cluster errors lanes => Sys2Proof.Machine.execHbmTrainPassDone cluster errors lanes s
  | .eccWriteBack blk mem word => Sys2Proof.Machine.execEccWriteBack blk mem word s
  | .scrubRead blk mem => Sys2Proof.Machine.execScrubRead blk mem s
  | .goldenRebuild word => Sys2Proof.Machine.execGoldenRebuild word s
  | .mcReloadDone slice readBackGood => Sys2Proof.Machine.execMcReloadDone slice readBackGood s
  | .refRebuild slice => Sys2Proof.Machine.execRefRebuild slice s
  | .programFreed prog => Sys2Proof.Machine.execProgramFreed prog s
  | .editLoadDone => Sys2Proof.Machine.execEditLoadDone s
  | .tcamShadowCheck tcm => Sys2Proof.Machine.execTcamShadowCheck tcm s
  | .tcamDiagSearchDone tcm => Sys2Proof.Machine.execTcamDiagSearchDone tcm s
  | .weightSwitch cluster group => Sys2Proof.Machine.execWeightSwitch cluster group s
  | .accumulatorFlush cluster => Sys2Proof.Machine.execAccumulatorFlush cluster s
  | .faultEvent e => Sys2Proof.Machine.execFaultEvent e s
  | .windowExpiry cls => Sys2Proof.Machine.execWindowExpiry cls s
  | .aliveToggle => Sys2Proof.Machine.execAliveToggle s
  | .aonWdogKick => Sys2Proof.Machine.execAonWdogKick s
  | .aonWdog => Sys2Proof.Machine.execAonWdog s
  | .crustActive => Sys2Proof.Machine.execCrustActive s
  | .crustExitComplete late => Sys2Proof.Machine.execCrustExitComplete late s
  | .bringUpComplete blk => Sys2Proof.Machine.execBringUpComplete blk s
  | .shutDownComplete blk => Sys2Proof.Machine.execShutDownComplete blk s
  | .pendEnableRestart blk => Sys2Proof.Machine.execPendEnableRestart blk s
  | .softResetComplete blk => Sys2Proof.Machine.execSoftResetComplete blk s
  | .stuck blk => Sys2Proof.Machine.execStuck blk s
  | .epochReport unit epoch => Sys2Proof.Machine.execEpochReport unit epoch s
  | .drained unit epoch => Sys2Proof.Machine.execDrained unit epoch s
  | .settleComplete tag => Sys2Proof.Machine.execSettleComplete tag s
  | .versionAssign => Sys2Proof.Machine.execVersionAssign s
  | .tagResolveAck => Sys2Proof.Machine.execTagResolveAck s
  | .sliceAdopt unit => Sys2Proof.Machine.execSliceAdopt unit s
  | .switchComplete => Sys2Proof.Machine.execSwitchComplete s
  | .commitCreditRefill => Sys2Proof.Machine.execCommitCreditRefill s
  | .drainSlow => Sys2Proof.Machine.execDrainSlow s
  | .verDrainDone part ring => Sys2Proof.Machine.execVerDrainDone part ring s
  | .numberRequest => Sys2Proof.Machine.execNumberRequest s
  | .numberGrant version => Sys2Proof.Machine.execNumberGrant version s
  | .replicatedCommit version part changes lost => Sys2Proof.Machine.execReplicatedCommit version part changes lost s
  | .replicationAck version ok => Sys2Proof.Machine.execReplicationAck version ok s
  | .flushComplete cluster => Sys2Proof.Machine.execFlushComplete cluster s
  | .transitionEnd part => Sys2Proof.Machine.execTransitionEnd part s
  | .quiesced part => Sys2Proof.Machine.execQuiesced part s
  | .resetDone part => Sys2Proof.Machine.execResetDone part s
  | .drainUsExpiry part => Sys2Proof.Machine.execDrainUsExpiry part s
  | .resetSlow part => Sys2Proof.Machine.execResetSlow part s
  | .purgeDone part => Sys2Proof.Machine.execPurgeDone part s
  | .saveDone part ok => Sys2Proof.Machine.execSaveDone part ok s
  | .restoreDone part outcome => Sys2Proof.Machine.execRestoreDone part outcome s
  | .foldDone part => Sys2Proof.Machine.execFoldDone part s
  | .hello h width => Sys2Proof.Machine.execHello h width s
  | .trainingTimeout => Sys2Proof.Machine.execTrainingTimeout s
  | .heartbeatSend => Sys2Proof.Machine.execHeartbeatSend s
  | .heartbeat h => Sys2Proof.Machine.execHeartbeat h s
  | .heartbeatTimeout => Sys2Proof.Machine.execHeartbeatTimeout s
  | .twinAliveLoss => Sys2Proof.Machine.execTwinAliveLoss s
  | .flitRetry eighth => Sys2Proof.Machine.execFlitRetry eighth s
  | .syncRecord r => Sys2Proof.Machine.execSyncRecord r s
  | .syncBatchCommit part => Sys2Proof.Machine.execSyncBatchCommit part s
  | .cutOver theirs => Sys2Proof.Machine.execCutOver theirs s
  | .detachMessage crust => Sys2Proof.Machine.execDetachMessage crust s
  | .detachAck => Sys2Proof.Machine.execDetachAck s
  | .detachTimeout => Sys2Proof.Machine.execDetachTimeout s
  | .xferDone sentKib fault area data => Sys2Proof.Machine.execXferDone sentKib fault area data s
  | .dozeEntry slice => Sys2Proof.Machine.execDozeEntry slice s
  | .wakeComplete slice => Sys2Proof.Machine.execWakeComplete slice s
  | .wakeLate slice => Sys2Proof.Machine.execWakeLate slice s
  | .wakeFail slice => Sys2Proof.Machine.execWakeFail slice s
  | .napEntry slice => Sys2Proof.Machine.execNapEntry slice s
  | .napExit slice => Sys2Proof.Machine.execNapExit slice s
  | .slicePowerDown slice => Sys2Proof.Machine.execSlicePowerDown slice s
  | .slicePowerUp slice => Sys2Proof.Machine.execSlicePowerUp slice s
  | .sleepEntryDone => Sys2Proof.Machine.execSleepEntryDone s
  | .sleepExitDone => Sys2Proof.Machine.execSleepExitDone s
  | .loopEvaluation loop m => Sys2Proof.Machine.execLoopEvaluation loop m s
  | .limWdog => Sys2Proof.Machine.execLimWdog s
  | .controllerRestart => Sys2Proof.Machine.execControllerRestart s
  | .linkchkDwellEnd lane errors locked => Sys2Proof.Machine.execLinkchkDwellEnd lane errors locked s
  | .snapshot => Sys2Proof.Machine.execSnapshot s
  | .dumpDone => Sys2Proof.Machine.execDumpDone s
  | .thresholdFiring entry => Sys2Proof.Machine.execThresholdFiring entry s
  | .sampleFrame entry skid fid => Sys2Proof.Machine.execSampleFrame entry skid fid s
  | .ctrReadDone part ring => Sys2Proof.Machine.execCtrReadDone part ring s
  | .descriptorFetch part ring w => Sys2Proof.Machine.execDescriptorFetch part ring w s
  | .dmaFault part ring what timeout => Sys2Proof.Machine.execDmaFault part ring what timeout s
  | .irqTimer part ring kind => Sys2Proof.Machine.execIrqTimer part ring kind s
  | .pktSendFrameRead part ring data => Sys2Proof.Machine.execPktSendFrameRead part ring data s
  | .powerOnReset rise testEn twinRole bootSrc => Sys2Proof.Machine.execPowerOnReset rise testEn twinRole bootSrc s
  | .bootImageReadDone copy ok => Sys2Proof.Machine.execBootImageReadDone copy ok s
  | .firmwareStart r => Sys2Proof.Machine.execFirmwareStart r s
  | .hbmTrainingDone lanes late => Sys2Proof.Machine.execHbmTrainingDone lanes late s
  | .onDieFillDone => Sys2Proof.Machine.execOnDieFillDone s
  | .loadsDone r sect payload => Sys2Proof.Machine.execLoadsDone r sect payload s
  | .clusterReleaseDone ms => Sys2Proof.Machine.execClusterReleaseDone ms s
  | .bootTimeout => Sys2Proof.Machine.execBootTimeout s
  | .recoveryReadDone ok => Sys2Proof.Machine.execRecoveryReadDone ok s
  | .systemReset => Sys2Proof.Machine.execSystemReset s
  | .linkReset => Sys2Proof.Machine.execLinkReset s
  | .functionLevelReset => Sys2Proof.Machine.execFunctionLevelReset s
  | .smbusTransaction write off w => Sys2Proof.Machine.execSmbusTransaction write off w s
  | .supplyExcursion rail fail => Sys2Proof.Machine.execSupplyExcursion rail fail s
  | .refclkLoss clk => Sys2Proof.Machine.execRefclkLoss clk s
  | .tickRealign => Sys2Proof.Machine.execTickRealign s
  | .avsWriteResult cluster ok => Sys2Proof.Machine.execAvsWriteResult cluster ok s
  | .avsReadback cluster milliVolts milliAmps => Sys2Proof.Machine.execAvsReadback cluster milliVolts milliAmps s
  | .linkUp port anDone => Sys2Proof.Machine.execLinkUp port anDone s
  | .linkDown port => Sys2Proof.Machine.execLinkDown port s
  | .jtagInstruction code => Sys2Proof.Machine.execJtagInstruction code s
  | .registerWrite bar span off w => Sys2Proof.Machine.execRegisterWrite bar span off w s
  | .registerReadLatch bar span off => Sys2Proof.Machine.execRegisterReadLatch bar span off s
  | .ctrlEnable blk sub en => Sys2Proof.Machine.execCtrlEnable blk sub en s
  | .ctrlSoftReset blk sub en => Sys2Proof.Machine.execCtrlSoftReset blk sub en s
  | .ctrlLock blk sub => Sys2Proof.Machine.execCtrlLock blk sub s
  | .errStatusClear blk sub w again => Sys2Proof.Machine.execErrStatusClear blk sub w again s
  | .flipArm blk sub w => Sys2Proof.Machine.execFlipArm blk sub w s
  | .violationCountRead blk sub => Sys2Proof.Machine.execViolationCountRead blk sub s
  | .protCntRead blk => Sys2Proof.Machine.execProtCntRead blk s
  | .prsKbDataWrite slice w => Sys2Proof.Machine.execPrsKbDataWrite slice w s
  | .chainWrite cluster w => Sys2Proof.Machine.execChainWrite cluster w s
  | .directoryWrite cluster w => Sys2Proof.Machine.execDirectoryWrite cluster w s
  | .weightWrite cluster w => Sys2Proof.Machine.execWeightWrite cluster w s
  | .tcamDiagSearch tcm w => Sys2Proof.Machine.execTcamDiagSearch tcm w s
  | .tblChange part ring img => Sys2Proof.Machine.execTblChange part ring img s
  | .tblCommit part ring => Sys2Proof.Machine.execTblCommit part ring s
  | .tblAbort part ring => Sys2Proof.Machine.execTblAbort part ring s
  | .verDrain part ring => Sys2Proof.Machine.execVerDrain part ring s
  | .fdhFlush cluster w => Sys2Proof.Machine.execFdhFlush cluster w s
  | .editLoad part ring r payload => Sys2Proof.Machine.execEditLoad part ring r payload s
  | .editRetire part ring => Sys2Proof.Machine.execEditRetire part ring s
  | .replFence cluster => Sys2Proof.Machine.execReplFence cluster s
  | .replFenceDone cluster => Sys2Proof.Machine.execReplFenceDone cluster s
  | .samplerWrite cluster w => Sys2Proof.Machine.execSamplerWrite cluster w s
  | .queueRecordWrite slice w => Sys2Proof.Machine.execQueueRecordWrite slice w s
  | .groupShaperWrite slice w => Sys2Proof.Machine.execGroupShaperWrite slice w s
  | .gateGo slice w => Sys2Proof.Machine.execGateGo slice w s
  | .meterProfileWrite slice w => Sys2Proof.Machine.execMeterProfileWrite slice w s
  | .timeStep w => Sys2Proof.Machine.execTimeStep w s
  | .timeIncrWrite w => Sys2Proof.Machine.execTimeIncrWrite w s
  | .timeRead cap => Sys2Proof.Machine.execTimeRead cap s
  | .hbmRegionWrite cluster w => Sys2Proof.Machine.execHbmRegionWrite cluster w s
  | .hbmTrainGo cluster w => Sys2Proof.Machine.execHbmTrainGo cluster w s
  | .fltAck w => Sys2Proof.Machine.execFltAck w s
  | .fltStatusClear w => Sys2Proof.Machine.execFltStatusClear w s
  | .fltInj w => Sys2Proof.Machine.execFltInj w s
  | .fltUnfence w => Sys2Proof.Machine.execFltUnfence w s
  | .crustExit => Sys2Proof.Machine.execCrustExit s
  | .create part => Sys2Proof.Machine.execCreate part s
  | .delete part => Sys2Proof.Machine.execDelete part s
  | .quiesce part => Sys2Proof.Machine.execQuiesce part s
  | .reset part => Sys2Proof.Machine.execReset part s
  | .start part => Sys2Proof.Machine.execStart part s
  | .freeze part => Sys2Proof.Machine.execFreeze part s
  | .save part => Sys2Proof.Machine.execSave part s
  | .restore part img => Sys2Proof.Machine.execRestore part img s
  | .thaw part => Sys2Proof.Machine.execThaw part s
  | .setMode part reorder => Sys2Proof.Machine.execSetMode part reorder s
  | .ownershipWrite queue w => Sys2Proof.Machine.execOwnershipWrite queue w s
  | .rangeWrite kind w => Sys2Proof.Machine.execRangeWrite kind w s
  | .attach => Sys2Proof.Machine.execAttach s
  | .detach => Sys2Proof.Machine.execDetach s
  | .resync part => Sys2Proof.Machine.execResync part s
  | .xfer => Sys2Proof.Machine.execXfer s
  | .napRequest slice => Sys2Proof.Machine.execNapRequest slice s
  | .offRequest slice => Sys2Proof.Machine.execOffRequest slice s
  | .autoRequest slice => Sys2Proof.Machine.execAutoRequest slice s
  | .sleepRequest => Sys2Proof.Machine.execSleepRequest s
  | .runRequest => Sys2Proof.Machine.execRunRequest s
  | .loopRestore loop => Sys2Proof.Machine.execLoopRestore loop s
  | .snapshotRequest => Sys2Proof.Machine.execSnapshotRequest s
  | .perfValWrite w => Sys2Proof.Machine.execPerfValWrite w s
  | .perfValRead => Sys2Proof.Machine.execPerfValRead s
  | .perfDump w => Sys2Proof.Machine.execPerfDump w s
  | .thresholdEntryWrite w => Sys2Proof.Machine.execThresholdEntryWrite w s
  | .perfDropsRead => Sys2Proof.Machine.execPerfDropsRead s
  | .ctrRead part ring => Sys2Proof.Machine.execCtrRead part ring s
  | .nop part ring => Sys2Proof.Machine.execNop part ring s
  | .pktSend part ring => Sys2Proof.Machine.execPktSend part ring s
  | .doorbell part ring tail => Sys2Proof.Machine.execDoorbell part ring tail s
  | .ringEnable kind part ring log2 => Sys2Proof.Machine.execRingEnable kind part ring log2 s
  | .ringDisable kind part ring => Sys2Proof.Machine.execRingDisable kind part ring s
  | .irqWrite kind part ring w => Sys2Proof.Machine.execIrqWrite kind part ring w s
  | .eventHeadWrite kind part ring head => Sys2Proof.Machine.execEventHeadWrite kind part ring head s
  | .eventDropsRead kind part ring => Sys2Proof.Machine.execEventDropsRead kind part ring s
  | .vectorRangeWrite w => Sys2Proof.Machine.execVectorRangeWrite w s
  | .bootReset w => Sys2Proof.Machine.execBootReset w s
  | .recoveryGo w => Sys2Proof.Machine.execRecoveryGo w s
  | .portWidthWrite lane w => Sys2Proof.Machine.execPortWidthWrite lane w s
  | .txtsPop lane => Sys2Proof.Machine.execTxtsPop lane s
  | .prbsEnable lane checker w => Sys2Proof.Machine.execPrbsEnable lane checker w s
  | .partitionCreditRefill part => Sys2Proof.Machine.execPartitionCreditRefill part s
  | .spillTokenRefill cluster => Sys2Proof.Machine.execSpillTokenRefill cluster s
  | .gateWake port => Sys2Proof.Machine.execGateWake port s
  | .twinAliveEdge => Sys2Proof.Machine.execTwinAliveEdge s
  | .cslRetrainDone width => Sys2Proof.Machine.execCslRetrainDone width s
  | .prbsCheckerLock lane => Sys2Proof.Machine.execPrbsCheckerLock lane s
  | .prbsLockLoss lane => Sys2Proof.Machine.execPrbsLockLoss lane s
  | .pcieLinkUp speed width => Sys2Proof.Machine.execPcieLinkUp speed width s
  | .refclkRestored clk => Sys2Proof.Machine.execRefclkRestored clk s
  | .registerFileRetention slice => Sys2Proof.Machine.execRegisterFileRetention slice s

end Sys2Proof.Machine
end

