-- ==== Sys2Proof/WellFormed.lean ====
section
/-! DEFINITION. The commands whose operands name units, blocks and values that the device has. -/
namespace Sys2Proof

/-- A block exists and has the page (Table 2.17). -/
def Blk.wf (b : Blk) (sub : Nat) : Bool := b.inst < b.kind.count && sub < b.kind.info.span

/-- A lane that has a PRBS set (R400). -/
def PrbsLane.wf : PrbsLane → Bool
  | .sds l => l < 1024
  | .csl l => l < 8
  | .pci l => l < 4
  | .d2d i => i < 56

/-- A ring that a partition window has room for (Table 13.4). -/
def RingKind.wf (k : RingKind) (p r : Nat) : Bool := p < 4096 && r < (if k = .event then 4 else 16)

/-- A fault event of a class, level and error bit that exist (Tables 12.1, 12.2). -/
def FaultEv.wf (e : FaultEv) : Bool := e.cls < 24 && e.level ≤ 4 && e.bit < 64

/-- A reference clock of the device (Table 18.3). -/
def RefClk.wf : RefClk → Bool
  | .aon => true
  | .sd c => c < 8
  | .pcie => true

/-- Every operand of a command lies in its range: what a command that fails this names does not exist. -/
def Instr.wf : Instr → Bool
  | .rxFrameStart p _ | .scGrant p | .gateEntryChange p | .gateListTakeover p | .pfcRefresh p | .linkUp p _ | .linkDown p
  | .gateWake p | .linkchkDwellEnd p _ _ | .portWidthWrite p _ | .txtsPop p => p < 1024
  | .pfcFrame p op _ ts => p < 1024 && op < 0x10000 && ts.all (· < 0x10000)
  | .pauseExpiry p c | .pfcStorm p c | .pfcWatchdogEnd p c => p < 1024 && c < 8
  | .flowLookupResult c | .poolRequest _ c | .poolGrant _ c | .replChainArrival _ c | .auditPassEnd c _ | .weightSwitch c _
  | .accumulatorFlush c | .flushComplete c | .chainWrite c _ | .directoryWrite c _ | .weightWrite c _ | .fdhFlush c _
  | .replFence c | .replFenceDone c | .samplerWrite c _ | .hbmRegionWrite c _ | .hbmTrainGo c _ | .hbmTempReport c _
  | .hbmRefresh c | .trackingSlot c _ _ | .hbmRegionRefillDone c | .hbmTrainPassDone c _ _ | .spillTokenRefill c
  | .avsWriteResult c _ | .avsReadback c _ _ => c < 8
  | .creditReturn a b | .d2dCellArrival a b => a < 64 && b < 64
  | .d2dRetry l => l < 56
  | .spillBlockFlush q | .spillReadBack q | .spillBlockReturn q => q < 1048576
  | .hostCopyDelivery p c => p < 4096 && c < 8
  | .eccWriteBack b _ _ | .scrubRead b _ | .bringUpComplete b | .shutDownComplete b | .pendEnableRestart b
  | .softResetComplete b | .stuck b | .protCntRead b => b.wf 0
  | .ctrlEnable b sub _ | .ctrlSoftReset b sub _ | .ctrlLock b sub | .errStatusClear b sub _ _ | .flipArm b sub _
  | .violationCountRead b sub => b.wf sub
  | .goldenRebuild w => w < 0x2000
  | .mcReloadDone s _ | .refRebuild s | .dozeEntry s | .wakeComplete s | .wakeLate s | .wakeFail s | .napEntry s | .napExit s
  | .slicePowerDown s | .slicePowerUp s | .napRequest s | .offRequest s | .autoRequest s | .prsKbDataWrite s _
  | .queueRecordWrite s _ | .groupShaperWrite s _ | .gateGo s _ | .meterProfileWrite s _ | .registerFileRetention s => s < 64
  | .programFreed p => p < 4096
  | .tcamShadowCheck b | .tcamDiagSearchDone b | .tcamDiagSearch b _ => b < 64
  | .faultEvent e => e.wf
  | .windowExpiry k => k < 24
  | .epochReport u e | .drained u e => u < 72 && e < 8
  | .sliceAdopt u => u < 72
  | .settleComplete g => g < 64
  | .verDrainDone p r | .tblChange p r _ | .tblCommit p r | .tblAbort p r | .verDrain p r | .editLoad p r _ _
  | .editRetire p r | .ctrRead p r | .ctrReadDone p r | .nop p r | .pktSend p r | .pktSendFrameRead p r _ | .dmaFault p r _ _ =>
    RingKind.wf .command p r
  | .descriptorFetch p r w => RingKind.wf .command p r && w.length == 8
  | .doorbell p r t => RingKind.wf .command p r && t < 2 ^ 32
  | .ringEnable k p r n => k.wf p r && n < 32
  | .ringDisable k p r | .irqTimer p r k | .irqWrite k p r _ | .eventDropsRead k p r => k.wf p r
  | .eventHeadWrite k p r h => k.wf p r && h < 2 ^ 32
  | .transitionEnd p | .quiesced p | .resetDone p | .drainUsExpiry p | .resetSlow p | .purgeDone p | .saveDone p _ | .foldDone p
  | .syncBatchCommit p | .create p | .delete p | .quiesce p | .reset p | .start p | .freeze p | .save p | .restore p _ | .thaw p
  | .setMode p _ | .resync p | .partitionCreditRefill p => p < 4096
  | .restoreDone p o => p < 4096 && o < 16
  | .numberGrant v | .replicationAck v _ | .cutOver v => v < 2 ^ 32
  | .replicatedCommit v p _ _ => v < 2 ^ 32 && p < 4096
  | .syncRecord r => r.part < 4096
  | .hello _ w | .cslRetrainDone w => w = 4 || w = 8 || w = 0
  | .loopEvaluation i _ | .loopRestore i => i < 6
  | .thresholdFiring j | .sampleFrame j _ _ => j < 64
  | .prbsEnable l _ _ | .prbsCheckerLock l | .prbsLockLoss l => l.wf
  | .powerOnReset _ _ _ s => s < 4
  | .bootImageReadDone c _ => c < 3
  | .hbmTrainingDone l f => f < 256 && l.all (fun x => x.1 < 8 && x.2.1 < 64 && x.2.2 < 37)
  | .supplyExcursion r _ => r ≤ 16
  | .refclkLoss c | .refclkRestored c => c.wf
  | .registerWrite bar n _ _ | .registerReadLatch bar n _ => bar < 6 && 1 ≤ n.size
  | .headerWindowRelease _ | .verify _ | .frameTail _ _ _ | .verdictArrival _ | .txFrameEnd _ | .sporeDelivery _
  | .timeAdjustApply | .ppsOutPulse | .ppsInCapture _ | .editLoadDone | .aliveToggle | .aonWdogKick | .aonWdog | .crustActive
  | .crustExitComplete _ | .versionAssign | .tagResolveAck | .switchComplete | .commitCreditRefill | .drainSlow
  | .numberRequest | .trainingTimeout | .heartbeatSend | .heartbeat _ | .heartbeatTimeout | .twinAliveLoss | .flitRetry _
  | .detachMessage _ | .detachAck | .detachTimeout | .xferDone _ _ _ _ | .sleepEntryDone | .sleepExitDone | .limWdog
  | .controllerRestart | .snapshot | .dumpDone | .firmwareStart _ | .onDieFillDone | .loadsDone _ _ _
  | .clusterReleaseDone _ | .bootTimeout | .recoveryReadDone _ | .systemReset | .linkReset | .functionLevelReset
  | .smbusTransaction _ _ _ | .tickRealign | .jtagInstruction _ | .timeStep _ | .timeIncrWrite _ | .timeRead _ | .fltAck _
  | .fltStatusClear _ | .fltInj _ | .fltUnfence _ | .crustExit | .ownershipWrite _ _ | .rangeWrite _ _ | .attach | .detach
  | .xfer | .sleepRequest | .runRequest | .snapshotRequest | .perfValWrite _ | .perfValRead | .perfDump _
  | .thresholdEntryWrite _ | .perfDropsRead | .vectorRangeWrite _ | .bootReset _ | .recoveryGo _ | .twinAliveEdge
  | .pcieLinkUp _ _ => true

end Sys2Proof
end

