-- ==== Sys2Proof/Safety.lean ====
section
/-! DEFINITION. The terms in which claims speak of states: when a command ends plainly, when a page answers, when
device time is a time, and what two states share. -/
namespace Sys2Proof.Machine

/-- Nothing is owed beside the command itself: no system reset has been asked for and not carried out, and no detach of
the twin has been acknowledged by the partner. -/
def Calm (s : State) : Prop := s.dev.resetReq = false ∧ s.dev.tw.acked = false

/-- The pages of a block answer accesses: the device has power, start-up has brought the page up and its slice has power
(R36, R47, R377), the block is not in soft reset (R42), and its slice's register file is awake (R36). -/
def Open (d : Dev) (b : Blk) : Prop :=
  powered d = true ∧ pageLive d b = true ∧ (blkSt d b).softReset = false
    ∧ (b.kind.info.level = .slice → slcState d (blkUnit b) ≠ 2)

/-- A register has its place in a page of its block. -/
def Spot (b : Blk) (sub : Nat) (r : Reg) (i : Nat) : Prop :=
  b.inst < b.kind.count ∧ sub < b.kind.info.span ∧ (regInfo r).off + (regInfo r).stride * i < 0x1000
    ∧ findReg b.kind sub (((regInfo r).off + (regInfo r).stride * i) / 8 * 8) = some (r, i)
    ∧ ((regInfo r).off + (regInfo r).stride * i) % 8 = 0

/-- Registers whose write does more than store what it leaves in the register: it acts, it may be refused, or it goes to
the place that an index register names. Of the other registers a write changes the register alone (Table 2.12). -/
def writeActs : Reg → Bool
  | .ctrl | .errStatus | .errFlipC | .protLast | .scrubLapLimit | .protInj | .scrubCtrl => true
  | .pwrCtrl | .timStep | .timIncr | .fltStatus | .fltAck | .fltCrustCtrl | .fltInj | .fltUnfence | .fltCrustData => true
  | .bootReset | .bootRecAddr | .bootRecCtrl | .pciVecData | .limLoopCtrl | .commitStall | .commitStallTime | .cmtCount => true
  | .cslCmd | .cslPreplData | .cslRetry | .cslReplDrop => true
  | .perfSnap | .perfDumpCtrl | .perfThrCtr | .perfThrCfg | .perfVal => true
  | .partCmd | .partPasid | .partReset | .partBudget | .partRings | .partHost | .partRangeAct | .partRangeGrp => true
  | .partRangeMbr | .partRangeCtr | .partRangePrg | .partRangeMcg | .partPortData | .partQownData => true
  | .sdsPrbsGen | .sdsPrbsChk | .sdsPrbsCtl | .sdsPrbsErr | .sdsPrbsBits => true
  | .cslPrbsGen | .cslPrbsChk | .cslPrbsCtl | .cslPrbsErr | .cslPrbsBits => true
  | .pciPrbsGen | .pciPrbsChk | .pciPrbsCtl | .pciPrbsErr | .pciPrbsBits => true
  | .d2dPrbsGen | .d2dPrbsChk | .d2dPrbsCtl | .d2dPrbsErr | .d2dPrbsBits => true
  | .hbmRegion | .hbmRaw | .hbmTrainCtrl | .bpmSpillCfg | .bpmReplFence | .bpmLimData | .bpmQData | .bpmMcgData => true
  | .bpmMclData | .bpmMirData | .bpmSmpData | .exmFlowCfg | .exmDirData | .exmChainData | .exmWgtData => true
  | .tcmCfg | .tcmSrchCtrl | .fdhFlush | .fdhPstatData => true
  | .slcPwr | .slcWakes | .slcDozeClk | .macCfg | .prsCfg | .prsPselB | .prsKbData | .schPort | .schQData | .schGData | .schPfcThData => true
  | .mtrProf | .mtrCnt | .schGateEntry | .schGateCycle | .schGateBaseS | .schGateBaseNs | .schGateCtrl => true
  | _ => false

/-- Registers whose read does more than return what they hold, beside reading the words of protected memories that they
show. -/
def readActs : Reg → Bool
  | .macTxtsA | .timNowNs | .timPpsCapNs | .perfVal | .perfSmpStat | .limLogData | .exmChainData | .prsKbData => true
  | .edtStoreData | .violationCount | .protCnt => true
  | r => prbsCounter r

/-- What a register holds after a permitted 64-bit write, by the access codes of its fields (Table 2.12). -/
def written (s : State) (b : Blk) (r : Reg) (w : Nat) (i : Nat := 0) : Nat :=
  mergeWrite s.dev b (regSub r) r .whole (regView s.tim s.dev b (regSub r) r i) w

/-- The same after a permitted write of bits 63:32. -/
def writtenHigh (s : State) (b : Blk) (r : Reg) (w : Nat) (i : Nat := 0) : Nat :=
  mergeWrite s.dev b (regSub r) r .high (regView s.tim s.dev b (regSub r) r i) ((w % 2 ^ 32) <<< 32)

/-- The state in which a command leaves the machine whose effect on the device is `d`: the ports are served anew (R206),
and the queue and device time are as they were. -/
def done (s : State) (d : Dev) : State := { s with dev := settleSched s.tim d }

/-- Where a schedulers' page holds its armed flip. -/
def flipSlot (n page : Nat) : Nat := regOff ⟨.sch, n⟩ page .errFlipC 0 / 8

/-- `e` is `d` with the ports served anew (R206): other finish times and the heads that they are for; in the schedulers'
records whose finish times changed, the marks of words newly written (R254), and, where a flip is armed for such a word,
what it leaves in ERR_FLIP_C and PROT_INJ and the free value that it may take (R260); nothing else. -/
def Served (d e : Dev) : Prop :=
  e = { setFp d { d.fp with wf := e.fp.wf, heads := e.fp.heads } with
        regs := e.regs, mem := e.mem, marks := e.marks, free := e.free }
  ∧ (∀ b sub r i, (∀ n < 64, ∀ j < 8, regOff b sub r i / 8 ≠ flipSlot n j) → rdAt e b sub r i = rdAt d b sub r i)
  ∧ (∀ m i j x, (∀ n < 64, ∀ k < 2, ∀ r, memKey m i j ≠ memKey .prot 0 (pregIx ⟨.sch, n⟩ k r)) → memGetD e m i j x = memGetD d m i j x)
  ∧ (∀ b m w, (∀ n < 64, ∀ k < 2, ∀ v < 2 ^ 32, markKey b m w ≠ markKey ⟨.sch, n⟩ k v) → mark e b m w = mark d b m w)
  ∧ ((∀ n < 64, ∀ m < 2, armedPage d ⟨.sch, n⟩ m = none) → e.regs = d.regs ∧ e.mem = d.mem ∧ e.free = d.free)

/-- A command with the effect `d` on the device leaves `t`: device time and the queue are as they were, and the ports are
served anew. -/
def Leaves (s t : State) (d : Dev) : Prop := t.tim = s.tim ∧ t.pending = s.pending ∧ Served d t.dev

/-- Something is owed that a command does not leave behind: a system reset that was asked for (R379), or the end of a detach
that both devices have acknowledged (R320). -/
def owes (s : State) : Bool :=
  s.dev.resetReq || (twinIn s.dev [5] && s.dev.tw.acked && !s.dev.tw.leaving)

/-- Device time is a time: the fraction and the nanoseconds do not overflow, and seconds have 48 bits (R217). -/
def legalTime (x : DTime) : Prop := x.sec < 2 ^ 48 ∧ x.ns < 1000000000 ∧ x.frac < 2 ^ 32

/-- Charges of a meter, each a length, an incoming colour and a tick, that come in the order of their ticks. -/
def inTickOrder (t : Nat) : List (Nat × Nat × Nat) → Prop
  | [] => True
  | e :: l => t ≤ e.2.2 ∧ inTickOrder e.2.2 l

/-- What such charges let pass as green, in units of the buckets (R214). -/
def greenUnits (x : Meter) : List (Nat × Nat × Nat) → Nat
  | [] => 0
  | e :: l => (if (meterCharge x e.1 e.2.1 e.2.2).1 = 1 then e.1 * unitsPerByte else 0)
      + greenUnits (meterCharge x e.1 e.2.1 e.2.2).2 l

end Sys2Proof.Machine
end

