-- ==== Sys2Proof/Certificates/Slice0/Obligations.lean ====
section
/-! DEFINITION. The statements for the provers: each says what the model's commands do by the rules of spec/ that it names. -/
open Sys2Proof Sys2Proof.Machine

/-- A step takes the command at the front of the queue, and runs it with the rest of the queue; without one, one tick of the
slice clock passes (the model's choice, log entry 1), which without power changes nothing. -/
def Obligations.StepRunsTheFrontCommand : Prop :=
  (∀ (c : Instr) (rest : List Instr) (s : State), step { s with pending := c :: rest } = exec c { s with pending := rest })
  ∧ (∀ s : State, s.pending = [] → step s = .next (idle s)
    ∧ (powered s.dev = false → step s = .next s)
    ∧ (powered s.dev = true → bootStep s.dev ≤ 1 → step s = .next { s with tim := { s.tim with
        tick := s.tim.tick + 1, hist := [(s.tim.tick + 1, dtNum s.tim.now, s.tim.incr)] } }))

/-- The machine after reset: no command waits, device time is zero (R217), every register reads its reset value (R379), a
block is ON exactly where it is fixed-on (R43), nothing is owed, and every sparse store is empty. -/
def Obligations.ResetStateIsTheTables : Prop :=
  State.reset.pending = [] ∧ legalTime State.reset.tim.now ∧ owes State.reset = false
  ∧ (∀ b sub r i, rdAt State.reset.dev b sub r i = resetValue false b sub r i % 2 ^ 64)
  ∧ (∀ b, isOn State.reset.dev b = b.kind.info.fixed)
  ∧ (∀ p, (part State.reset.dev p).st = if p = 0 then 1 else 0)
  ∧ State.reset.dev.fp.frames = [] ∧ State.reset.dev.entries = [] ∧ State.reset.dev.rings = [] ∧ twinState State.reset.dev = 0

/-- Units are numbered by division (R8): lane n lies in slice n div 16, at position n mod 16 within it, and slice s in
cluster s div 8, at position s mod 8 within it: its pages lie in that cluster's part of BAR0, and its lanes are the
cluster's. -/
def Obligations.UnitsAreNumbered : Prop :=
  (∀ n, n < 1024 → portSlice n = n / 16 ∧ portSlice n < 64 ∧ n = 16 * portSlice n + n % 16)
  ∧ (∀ s, s < 64 → s / 8 < 8 ∧ regionBase .slice s = regionBase .cluster (s / 8) + 0x200000 + s % 8 * 0x40000
    ∧ ∀ n, n < 1024 → portSlice n = s → portCluster n = s / 8)

/-- Every command completes: it leaves a next state, and the commands that wait behind it as they were. -/
def Obligations.EveryCommandCompletes : Prop :=
  ∀ (c : Instr) (s : State), ∃ t, exec c s = .next t ∧ t.pending = s.pending

/-- Device time and its increment change only as time passes, at TIME_ADJUST_APPLY and at a reset: any other command leaves
them, or carries out a system reset, which keeps the count of ticks (R217, R379). What rests on the model's choices is that
of log entry 4. -/
def Obligations.OnlyTheseCommandsChangeTime : Prop :=
  ∀ (c : Instr) (s t : State), exec c s = .next t → c ≠ .timeAdjustApply → (∀ a b r n, c ≠ .powerOnReset a b r n) →
    t.tim = s.tim ∨ t.tim = timeReset s.tim

/-- Device time stays a time (R217): seconds of 48 bits, nanoseconds below 1,000,000,000 and a fraction of 32 bits, after
every step from every state in which it is one. -/
def Obligations.DeviceTimeStaysLegal : Prop :=
  ∀ s t : State, legalTime s.tim.now → step s = .next t → legalTime t.tim.now

/-- Nothing is left owed (R320, R379): after every step from a state that owes nothing, a system reset that was asked for
has been carried out, and a detach that both devices acknowledged has ended. -/
def Obligations.EveryStepLeavesNothingOwed : Prop :=
  ∀ s t : State, owes s = false → step s = .next t → owes t = false

/-- How a command ends (R206, R320, R379): when its effect `d` asks for no reset and no detach is acknowledged, the command
leaves `d` with the ports served anew, and that changes finish times alone, with the marks of the schedulers' words that are
newly written and the flips armed for such words. -/
def Obligations.SettlingChangesFinishTimesAlone : Prop :=
  ∀ (s : State) (d : Dev), d.resetReq = false → d.tw.acked = false →
    settled s d = done s d ∧ Leaves s (settled s d) d

/-- A write acts on each field of a register by that field's access code (Table 2.12): RW and WO take what is written; RWL
does while the page is not locked; a 1 clears a W1C bit and sets a W1S bit; RO and RC keep what they read. What rests on the
model's choices is that of log entry 20. -/
def Obligations.WritesFollowAccessCodes : Prop :=
  ∀ (s : State) (b : Blk) (r : Reg) (i w n : Nat) (f : Field), n < 64 → (definedBits b r).testBit n = true →
    f ∈ (regInfo r).fields → f.lo ≤ n → n ≤ f.hi →
    let old := (regView s.tim s.dev b (regSub r) r i).testBit n
    (written s b r w i).testBit n = match f.acc with
      | .rw => w.testBit n
      | .wo => w.testBit n
      | .rwl => if locked s.dev b (regSub r) then old else w.testBit n
      | .w1c => old && !w.testBit n
      | .w1s => old || w.testBit n
      | .ro => old
      | .rc => old

/-- Registers and sparse stores (R34): a register reads what was written to it and every other register as before; a store
keeps its canonical form, reads what was put at a key, and every other key as before. -/
def Obligations.StoresKeepTheirForm : Prop :=
  (∀ (d : Dev) (b b' : Blk) (sub sub' i i' v : Nat) (r r' : Reg),
    rdAt (wrAt d b sub r i v) b sub r i = v % 2 ^ 64
    ∧ (regOff b sub r i / 8 ≠ regOff b' sub' r' i' / 8 → rdAt (wrAt d b sub r i v) b' sub' r' i' = rdAt d b' sub' r' i'))
  ∧ (∀ (dflt : Nat → Nat) (m : SMap Nat) (k j v : Nat),
    SMap.get (dflt k) (SMap.set (dflt k) m k v) k = v
    ∧ (k ≠ j → SMap.get (dflt j) (SMap.set (dflt k) m k v) j = SMap.get (dflt j) m j)
    ∧ (SMap.wf dflt m = true → SMap.wf dflt (SMap.set (dflt k) m k v) = true))

/-- An access that meets several kinds of violation is counted once, as the first of UNIMPLEMENTED, UNALIGNED, RESERVED and
NOT_PERMITTED (R404), in its page, or in page 0 of the region when its page is unimplemented (R46), in BAR0 and, in the
window's count, in BAR2 (R45); the count keeps the kind and the address, and a read answers zero. An access covers what its
byte enables say: eight bytes, four, or a half of eight; any other enables are UNALIGNED. -/
def Obligations.ViolationsCountOnceByTheirFirstKind : Prop :=
  (∀ (s : State) (size addr be : Nat) (w : Word), powered s.dev = true →
    let off := (accessed size addr be).2
    let x := carried size addr be w.toNat
    (livePage s.dev off = none →
      exec (.registerWrite 0 ⟨size, be⟩ addr w) s = .next (settled s (violate s.tim s.dev (bar0Home off) 0 4 off))
      ∧ exec (.registerReadLatch 0 ⟨size, be⟩ addr) s = .next (settled s (answer (violate s.tim s.dev (bar0Home off) 0 4 off) 0)))
    ∧ (∀ b sub, livePage s.dev off = some (b, sub) →
      let d := wakeRegs s.dev b
      (accHalf (accessed size addr be).1 off = none →
        exec (.registerWrite 0 ⟨size, be⟩ addr w) s = .next (settled s (violate s.tim d b sub 1 off))
        ∧ exec (.registerReadLatch 0 ⟨size, be⟩ addr) s = .next (settled s (answer (violate s.tim d b sub 1 off) 0)))
      ∧ (∀ h, accHalf (accessed size addr be).1 off = some h → regAt d b sub off = none →
        exec (.registerWrite 0 ⟨size, be⟩ addr w) s = .next (settled s (violate s.tim d b sub 2 off))
        ∧ exec (.registerReadLatch 0 ⟨size, be⟩ addr) s = .next (settled s (answer (violate s.tim d b sub 2 off) 0)))
      ∧ (∀ h r i, accHalf (accessed size addr be).1 off = some h → regAt d b sub off = some (r, i) →
        (regWrite s.tim d b sub r i off h (if h = .high then (x % 2 ^ 32) <<< 32 else x) false = .no →
          exec (.registerWrite 0 ⟨size, be⟩ addr w) s = .next (settled s (violate s.tim d b sub 3 off)))
        ∧ (readDenied d b r = true →
          exec (.registerReadLatch 0 ⟨size, be⟩ addr) s = .next (settled s (answer (violate s.tim d b sub 3 off) 0))))))
  ∧ (∀ (s : State) (size addr be : Nat) (w : Word), powered s.dev = true →
    let off := (accessed size addr be).2
    let x := carried size addr be w.toNat
    let p := off / 0x10000 % 4096
    (winSpot s.dev p (off % 0x10000) = .absent →
      exec (.registerWrite 2 ⟨size, be⟩ addr w) s = .next (settled s (violateWin s.dev p 4 off))
      ∧ exec (.registerReadLatch 2 ⟨size, be⟩ addr) s = .next (settled s (answer (violateWin s.dev p 4 off) 0)))
    ∧ (winSpot s.dev p (off % 0x10000) ≠ .absent → accHalf (accessed size addr be).1 off = none →
      exec (.registerWrite 2 ⟨size, be⟩ addr w) s = .next (settled s (violateWin s.dev p 1 off))
      ∧ exec (.registerReadLatch 2 ⟨size, be⟩ addr) s = .next (settled s (answer (violateWin s.dev p 1 off) 0)))
    ∧ (∀ h, winSpot s.dev p (off % 0x10000) = .reserved → accHalf (accessed size addr be).1 off = some h →
      exec (.registerWrite 2 ⟨size, be⟩ addr w) s = .next (settled s (violateWin s.dev p 2 off))
      ∧ exec (.registerReadLatch 2 ⟨size, be⟩ addr) s = .next (settled s (answer (violateWin s.dev p 2 off) 0)))
    ∧ (∀ h k r y, winSpot s.dev p (off % 0x10000) = .ring k r y → accHalf (accessed size addr be).1 off = some h →
      ringWrite s.tim s.dev k p r y h (if h = .high then (x % 2 ^ 32) <<< 32 else x) = .no →
      exec (.registerWrite 2 ⟨size, be⟩ addr w) s = .next (settled s (violateWin s.dev p 3 off))))
  ∧ (∀ size addr be : Nat, (size = 8 → be ≠ 0xFF ∧ (addr % 8 = 0 → be ≠ 0x0F ∧ be ≠ 0xF0)) → (size = 4 → be ≠ 0x0F) →
    accHalf (accessed size addr be).1 (accessed size addr be).2 = none)
  ∧ (∀ (t : TimeState) (d : Dev) (b : Blk) (sub kind off : Nat), kind < 16 →
    fld (rdAt d b sub .violationCount 0) 31 0 < 2 ^ 32 - 2 →
    let v := rdAt (violate t d b sub kind off) b sub .violationCount 0
    fld v 63 60 = kind ∧ fld v 59 32 = off % 2 ^ 28 ∧ fld v 31 0 = fld (rdAt d b sub .violationCount 0) 31 0 + 1)

/-- The frame of a plain register write (R34), of every register that a write only stores: in every state with nothing owed,
a 64-bit write leaves the merge of its fields in the register, every other register as it was, and nothing else changed but
what serving the ports anew changes. What rests on the model's choices is that of log entries 19, 109 and 143. -/
def Obligations.PlainWritesChangeOneRegister : Prop :=
  ∀ (s t : State) (b : Blk) (r : Reg) (i : Nat) (w : Word), Calm s → Spot b (regSub r) r i → Open s.dev b →
    reservedNow s.dev b r = false → innerLane s.dev b = false → writeActs r = false →
    Half.whole.mask.land (accMask r (codeWrites (locked s.dev b (regSub r)))) ≠ 0 →
    exec (.registerWrite 0 ⟨8, 0xFF⟩ (regOff b (regSub r) r i) w) s = .next t →
    Leaves s t (wr s.dev b r (written s b r w.toNat i) i)
    ∧ rd t.dev b r i = written s b r w.toNat i % 2 ^ 64
    ∧ (∀ b' sub' r' i', regOff b (regSub r) r i / 8 ≠ regOff b' sub' r' i' / 8 → (∀ n < 64, ∀ j < 8, regOff b' sub' r' i' / 8 ≠ flipSlot n j) →
      rdAt t.dev b' sub' r' i' = rdAt s.dev b' sub' r' i')

/-- What small commands leave alone, in every state with nothing owed: the service of the ports apart (R206), only what the
row names differs after it. An opening gate changes nothing unless a head is too long for its window (R223). What rests on
the model's choices is that of log entry 32. -/
def Obligations.SmallCommandsChangeOneThing : Prop :=
  ∀ s t : State, Calm s →
    (∀ p, crustState s.dev ≠ 0 ∨ (∀ x ∈ portHeads s.dev p, tooLong s.tim s.dev x = false) →
      exec (.gateEntryChange p) s = .next t → Leaves s t s.dev)
    ∧ (∀ c k cl mv ma, c = Instr.hbmRefresh k ∨ c = .tickRealign ∨ c = .avsReadback cl mv ma →
      exec c s = .next t → Leaves s t s.dev)
    ∧ (∀ c p an lane k w, c = Instr.linkUp p an ∨ c = .linkDown p ∨ c = .prbsCheckerLock lane ∨ c = .wakeLate k
        ∨ c = .cslRetrainDone w ∨ c = .controllerRestart →
      exec c s = .next t → ∃ x, Leaves s t { s.dev with regs := x })
    ∧ (∀ p, exec (.gateListTakeover p) s = .next t → ∃ x, Leaves s t (setFp s.dev { s.dev.fp with gates := x }))
    ∧ (∀ p k, exec (.pauseExpiry p k) s = .next t → ∃ x, Leaves s t (setFp s.dev { s.dev.fp with pause := x }))
    ∧ (∀ p k, exec (.pfcWatchdogEnd p k) s = .next t → ∃ x, Leaves s t (setFp s.dev { s.dev.fp with deaf := x }))
    ∧ (∀ c, c = Instr.commitCreditRefill ∨ c = .tagResolveAck → exec c s = .next t → ∃ x, Leaves s t { s.dev with cmt := x })
    ∧ (∀ p, exec (.partitionCreditRefill p) s = .next t → ∃ x, Leaves s t { s.dev with parts := x })
    ∧ (exec .twinAliveEdge s = .next t → ∃ x, Leaves s t { s.dev with tw := x })
    ∧ (∀ c k, c = Instr.aonWdogKick ∨ c = .registerFileRetention k → exec c s = .next t → ∃ x, Leaves s t { s.dev with mem := x })
    ∧ (∀ b m w, exec (.eccWriteBack b m w) s = .next t → ∃ x, Leaves s t { s.dev with marks := x })

/-- A block that is fixed-on (R43): a write of ENABLE 0, or of SOFT_RESET 1, is counted as NOT_PERMITTED at CTRL and changes
nothing else; and a write of ENABLE 1 changes nothing. -/
def Obligations.FixedBlocksRefuseStopAndReset : Prop :=
  ∀ (s : State) (b : Blk) (sub : Nat), isFixed b = true → b.inst < b.kind.count → sub < b.kind.info.span → Open s.dev b →
    exec (.ctrlEnable b sub false) s = .next (settled s (violate s.tim s.dev b sub 3 (regOff b sub .ctrl 0)))
    ∧ (∀ en, exec (.ctrlSoftReset b sub en) s = .next (settled s (violate s.tim s.dev b sub 3 (regOff b sub .ctrl 0))))
    ∧ exec (.ctrlEnable b sub true) s = .next (settled s s.dev)

/-- A TCAM search (R101): of the entries that match, the one with the lowest PRIORITY wins, and of equal ones the one with
the lowest table index; MULTI_MATCH says that more than one matched. -/
def Obligations.TcamLowestPriorityWins : Prop :=
  ∀ (d : Dev) (v c tid p dir : Nat) (key : List Byte), tcamOn d c dir = true →
    let l := ((seen d v 4 c).filter (fun e => e.tid == tid && e.part == p && tcamMatch d e (keyWords key 10))).filter
      (fun e => !entryDead d e)
    let r := searchTcam d v c tid p dir key none
    (r.hit = none ↔ l = []) ∧ (r.multi = true ↔ 1 < l.length)
    ∧ (∀ e, r.hit = some e → e ∈ l ∧ ∀ f ∈ l, prioOf e < prioOf f ∨ (prioOf e = prioOf f ∧ e.place ≤ f.place))

/-- A lookup finds only entries of the frame's own partition (R77), that the version shows and that are in its cluster. What
rests on the model's choices is that of log entry 151. -/
def Obligations.LookupsStayInTheirPartition : Prop :=
  ∀ (d : Dev) (v c tid p dir : Nat) (key : List Byte) (six : Bool) (start : Option Nat) (e : Entry),
    (searchEm d v c tid p key).hit = some e ∨ (searchFlow d v c p key).hit = some e
      ∨ (searchLpm d v c tid p key six).hit = some e ∨ (searchTcam d v c tid p dir key start).hit = some e →
    e.part = p ∧ e.cluster = c ∧ visible d v e = true ∧ e ∈ d.entries

/-- A meter's green (R213, R214): however long the sequence of charges, the bytes that pass as green come to no more than
the committed bucket held at first and what CIR has added since; and after a charge no bucket is over its size. -/
def Obligations.GreenStaysWithinTheCommittedRate : Prop :=
  (∀ (x : Meter) (l : List (Nat × Nat × Nat)) (t : Nat), inTickOrder x.last l → x.last ≤ t → (∀ e ∈ l, e.2.2 ≤ t) →
    greenUnits x l ≤ x.tc + (t - x.last) * x.cir ∧ (x.tc ≤ x.cbs → greenUnits x l ≤ x.cbs + (t - x.last) * x.cir))
  ∧ (∀ (x : Meter) (len colour t : Nat), (meterCharge x len colour t).2.tc ≤ x.cbs ∧ (meterCharge x len colour t).2.tp ≤ x.pbs)

/-- The initial level of a fault (R269): an event whose class has a RAISE acts as one of the higher of its own level and
RAISE, where 4 to 7 act as 3, and no RAISE lowers it. What rests on the model's choices is that of log entry 112. -/
def Obligations.FaultLevelsTakeTheHigher : Prop :=
  ∀ (t : TimeState) (d : Dev) (e : FaultEv), e.level ≤ 4 →
    collect t d e = collect t d { e with level := max e.level (min 3 (rdF d fltBlk .fltRecD 2 0 e.cls)) }
    ∧ e.level ≤ max e.level (min 3 (rdF d fltBlk .fltRecD 2 0 e.cls))

/-- A frame's first bit reaches an ACTIVE slice (R17): it joins the elastic buffer with its ingress time, the port's
adjustment included, and nothing else changes. The header window of a frame is released (R48, R67, R129, R150): PA parses
it, and a parsed frame is discarded and counted while its partition quiesces (R295) or resets (R296); with its keys it goes
to the reorder buffer or past it, a full buffer discards it, and it goes on through prediction and the match chain; a frame
that PA drops waits for VE alone. What rests on the model's choices is that of log entry 91. -/
def Obligations.FramesEnterThePipeline : Prop :=
  (∀ (s : State) (port : Nat) (data : List Byte), Calm s → port < 1024 → halted s.dev = false → portWidth s.dev port ≠ 0 →
     isOn s.dev ⟨.mac, port⟩ = true → linkUp s.dev port = true → data ≠ [] → slcState s.dev (portSlice port) = 0 →
     exec (.rxFrameStart port data) s = .next (done s (setFp s.dev { s.dev.fp with
       next := s.dev.fp.next + 1
       frames := s.dev.fp.frames ++ [Frame.start (s.dev.fp.next + 1) port data
         (numDt (addPs (dtNum s.tim.now) (rdF s.dev ⟨.mac, port⟩ .macTsAdj 15 0)))] })))
  ∧ ((∀ (s : State) (fid : Nat) (f : Frame), frameOf s.dev fid = some f → windowShut s.dev f = false →
       let g := { f with sect := (parseFrame s.dev f).1 }
       (isOn s.dev ⟨.prs, portSlice f.port⟩ = true → exec (.headerWindowRelease fid) s
         = .next (settled s (parsedFrame s.tim (mapFrame (parseFrame s.dev f).2 f.fid (fun _ => g)) g)))
       ∧ (isOn s.dev ⟨.prs, portSlice f.port⟩ = false → exec (.headerWindowRelease fid) s
         = .next (settled s (killFrame s.tim (countPrs s.dev f 5 true) f.fid))))
     ∧ (∀ (t : TimeState) (d : Dev) (f : Frame), crustState d = 0 →
       let st := (part d (mPart f.sect)).st
       (st = 2 ∨ st = 3 → parsedFrame t d f = killFrame t (countSlc d f evPartQuiesce) f.fid)
       ∧ (st = 4 ∨ st = 5 → parsedFrame t d f = killFrame t (countSlc d f evPartResetDrop) f.fid)
       ∧ (st < 2 ∨ 5 < st →
         parsedFrame t d f = keyedFrame t d f (keyBuild d (portSlice f.port) (unitVersion d (portSlice f.port) % 8) f.sect f.bytes)))
     ∧ (∀ (t : TimeState) (d : Dev) (f : Frame) (k : Keys),
       let x := part d (mPart f.sect)
       let e := countPrs (readWords t d ⟨.prs, portSlice f.port⟩ 0 (kbWords (mProfile f.sect))).2 f 6 (k.ue && !mDrop f.sect)
       let g := { f with sect := k.sect, stage := 1, kb := t.tick, rob := x.mode || x.trans || portBuffered e f.port,
                         reorder := x.mode || x.trans, adTc := mTc f.sect }
       let e := mapFrame e f.fid (fun _ => g)
       let full := g.rob && (512 < robHeld e (portSlice f.port) none || portCap e (portCluster f.port) < robHeld e (portSlice f.port) (some f.port))
       (full = true → keyedFrame t d f k
         = killFrame t (mapFrame (countFdh e 10 (portCluster f.port) (mPart k.sect) 1) f.fid (fun f => { f with rob := false })) f.fid)
       ∧ (full = false → mDrop k.sect = true → keyedFrame t d f k = mapFrame e f.fid (fun f => { f with ready := true }))
       ∧ (full = false → mDrop k.sect = false →
         keyedFrame t d f k = matchFrame t (if x.mode && !x.trans then e else predict t e g) g k.keys)))

/-- A FLOW lookup returns to its frame, in the order of the cluster's queue (R86, R87, R90, R250): a miss leaves the result
that the chain had, a hit takes the entry's, an uncorrectable word on its way discards the frame as TABLE_UE, and while the
stack is not ON the chain's HBM_LKP_BUSY option decides. VE (R136, R137, R140): a frame that is due leaves the epoch and is
counted; its result may drop it; one that was launched with the image that its result selects is confirmed; any other is
admitted on its result, a launched one after it and its followers have been squashed. What rests on the model's choices is
that of log entries 69, 78, 79, 134 and 145. -/
def Obligations.FlowLookupsAndVerification : Prop :=
  (∀ (s : State) (c fid : Nat) (f : Frame), c < 8 → findFirst (fun x => x.1 == c) s.dev.fp.flow = some (c, fid) →
     let d := setFp s.dev { s.dev.fp with flow := eraseFirst (fun x => x.1 == c) s.dev.fp.flow }
     let v := epochVersion d (mEpoch f.sect)
     let r := searchFlow d v c (mPart f.sect) f.k0
     let h := resHurt s.tim d f.res r.bad
     frameOf d fid = some f → f.gone = false → f.hbm = true →
     (isOn d (stackFor d c) = false → exec (.flowLookupResult c) s
       = .next (settled s (complete s.tim (flowBusy d f f.res).2 fid (flowBusy d f f.res).1)))
     ∧ (isOn d (stackFor d c) = true →
       (h.1.drop = 3 ∧ f.res.drop ≠ 3 → exec (.flowLookupResult c) s = .next (settled s (complete s.tim h.2 fid h.1)))
       ∧ (h.1.drop ≠ 3 ∨ f.res.drop = 3 →
         (r.hit = none → exec (.flowLookupResult c) s = .next (settled s (complete s.tim h.2 fid f.res)))
         ∧ (∀ e, r.hit = some e → exec (.flowLookupResult c) s
             = .next (settled s (complete s.tim (flowRes s.tim h.2 v c (mLsHash f.sect) (mProfile f.sect) e).2 fid
                 (flowRes s.tim h.2 v c (mLsHash f.sect) (mProfile f.sect) e).1))))))
  ∧ ((∀ (s : State) (fid : Nat) (f : Frame), frameOf s.dev fid = some f → veEarly f = false →
       gated s.dev (portSlice f.port) = false →
       (mDrop f.past.sect = false → exec (.verify fid) s
         = .next (settled s (veDecide s.tim (veCount (mapFrame s.dev f.fid (fun _ => f.past)) f.past) f.past)))
       ∧ (mDrop f.past.sect = true → exec (.verify fid) s
         = .next (settled s (veDrop s.tim (mapFrame s.dev f.fid (fun _ => f.past)) f.past))))
     ∧ (∀ (t : TimeState) (d : Dev) (f : Frame),
       (f.res.drop ≠ 0 ∨ f.chg = 4 → veDecide t d f = if f.launch = 2 then cancel t d f else veDrop t d f)
       ∧ (f.res.drop = 0 → f.chg ≠ 4 → f.launch = 2 → f.pred = f.image → veDecide t d f = veConfirm t (sampleFrame t d f) f)
       ∧ (f.res.drop = 0 → f.chg ≠ 4 → f.launch ≠ 2 ∨ f.pred ≠ f.image → veDecide t d f = veAdmit t (sampleFrame t d f) f)))

/-- The cells, credits and flits that cross between slices (R21, R22, R23, R182 to R184, R188). A credit leaves those on
their way and lets waiting cells cross. A request is judged once: what the pool refuses is counted and answered with no,
unless replications go on with the transfer; what spills takes no cell of the pool; what fits takes one chain for the copy
and its replications. A pool's yes lets cells cross, and its no ends the transfer with its copy. A cell that arrives is
written to every chain that the transfer fills. A retry is counted at its link. What rests on the model's choices is that of
log entries 155 and 157. -/
def Obligations.CrossingsComplete : Prop :=
  ∀ s : State,
    (∀ src dst, src < 64 → dst < 64 → SMap.get 0 s.dev.fp.backs (src * 64 + dst) ≠ 0 →
      exec (.creditReturn src dst) s = .next (settled s (pumpVoq (setFp s.dev { s.dev.fp with
        backs := SMap.set 0 s.dev.fp.backs (src * 64 + dst) (SMap.get 0 s.dev.fp.backs (src * 64 + dst) - 1) }) src dst)))
    ∧ (∀ fid c x f, c < 8 → findFirst (fun x => x.fid == fid && x.dst / 8 == c && x.phase == 0) s.dev.fp.xfers = some x →
      frameOf s.dev fid = some f →
      let ask (d : Dev) (n : Nat) := mapXfer (poolAsk s.tim d c (poolPort c x.src) (n == 1)) x.id (fun x => { x with phase := n })
      let goes (d : Dev) := exec (.poolRequest fid c) s = .next (settled s d)
      (x.dead = true → goes (setFp s.dev { s.dev.fp with xfers := s.dev.fp.xfers.filter (fun y => y.id != x.id) }))
      ∧ (x.dead = false → x.cid.bind (copyOf s.dev) = none →
        goes (ask (chainForRepls s.dev f x c).2 (if (chainForRepls s.dev f x c).1 then 1 else 2)))
      ∧ (∀ y, x.dead = false → x.cid.bind (copyOf s.dev) = some y →
        let d := if y.kind = 5 then s.dev else askRecs s.tim s.dev y.queue y.part
        (∀ r, judgeFar d f y x.n = some r →
          let k := chainForRepls (countFar d f x y r) f x c
          (k.1 = false → goes (ask k.2 2))
          ∧ (k.1 = true → goes (ask (guardLeave (dropCopy s.tim (mapXfer k.2 x.id (fun x => { x with cid := none })) y.cid) fid) 1)))
        ∧ (judgeFar d f y x.n = none → y.kind ≠ 5 → spillBound d y.queue x.n = true →
          let e := setFp d { d.fp with copies := d.fp.copies.filter (fun z => z.cid != y.cid) }
          goes (ask (chainForRepls (mapCopy (spillCopy e y) y.cid (fun z => { z with st := 0 })) f x c).2 1))
        ∧ (judgeFar d f y x.n = none → y.kind = 5 ∨ spillBound d y.queue x.n = false →
          let k := newChain d c fid x.n (1 + (s.dev.fp.repls.filter (fun r => r.xfer == some x.id)).length) x.id
          let e := occWrite (mapCopy k.2 y.cid (fun z => { z with chain := k.1 })) y
          goes (ask (setFp e { e.fp with
            repls := mapIf (fun r => r.xfer == some x.id) (fun r => { r with chain := k.1 }) e.fp.repls }) 1))))
    ∧ (∀ fid c x f, c < 8 → findFirst (fun x => x.fid == fid && x.dst / 8 == c && (x.phase == 1 || x.phase == 2)) s.dev.fp.xfers = some x →
      frameOf s.dev fid = some f →
      (x.phase = 1 →
        let d := mapXfer s.dev x.id (fun x => { x with phase := 3 })
        let d := if x.launch && f.launch = 1 then mapFrame d fid (fun f => { f with launch := 2 }) else d
        let d := if f.tail then storeTail s.tim d fid else d
        exec (.poolGrant fid c) s = .next (settled s (settleFrame (endXfers (pumpVoq d x.src x.dst)) fid)))
      ∧ (x.phase = 2 →
        let d := match x.cid with
          | some cid => dropCopy s.tim s.dev cid
          | none => s.dev
        let d := match x.old with
          | some k => releaseChain d k
          | none => d
        let d := pumpVoq (setFp d { d.fp with xfers := d.fp.xfers.filter (fun y => y.id != x.id) }) x.src x.dst
        (x.launch = false → exec (.poolGrant fid c) s
          = .next (settled s (settleFrame (if x.cid.isSome then guardLeave d fid else d) fid)))
        ∧ (x.launch = true → f.launch ≠ 1 → exec (.poolGrant fid c) s = .next (settled s (settleFrame d fid)))
        ∧ (x.launch = true → f.launch = 1 → exec (.poolGrant fid c) s = .next (settled s (settleFrame (guardEnter s.tim (mapFrame
            (refuseLater s.tim (countFdh d 3 (portCluster f.port) (mPart f.sect) 1) f) fid (fun f => { f with launch := 0 })) fid) fid)))))
    ∧ (∀ src dst id x, src < 64 → dst < 64 → findFirst (fun x => x.1 == src && x.2.1 == dst) s.dev.fp.flight = some (src, dst, id) →
      let d := setFp s.dev { s.dev.fp with
        flight := eraseFirst (fun x => x.1 == src && x.2.1 == dst) s.dev.fp.flight
        backs := SMap.set 0 s.dev.fp.backs (src * 64 + dst) (SMap.get 0 s.dev.fp.backs (src * 64 + dst) + 1) }
      xferOf d id = some x →
      let d1 := mapXfer d id (fun x => { x with arrived := x.arrived + 1 })
      let d2 := (d1.fp.chains.filter (fun k => k.xfer == id)).foldl (fun d k => fillChain d k.id 1) d1
      (x.dead = true → exec (.d2dCellArrival src dst) s = .next (settled s (endXfers d1)))
      ∧ (x.dead = false → exec (.d2dCellArrival src dst) s = .next (settled s (settleFrame (endXfers
        (match x.cid with
        | some cid => if x.arrived = 0 then arriveCopy s.tim d2 cid else d2
        | none => d2)) x.fid))))
    ∧ (∀ l, l < 56 → isOn s.dev ⟨.d2d, l⟩ = true →
      exec (.d2dRetry l) s = .next (settled s (countN s.dev (Ev.plain .d2d 0) l 0 0 0 1)))

/-- SC grants (R199, R206): with SCH ON in an ACTIVE slice, what is void or can never fit goes first, and then the copy that
the hierarchy chooses is granted, unless it has aged: then it is discarded, and the next one is looked at; when nothing is
chosen, nothing is granted. Tails and verdicts (R137, R139, R144, R145, R179, R228, R394): a runt is counted and forgotten;
the tail of a frame is counted with its bytes, a MAC control frame is consumed, a frame over the MTU that has not left is
discarded, and any other is stored; copies that leave while it arrives end with it; a verdict takes effect in its egress
slice; and the end of a granted copy sends it, and drops it, unless its verdict is still to come: then it is stomped and
waits, an error. What rests on the model's choices is that of log entries 83, 84, 85, 86, 90, 91 and 158. -/
def Obligations.GrantsTailsAndVerdictsComplete : Prop :=
  (∀ (s : State) (port : Nat), port < 1024 → isOn s.dev ⟨.sch, portSlice port⟩ = true → slcState s.dev (portSlice port) = 0 →
     let look (d : Dev) := if crustState d = 0 then groom s.tim d port else purgeVoids d
     let old (d : Dev) (x : Copy) := decide (x.kind ≤ 2) && agedHead s.tim d x
     let d := look s.dev
     let goes (d : Dev) := exec (.scGrant port) s = .next (settled s d)
     (choose s.tim d port = none → goes d)
     ∧ (∀ x close e, choose s.tim d port = some (x, close, e) →
       (old d x = false → goes (settleFrame (grantCopy s.tim e x.cid close) x.fid))
       ∧ (old d x = true → mayAge s.tim d port = false → goes d)
       ∧ (old d x = true → mayAge s.tim d port = true →
         let d := look (ageOut s.tim d port x)
         (choose s.tim d port = none → goes d)
         ∧ (∀ y close e, choose s.tim d port = some (y, close, e) →
           (old d y = true → goes d) ∧ (old d y = false → goes (settleFrame (grantCopy s.tim e y.cid close) y.fid))))))
  ∧ ((∀ (s : State) (fid : Nat) (f : Frame) (a b : Bool), frameOf s.dev fid = some f → f.tail = false →
       let e := frameTail s.tim s.dev fid a b
       (frameOf e fid = none → exec (.frameTail fid a b) s = .next (settled s e))
       ∧ (∀ g, frameOf e fid = some g → g.tail = true → exec (.frameTail fid a b) s = .next (settled s (settleFrame
           ((e.fp.copies.filter (fun x => x.fid == fid && (match x.grant with
             | some g => g.cut && !g.done && !g.drop
             | none => false))).foldl (tailCopy s.tim g) e) fid)))
       ∧ (f.len < 64 → e = setFp (countN s.dev (Ev.plain .mac 3) f.port 0 0 0 1)
           { s.dev.fp with frames := s.dev.fp.frames.filter (fun x => x.fid != fid) })
       ∧ (64 ≤ f.len →
         let long := decide (portMtu s.dev f.port < f.len)
         let d := mapFrame (tailCount s.dev f a b) fid (fun f => { f with tail := true, bad := !a || !b || long, fcsBad := !a })
         let d := if f.stage = 2 && !mDrop f.sect && mLenSrc f.sect ≠ 0 then countHits d f 0 f.len else d
         (f.control = true → e = tailControl s.tim d f (a && b && !long))
         ∧ (f.control = false → long = true → cutOut s.dev fid = false → e = goOn s.tim (killFrame s.tim d fid) f)
         ∧ (f.control = false → long = false ∨ cutOut s.dev fid = true → e = tailStore s.tim d fid)))
     ∧ (∀ (s : State) (fid : Nat) (f : Frame), frameOf s.dev fid = some f → f.verdict ≠ 0 →
       exec (.verdictArrival fid) s = .next (settled s (goOn s.tim (settleFrame (applyVerdict s.tim s.dev fid f.verdict) fid) f)))
     ∧ (∀ (s : State) (cid : Nat) (x : Copy) (g : Grant) (f : Frame), copyOf s.dev cid = some x → frameOf s.dev x.fid = some f →
       x.grant = some g → x.st = 2 → g.done = false → g.drop = false → f.tail = true → begun s.tim s.dev x g = true →
       let port := copyPort s.dev x
       let e := emit s.dev x f g (g.stomp || f.bad || !x.verified)
       let d := if overrun e x then countN (errFault s.tim e ⟨.sch, portSlice port⟩ 2 20 0 0) (Ev.plain .sch 3) (portSlice port)
           (ixSpc port (copyTc e x)) 0 0 1 else e
       (x.verified = true ∨ (x.refAt = none ∧ x.kind ≠ 5) →
         exec (.txFrameEnd cid) s = .next (settled s (settleFrame (dropCopy s.tim d cid) x.fid)))
       ∧ (x.verified = false → x.refAt ≠ none ∨ x.kind = 5 →
         let c := portCluster f.port
         let d := countFdh (errFault s.tim d (fdhBlk c) 2 19 0 0) 9 c (mPart f.sect) 1
         let d := match x.refAt with
           | some k => dropRef s.tim d k x.prog
           | none => d
         exec (.txFrameEnd cid) s = .next (settled s (mapCopy d cid (fun y => { y with refAt := none, grant := some { g with done := true } }))))))

/-- The spill engine and the host copies (R188, R190, R195 to R197, R200, R202, R240, R244, R287, R288): a staged block is
written word by word and counted; the next block of a queue that has room is read back, from staging while it is open, and
after its write when one is queued; a read that returns restores its copies; a token joins the cluster's bucket of at most
16; an audit pass returns what leaked; copies for the host leave once their frame's tail is in, a host copy only while
PART_HOST.EN is 1; and the replication engine makes its copies once the chain is there. What rests on the model's choices is
that of log entries 82, 93, 95, 145 and 155. -/
def Obligations.SpillAndDeliveryComplete : Prop :=
  ∀ s : State,
    (∀ q b, q < 1048576 → findFirst (fun b => b.queue == q && b.st == 0) s.dev.fp.blocks = some b →
      let h := stackFor s.dev (queueCluster q)
      2 ≤ (blkSt s.dev h).cur →
      let r := readBlock s.tim s.dev b
      let d := (upto 0 b.words).foldl (fun d w => writeWord d h 1 (512 * b.id + w)) (hurtCopies s.tim r.2 b r.1)
      exec (.spillBlockFlush q) s = .next (settled s (countN (mapBlock d q b.id (fun b => { b with st := 1, shut := true }))
        (Ev.plain .hbm 2) h.inst 0 0 0 1)))
    ∧ (∀ q b, q < 1048576 → findFirst (fun b => b.queue == q && b.st ≤ 1) s.dev.fp.blocks = some b →
      let c := queueCluster q
      let h := stackFor s.dev c
      queueCells s.dev q < rdF s.dev ⟨.bpm, c⟩ .bpmSpillCfg 47 32 →
      b.isRec = true ∨ 16 ≤ poolFree s.dev c - poolRsv s.dev c - tailRsv s.dev c →
      countIf (fun b => b.queue == q && b.st == 2) s.dev.fp.blocks < 4 → b.isOpen = true ∨ 2 ≤ (blkSt s.dev h).cur →
      let p := poolAsk s.tim s.dev c 61 true
      let d := if b.isRec then s.dev
        else setFp p { p.fp with chains := p.fp.chains ++ [⟨readChain q b.id, c, 0, [], 16, 1, 0, true⟩] }
      (b.isOpen = true → exec (.spillReadBack q) s = .next (settled s (blockBack s.tim d b)))
      ∧ (b.isOpen = false →
        let d := if b.st = 0 then countN (spillFlush s.tim d q) (Ev.plain .hbm 0) h.inst 0 0 0 1 else d
        exec (.spillReadBack q) s = .next (settled s (countN (mapBlock d q b.id (fun b => { b with st := 2 }))
          (Ev.plain .hbm 3) h.inst 0 0 0 1))))
    ∧ (∀ q b, q < 1048576 → findFirst (fun b => b.queue == q && b.st == 2) s.dev.fp.blocks = some b →
      exec (.spillBlockReturn q) s = .next (settled s (reapFrames (blockBack s.tim s.dev b))))
    ∧ (∀ c, c < 8 → wrCap s.dev c ≠ 0 →
      exec (.spillTokenRefill c) s = .next (settled s (setTokens s.dev c (min 16 (tokens s.dev c + 1)))))
    ∧ (∀ c us, c < 8 → isOn s.dev ⟨.bpm, c⟩ = true → bit (rd s.dev ⟨.bpm, c⟩ .bpmCfg) 48 = true →
      let b : Blk := ⟨.bpm, c⟩
      let up := s.dev.fp.leaks.map (fun x => if x.1 = c then (x.1, x.2.1, x.2.2 + 1) else x)
      let back := up.filter (fun x => x.1 == c && 2 ≤ x.2.2)
      let d := setFp s.dev { s.dev.fp with leaks := up.filter (fun x => !(x.1 == c && 2 ≤ x.2.2)) }
      let d := back.foldl (fun d x => setMark d b 1 x.2.1 0) d
      let n := satAdd (2 ^ 32 - 1) (rdF d b .bpmAudit 31 0) back.length
      let d := auditCounts (wr d b .bpmAudit ((us % 2 ^ 32) <<< 32 + n)) c
      exec (.auditPassEnd c us) s = .next (settled s (back.foldl (fun d x => errFault s.tim d b 0 6 1 x.2.1) d)))
    ∧ (∀ cid x f, copyOf s.dev cid = some x → frameOf s.dev x.fid = some f → x.kind = 4 → f.tail = true →
      exec (.sporeDelivery cid) s = .next (settled s (deliver s.tim s.dev x f
        (f.bytes.take (min (64 * (x.info.getD 3 0 + 1)) f.len)) (min (64 * (x.info.getD 3 0 + 1)) f.len))))
    ∧ (∀ p c x f, p < 4096 → c < 8 → findFirst (fun x => x.kind == 3 && x.part == p && x.cluster == c) s.dev.fp.copies = some x →
      frameOf s.dev x.fid = some f → f.tail = true →
      (bit (part s.dev p).host 4 = true → exec (.hostCopyDelivery p c) s
        = .next (settled s (deliver s.tim s.dev { x with info := x.info.set 2 (fld (part s.dev p).host 3 0) } f f.bytes 0)))
      ∧ (bit (part s.dev p).host 4 = false → exec (.hostCopyDelivery p c) s
        = .next (settled s (killCopy s.tim (countCopy s.dev 0 x) x.cid))))
    ∧ (∀ fid c r f, c < 8 → findFirst (fun r => r.fid == fid && r.cluster == c) s.dev.fp.repls = some r →
      frameOf s.dev fid = some f → r.chain ≠ 0 →
      (r.xfer = none ∨ ∃ x y, r.xfer = some x ∧ xferOf s.dev x = some y ∧ y.phase = 3 ∧ 0 < y.arrived) →
      let d := setFp s.dev { s.dev.fp with
        repls := eraseFirst (fun x => x == r) s.dev.fp.repls
        engine := s.dev.fp.engine.filter (fun e => s.tim.tick < e.2) }
      let busy := d.fp.engine.filter (fun e => e.1 == c)
      (4096 ≤ busy.length → exec (.replChainArrival fid c) s = .next (settled s
        (settleFrame (releaseChain (countN d evReplFull c 0 c (mPart f.sect) 1) r.chain) fid)))
      ∧ (busy.length < 4096 →
        let d := (readSpan s.tim d ⟨.bpm, c⟩ 4 (65536 + r.base) r.len).2
        let l := replTargets d r f.port
        let d := setFp d { d.fp with
          engine := d.fp.engine ++ [(c, busy.foldl (fun a e => max a e.2) s.tim.tick + ceilDiv l.length 2)] }
        let made := l.foldl (makeCopy s.tim f f.image c) (some r.chain, d)
        let e := if f.tail then storeTail s.tim made.2 fid else made.2
        exec (.replChainArrival fid c) s = .next (settled s (settleFrame (match made.1 with
          | some k => releaseChain e k
          | none => e) fid))))

/-- Gate lists (R220, R221, R223, R224). The move to the next entry discards each head that could start but for its gate and
does not fit the window that opens, counted as GATE_TOO_LONG; in Crust mode gates are not looked at; a pending list whose
instant has come takes over; a GO makes a good list pending, to take over 1 microsecond on; and the wake moment of a window
wakes a dozing slice whose port keeps that option and has frames, with cause 4. What rests on the model's choices is that of
log entry 23. -/
def Obligations.GateListsTakeOver : Prop :=
  (∀ (s : State) (port : Nat), port < 1024 →
    (crustState s.dev = 0 → exec (.gateEntryChange port) s = .next (settled s ((portHeads s.dev port).foldl (fun d x =>
      if eligibleButGate s.tim d x && tooLong s.tim d x then
        killCopy s.tim (unsetF (countN d (Ev.plain .sch 2) (portSlice port) (ixSpc port (copyTc d x)) 0 0 1) (qKey x.queue)) x.cid
      else d) s.dev)))
    ∧ (crustState s.dev ≠ 0 → exec (.gateEntryChange port) s = .next (settled s s.dev))
    ∧ (∀ y, takeoverAt s.dev port = some y → y ≤ dtNum s.tim.now → exec (.gateListTakeover port) s
        = .next (settled s (setGate s.dev port ⟨1 - (gateOf s.dev port).oper, (gateOf s.dev port).enable, none⟩)))
    ∧ (bit (rd s.dev ⟨.sch, portSlice port⟩ .schPort (port % 16)) 32 = true →
      s.dev.fp.copies.any (fun x => x.kind != 3 && x.kind != 4 && copyPort s.dev x == port && (x.st == 1 || x.st == 3)) = true →
      slcState s.dev (portSlice port) = 1 → memGet s.dev .slcWake 0 (portSlice port) = 0 →
      exec (.gateWake port) s = .next (settled s
        (memSet (wrF s.dev ⟨.slc, portSlice port⟩ .slcPwrStat 3 0 4) .slcWake 0 (portSlice port) 4))))
  ∧ (∀ (s : State) (slice : Nat) (w : Word), slice < 64 → Open s.dev ⟨.sch, slice⟩ → w.toNat / 2 ^ 63 = 1 →
    let port := gatePort s.dev slice
    (gateOf s.dev port).pend = none → listOk s.dev port (1 - (gateOf s.dev port).oper) = true →
    let d := setGate s.dev port ⟨(gateOf s.dev port).oper, w.toNat % 2 = 1, none⟩
    exec (.gateGo slice w) s = .next (settled s (setGate d port
      ⟨(gateOf s.dev port).oper, w.toNat % 2 = 1, some (dtNum s.tim.now + 1000 * 2 ^ 32)⟩)))

/-- Pauses (R225 to R228): a pause frame in 802.3x mode pauses every class for its quanta and is counted for each; the end
of an interval that is over ends the pause; a refresh repeats the frame for the classes in XOFF; a storm sets ERR bit 1 of
SCH, is reported as class 20 and counted, and with WD_ACT the class ignores pause frames until the watchdog's time ends.
What rests on the model's choices is that of log entries 91 and 103. -/
def Obligations.PausesComplete : Prop :=
  ∀ (s : State) (port : Nat), port < 1024 →
    (∀ en timers, pfcMode s.dev port = 1 → portWidth s.dev port ≠ 0 → isOn s.dev ⟨.mac, port⟩ = true → linkUp s.dev port = true →
      exec (.pfcFrame port 1 en timers) s = .next (settled s ((upto 0 8).foldl (fun d c =>
        pauseClass s.tim (countN d (Ev.plain .mac 12) port c 0 0 1) port c (timers.headD 0)) s.dev)))
    ∧ (∀ en timers, pfcMode s.dev port = 2 → portWidth s.dev port ≠ 0 → isOn s.dev ⟨.mac, port⟩ = true → linkUp s.dev port = true →
      crustState s.dev = 0 → exec (.pfcFrame port 0x0101 en timers) s = .next (settled s ((setBits en 8).foldl (fun d c =>
        let e := countN d (Ev.plain .mac 12) port c 0 0 1
        if bit (pfcReg e port) (8 + c) then pauseClass s.tim e port c (timers.getD c 0) else e) s.dev)))
    ∧ (∀ cls, cls < 8 → (paused s.tim s.dev port cls = false → exec (.pauseExpiry port cls) s = .next (settled s (setFp s.dev
        { s.dev.fp with pause := s.dev.fp.pause.filter (fun x => !(x.1 == port && x.2.1 == cls)) })))
      ∧ (paused s.tim s.dev port cls = true → exec (.pauseExpiry port cls) s = .next (settled s s.dev)))
    ∧ (xoffOf s.dev port ≠ [] → crustState s.dev = 0 → pfcMode s.dev port ≠ 0 → exec (.pfcRefresh port) s = .next (settled s
        (sendPause (wakeSlice s.dev (portSlice port) 5) port (xoffOf s.dev port) [])))
    ∧ (∀ cls, cls < 8 → fld (pfcReg s.dev port) 59 48 ≠ 0 → paused s.tim s.dev port cls = true →
      let d := countN (errFault s.tim s.dev ⟨.sch, portSlice port⟩ 1 20 0 0) (Ev.plain .mac 15) port cls 0 0 1
      (bit (pfcReg d port) 60 = false → exec (.pfcStorm port cls) s = .next (settled s d))
      ∧ (bit (pfcReg d port) 60 = true → (port, cls) ∉ d.fp.deaf → exec (.pfcStorm port cls) s
        = .next (settled s (setFp d { d.fp with deaf := (port, cls) :: d.fp.deaf }))))
    ∧ (∀ cls, cls < 8 → exec (.pfcWatchdogEnd port cls) s = .next (settled s (setFp s.dev { s.dev.fp with
        deaf := s.dev.fp.deaf.filter (fun x => x != (port, cls)) })))

/-- Ports (R392, R393, R396): a port that is ON comes up with its lanes locked and aligned, and keeps its count of
link-downs; going down counts one more and stops at 65535; a write of MAC_CFG on a port that is OFF keeps its width, or
gives it one that its lane number is a multiple of and whose lanes are all OFF: those lanes become its own, and those that
it leaves become ports of one lane; and a pop takes the oldest transmit timestamp of the port. What rests on the model's
choices is that of log entries 91 and 109. -/
def Obligations.PortsComeUpAndGoDown : Prop :=
  (∀ (s : State) (port : Nat), port < 1024 →
    (∀ an, isOn s.dev ⟨.mac, port⟩ = true → portWidth s.dev port ≠ 0 → bit (rd s.dev ⟨.mac, port⟩ .macStat) 63 = false →
      clocked s.dev (portCluster port) = true → slcState s.dev (portSlice port) ≤ 1 → halted s.dev = false →
      (part s.dev (memGet s.dev .partPort 0 port)).st ≠ 0 →
      exec (.linkUp port an) s = .next (settled s (wr s.dev ⟨.mac, port⟩ .macStat
        (7 <<< 61 + b2n (an && bit (rd s.dev ⟨.mac, port⟩ .macCfg) 54) <<< 60 + fld (rd s.dev ⟨.mac, port⟩ .macStat) 15 0))))
    ∧ (bit (rd s.dev ⟨.mac, port⟩ .macStat) 63 = true → exec (.linkDown port) s = .next (settled s
        (wr s.dev ⟨.mac, port⟩ .macStat (min 0xFFFF (fld (rd s.dev ⟨.mac, port⟩ .macStat) 15 0 + 1))))))
  ∧ (∀ (s : State) (lane : Nat) (w : Word), lane < 1024 → Open s.dev ⟨.mac, lane⟩ → portWidth s.dev lane ≠ 0 →
    (blkSt s.dev ⟨.mac, portOf s.dev lane⟩).cur = 0 →
    let v := written s ⟨.mac, lane⟩ .macCfg w.toNat
    let n := fld v 59 56
    let d := wr s.dev ⟨.mac, lane⟩ .macCfg (putFld (v.land (rwMask .macCfg)) 59 56 (portWidth s.dev lane))
    (n = portWidth s.dev lane → exec (.portWidthWrite lane w) s = .next (settled s d))
    ∧ (n ≠ portWidth s.dev lane → n = 1 ∨ n = 2 ∨ n = 4 ∨ n = 8 → lane % n = 0 →
      (∀ l ∈ upto lane n, (blkSt s.dev ⟨.mac, portOf s.dev l⟩).cur = 0) →
      let e := (upto (lane + n) (portWidth s.dev lane - n)).foldl (fun d l => wrF d ⟨.mac, l⟩ .macCfg 59 56 1) d
      exec (.portWidthWrite lane w) s = .next (settled s
        (wrF ((upto (lane + 1) (n - 1)).foldl (fun d l => wrF d ⟨.mac, l⟩ .macCfg 59 56 0) e) ⟨.mac, lane⟩ .macCfg 59 56 n))))
  ∧ (∀ (s : State) (lane : Nat) (e : Nat × List Nat), lane < 1024 → Open s.dev ⟨.mac, lane⟩ → innerLane s.dev ⟨.mac, lane⟩ = false →
    findFirst (fun e => e.1 == lane) s.dev.fp.txts = some e →
    exec (.txtsPop lane) s = .next (settled s (answer
      (wr (setFp s.dev { s.dev.fp with txts := eraseFirst (fun e => e.1 == lane) s.dev.fp.txts }) ⟨.mac, lane⟩ .macTxtsB (e.2.getD 1 0))
      (e.2.getD 0 0))))

/-- PRBS sets and JTAG (R400 to R402): enabling a checker of a free lane clears its lock, and enabling a generator stores
its register; a lock is taken where the checker runs; a loss counts one and keeps the loss; IDCODE sends the code, BYPASS,
and with it any private instruction, sends nothing, and an instruction that takes the pins leaves ALIVE unforced. What rests
on the model's choices is that of log entries 12 and 72. -/
def Obligations.PrbsAndJtag : Prop :=
  (∀ (s : State) (lane : PrbsLane) (w : Word) (b : Bool), prbsExists lane = true →
    let x := prbsSet lane
    let r := if b then x.chk else x.gen
    Open s.dev x.blk → prbsFree s.dev lane = true →
    let d := wr s.dev x.blk r ((mergeWrite s.dev x.blk (regSub r) r .whole (regView s.tim s.dev x.blk (regSub r) r x.ix) w.toNat).land (rwMask r)) x.ix
    exec (.prbsEnable lane b w) s = .next (settled s (if b then wrF d x.blk x.stat 63 63 0 x.ix else d)))
  ∧ (∀ (s : State) (lane : PrbsLane), prbsExists lane = true →
    let x := prbsSet lane
    (bit (rd s.dev x.blk x.chk x.ix) 63 = true → exec (.prbsCheckerLock lane) s = .next (settled s (wrF s.dev x.blk x.stat 63 63 1 x.ix)))
    ∧ (bit (rd s.dev x.blk x.stat x.ix) 63 = true →
      let d := prbsCounted s.dev lane
      exec (.prbsLockLoss lane) s = .next (settled s
        (wr d x.blk x.stat (2 ^ 62 + min 0xFFFF (fld (rd d x.blk x.stat x.ix) 15 0 + 1)) x.ix))))
  ∧ (∀ s : State, powered s.dev = true →
    exec (.jtagInstruction 1) s = .next (settled s (send (memSet s.dev .boot 0 9 1)
      (.readData (BitVec.ofNat 64 (0xB9204 <<< 12 + Config.jep106.toNat <<< 1 + 1)))))
    ∧ (∀ code, code = 0 ∨ 7 < code → exec (.jtagInstruction code) s = .next (settled s (memSet s.dev .boot 0 9 0)))
    ∧ exec (.jtagInstruction 2) s = .next (settled s (memSet s.dev .boot 0 9 2))
    ∧ (∀ code, 3 ≤ code → code ≤ 7 → exec (.jtagInstruction code) s = .next (settled s
        { (fresh (memSet s.dev .boot 0 9 code)).2 with alive := (fresh (memSet s.dev .boot 0 9 code)).1 % 2 == 1 })))

/-- Flushes and fences (R145, R189): GO of FDH_FLUSH starts a flush of what it names where none runs, noting its tick, from
which its scan goes set by set, and its end takes the entries that it names, and GO; a replication fence marks the
replications in hand and is done when none of them is left. -/
def Obligations.FlushesAndFencesComplete : Prop :=
  ∀ (s : State) (c : Nat), c < 8 →
    (∀ w : Word, Open s.dev (fdhBlk c) → w.toNat / 2 ^ 63 = 1 → bit (rd s.dev (fdhBlk c) .fdhFlush) 63 = false →
      let v := written s (fdhBlk c) .fdhFlush w.toNat
      exec (.fdhFlush c w) s = .next (settled s (memSet (memSet (wr s.dev (fdhBlk c) .fdhFlush v) .fdhRun 0 c v)
        .fdhRun 0 (8 + c) (s.tim.tick + 1))))
    ∧ (∀ w : Word, Open s.dev (fdhBlk c) → w.toNat / 2 ^ 63 = 0 → exec (.fdhFlush c w) s
        = .next (settled s (wr s.dev (fdhBlk c) .fdhFlush (written s (fdhBlk c) .fdhFlush w.toNat))))
    ∧ (bit (memGet s.dev .fdhRun 0 c) 63 = true →
      let w := memGet s.dev .fdhRun 0 c
      exec (.flushComplete c) s = .next (settled s (wrF (predDrop (memSet s.dev .fdhRun 0 c 0)
        (fun k e => k / 262144 == c && (bit w 62 || e.part == fld w 11 0))) (fdhBlk c) .fdhFlush 63 63 0)))
    ∧ (Open s.dev ⟨.bpm, c⟩ → exec (.replFence c) s = .next (settled s (wrF
        (setFp s.dev { s.dev.fp with repls := mapIf (fun r => r.cluster == c) (fun r => { r with fenced := true }) s.dev.fp.repls })
        ⟨.bpm, c⟩ .bpmReplFence 63 63 1)))
    ∧ (s.dev.fp.repls.any (fun r => r.cluster == c && r.fenced) = false →
      exec (.replFenceDone c) s = .next (settled s (wrF s.dev ⟨.bpm, c⟩ .bpmReplFence 63 63 0)))

/-- Tables of scheduling and metering (R203, R210, R212, R229 and their tables): a sampler, in one cluster or in all, a
queue record whose queue is idle or that changes its weight alone, a group's shaper with its bucket full, and a meter's
profile with full buckets are stored as written. What rests on the model's choices is that of log entries 130 and 136. -/
def Obligations.SchedulingTablesAreStored : Prop :=
  (∀ (s : State) (c : Nat) (w : Word), c < 8 → Open s.dev ⟨.bpm, c⟩ → rdF s.dev ⟨.bpm, c⟩ .bpmSmpAddr 5 0 ≠ 0 →
    let a := rd s.dev ⟨.bpm, c⟩ .bpmSmpAddr
    let put (d : Dev) (c : Nat) := clearBase (setSmp d c (fld a 17 6) (fld a 5 0) w.toNat) (16 + c) (fld a 17 6 * 64 + fld a 5 0)
    (bit a 63 = false → exec (.samplerWrite c w) s = .next (settled s (put s.dev c)))
    ∧ (bit a 63 = true → exec (.samplerWrite c w) s = .next (settled s ((upto 0 8).foldl put s.dev))))
  ∧ (∀ (s : State) (k : Nat) (w : Word), k < 64 →
    (Open s.dev ⟨.sch, k⟩ →
      (let i := rdF s.dev ⟨.sch, k⟩ .schQAddr 13 0
        let u := w.toNat.land (rwMask .schQData)
        let q := k * 16384 + i
        let d := if isUe s.dev ⟨.sch, k⟩ 0 i then setFp s.dev { s.dev.fp with
          wf := SMap.erase s.dev.fp.wf (q * 4), heads := SMap.erase s.dev.fp.heads (q * 4) } else s.dev
        fld (memGetD s.dev .schQ k i 1) 63 8 = fld u 63 8 ∨ queueBusy s.dev q = false →
        bit u 63 = false ∨ (part s.dev (queueOwner s.dev q)).st ≠ 0 →
        exec (.queueRecordWrite k w) s = .next (settled s (writeWord (memSetD d .schQ k i 1 u) ⟨.sch, k⟩ 0 i)))
      ∧ (let n := rdF s.dev ⟨.sch, k⟩ .schGAddr 14 0
        let u := w.toNat.land (rwMask .schGData)
        let d := writeWord (memSetD s.dev .schG k n 1 u) ⟨.sch, k⟩ 1 n
        exec (.groupShaperWrite k w) s = .next (settled s (setFp d { d.fp with
          shapes := SMap.set ⟨0, 0⟩ d.fp.shapes (k * 32768 + n) ⟨((fld u 23 8 * 64 * unitsPerByte : Nat) : Int), s.tim.tick⟩ }))))
    ∧ (Open s.dev ⟨.mtr, k⟩ →
      let i := rdF s.dev ⟨.mtr, k⟩ .mtrAddr 13 0
      let u := (written s ⟨.mtr, k⟩ .mtrProf w.toNat).land (rwMask .mtrProf)
      let x : Meter := ⟨u, rd s.dev ⟨.mtr, k⟩ .mtrRate, rd s.dev ⟨.mtr, k⟩ .mtrBurst, 0, 0, 0⟩
      bit u 62 = true ∨ x.cir ≤ x.pir → x.cbs ≤ x.pbs →
      exec (.meterProfileWrite k w) s = .next (settled s ((upto (meterWord (bankMeter k i) 0) 4).foldl
        (fun d j => writeWord d ⟨.mtr, k⟩ 0 j) (setMeter s.dev (k / 8) (bankMeter k i) (x.full s.tim.tick))))))

/-- Time requests (R217, R219, R229): a write of TIM_STEP or TIM_INCR is a request that leaves device time as it is;
applied, it steps device time by its signed amount, or stores the increment. Reads of device time and of a capture give the
low word and keep the high one for the next read; the PPS output changes level and says so; an edge that the configuration
names captures device time; a realignment of the tick leaves the device as it is. What rests on the model's choices is that
of log entries 32 and 74. -/
def Obligations.DeviceTimeCommandsComplete : Prop :=
  (∀ (s : State) (w : Word), Calm s → Open s.dev timBlk → memGet s.dev .timReq 0 0 = 0 → memGet s.dev .timReq 0 1 = 0 →
     (∃ t u, exec (.timeStep w) s = .next t ∧ t.tim = s.tim
       ∧ exec .timeAdjustApply t = .next u ∧ u.tim.now = stepTime s.tim.now w.toNat ∧ u.tim.incr = s.tim.incr ∧ u.tim.tick = s.tim.tick)
     ∧ (∃ t u, exec (.timeIncrWrite w) s = .next t ∧ t.tim = s.tim
       ∧ exec .timeAdjustApply t = .next u ∧ u.tim.now = s.tim.now ∧ u.tim.incr = written s timBlk .timIncr w.toNat ∧ u.tim.tick = s.tim.tick))
  ∧ (∀ s : State, Calm s →
       (Open s.dev timBlk → ∃ t, exec (.timeRead false) s = .next t
         ∧ t.dev.out = s.dev.out ++ [.readData (BitVec.ofNat 64 (s.tim.now.frac <<< 32 + s.tim.now.ns))]
         ∧ rd t.dev timBlk .timNowS = s.tim.now.sec % 2 ^ 64)
       ∧ (Open s.dev timBlk → ∃ t, exec (.timeRead true) s = .next t
         ∧ t.dev.out = s.dev.out ++ [.readData (BitVec.ofNat 64 (rd s.dev timBlk .timPpsCapNs))]
         ∧ rd t.dev timBlk .timPpsCapS = memGet s.dev .timReq 0 3 % 2 ^ 64)
       ∧ (bit (rd s.dev timBlk .timPps) 0 = true → memGet s.dev .timReq 0 2 = 0 →
         ∃ t u, exec .ppsOutPulse s = .next t ∧ t.dev.out = s.dev.out ++ [.pps true]
           ∧ exec .ppsOutPulse t = .next u ∧ u.dev.out = s.dev.out ++ [.pps true, .pps false])
       ∧ (∀ rising, bit (rd s.dev timBlk .timPps) 1 = true → bit (rd s.dev timBlk .timPps) 2 ≠ rising →
         s.tim.now.ns < 2 ^ 32 →
         ∃ t, exec (.ppsInCapture rising) s = .next t ∧ rd t.dev timBlk .timPpsCapNs = 2 ^ 63 + s.tim.now.ns
           ∧ memGet t.dev .timReq 0 3 = s.tim.now.sec)
       ∧ exec .tickRealign s = .next (done s s.dev))

/-- The stacks (R235, R246 to R248, R256). A refresh stores nothing here; a temperature is stored with its band and the
highest seen, and one at the warning, or above 125 degrees, sets ERR bit 2 or 3 and is reported as class 8 or 9 unless the
report before it was as warm with the bit still set; a channel whose margin is below the limit is marked, sets ERR bit 5 and
is reported as class 13; the region of a stack that is OFF is set and owes a refill, which empties its tables, while a
locked page refuses it; a training pass starts on a stack that is OFF and ends with its errors and lanes in HBM_TRAIN_RES.
What rests on the model's choices is that of log entries 32 and 116. -/
def Obligations.StacksComplete : Prop :=
  (∀ (s : State) (c : Nat), isStack s.dev c = true →
    let b : Blk := ⟨.hbm, c⟩
    exec (.hbmRefresh c) s = .next (settled s s.dev)
    ∧ (∀ temp, (hbmStacks s.dev).contains c = true →
      let v := rd s.dev b .hbmTemp
      let new := signed8 temp
      let old := signed8 (fld v 7 0)
      let warn : Int := (fld v 31 24 : Nat)
      let band := max (refreshBand new) (min (fld v 33 32) (refreshBand (new + 3)))
      let top := if signed8 (fld v 23 16) < new then temp % 256 else fld v 23 16
      let d := wr s.dev b .hbmTemp (putFld (putFld (putFld v 33 32 band) 23 16 top) 7 0 temp)
      let told (n : Nat) : Bool := bit (rdAt d b 0 .errStatus 0) n
      let hot := warn ≤ new ∧ ¬ (warn ≤ old ∧ told 2 = true)
      let trip := 125 < new ∧ ¬ (125 < old ∧ told 3 = true)
      (¬ hot → ¬ trip → exec (.hbmTempReport c temp) s = .next (settled s d))
      ∧ (hot → ¬ trip → exec (.hbmTempReport c temp) s = .next (settled s (errFault s.tim d b 2 8 0 0)))
      ∧ (¬ hot → trip → exec (.hbmTempReport c temp) s = .next (settled s (errFault s.tim d b 3 9 3 0)))
      ∧ (hot → trip → exec (.hbmTempReport c temp) s
        = .next (settled s (errFault s.tim (errFault s.tim d b 2 8 0 0) b 3 9 3 0))))
    ∧ (∀ ch margin, ch < 32 → (blkSt s.dev b).cur ≠ 0 → margin < rdF s.dev b .hbmRetrain 31 24 →
      exec (.trackingSlot c ch margin) s = .next (settled s
        (errFault s.tim (wrF s.dev b .hbmRetrain (32 + ch) (32 + ch) 1) b 5 13 0 0)))
    ∧ (memGet s.dev .hbmRefill c 0 = 1 → exec (.hbmRegionRefillDone c) s
        = .next (settled s (memSet (clearTables s.dev c) .hbmRefill c 0 0)))
    ∧ (∀ errors lanes, bit (rd s.dev b .hbmTrainCtrl) 63 = true → exec (.hbmTrainPassDone c errors lanes) s
        = .next (settled s (wr (wrF s.dev b .hbmTrainCtrl 63 63 0) b .hbmTrainRes
            (2 ^ 63 + b2n (lanes % 2 ^ 37 == 0) <<< 62 + min errors 2047 <<< 37 + lanes % 2 ^ 37)))))
  ∧ (∀ (s : State) (c : Nat) (w : Word), c < 8 → Open s.dev ⟨.hbm, c⟩ →
    ((blkSt s.dev ⟨.hbm, c⟩).cur = 0 → (served s.dev c).all (fun k => !bit (rd s.dev ⟨.exm, k⟩ .exmFlowCfg) 32) = true →
      (locked s.dev ⟨.hbm, c⟩ 0 = false → exec (.hbmRegionWrite c w) s = .next (settled s (memSet (wr s.dev ⟨.hbm, c⟩ .hbmRegion
        (written s ⟨.hbm, c⟩ .hbmRegion w.toNat % 16)) .hbmRefill c 0 1)))
      ∧ (locked s.dev ⟨.hbm, c⟩ 0 = true → exec (.hbmRegionWrite c w) s = .next (settled s
        (violate s.tim s.dev ⟨.hbm, c⟩ 0 3 (regOff ⟨.hbm, c⟩ 0 .hbmRegion 0)))))
    ∧ (w.toNat / 2 ^ 63 = 0 → exec (.hbmTrainGo c w) s = .next (settled s (wr s.dev ⟨.hbm, c⟩ .hbmTrainCtrl
        (b2n (bit (rd s.dev ⟨.hbm, c⟩ .hbmTrainCtrl) 63) <<< 63
          + fld (putFld (written s ⟨.hbm, c⟩ .hbmTrainCtrl w.toNat) 63 63 0) 39 0))))
    ∧ ((blkSt s.dev ⟨.hbm, c⟩).cur = 0 → w.toNat / 2 ^ 63 = 1 → exec (.hbmTrainGo c w) s = .next (settled s
        (wrF (wr s.dev ⟨.hbm, c⟩ .hbmTrainCtrl (2 ^ 63 + fld (putFld (written s ⟨.hbm, c⟩ .hbmTrainCtrl w.toNat) 63 63 1) 39 0))
          ⟨.hbm, c⟩ .hbmTrainRes 63 63 0))))

/-- Protection (R253, R257, R260, R262, R265): a corrected word that waits for its write-back is written back; a running
scrubber moves to its next word or ends its lap; a golden word is rebuilt from the first slice that is powered and whose
parity is good, and stays bad where there is none, class 1 either way; arming a flip stores ERR_FLIP_C of a memory that
exists; a 64-bit read of PROT_CNT returns it and clears it. What rests on the model's choices is that of log entries 19, 29,
69, 109, 117 and 118. -/
def Obligations.ProtectionComplete : Prop :=
  (∀ (s : State) (b : Blk) (m : Nat), b.inst < b.kind.count →
    (∀ w, 301 ≤ mark s.dev b m w → exec (.eccWriteBack b m w) s = .next (settled s (setMark s.dev b m w 0)))
    ∧ (scrubRuns s.dev b m = true →
      let pos := preg s.dev b m .pos
      let d := if b.kind == .edt && m == 0 then scrubStore s.dev b.inst pos
        else (upto (scrubPlace s.dev b m pos).2 (scrubShape s.dev b m).1).foldl (scrubWord s.tim b (scrubPlace s.dev b m pos).1) s.dev
      (pos + 1 < (scrubShape s.dev b m).2 → exec (.scrubRead b m) s = .next (settled s (setPreg d b m .pos (pos + 1))))
      ∧ ((scrubShape s.dev b m).2 ≤ pos + 1 → exec (.scrubRead b m) s = .next (settled s (scrubLap s.tim d b m))))
    ∧ (∀ w, memCount b.kind ≠ 0 → m < b.kind.info.span → Open s.dev b →
      bit w.toNat 31 = false ∨ fld w.toNat 23 16 < memCount b.kind →
      exec (.flipArm b m w) s = .next (settled s (wrAt s.dev b m .errFlipC 0
        (mergeWrite s.dev b m .errFlipC .whole (regView s.tim s.dev b m .errFlipC 0) w.toNat)))))
  ∧ (∀ (s : State) (w : Nat),
    let good (k : Nat) : Bool := slcState s.dev k ≤ 1 && parityBad s.dev k w == 0
    let told (d : Dev) := exec (.goldenRebuild w) s = .next (settled s (reportFault d 1 1 (devBlk .dev) 0 w false))
    (findFirst good (upto 0 64) = none → told (setMark s.dev (devBlk .dev) 0 w 100))
    ∧ (∀ k, findFirst good (upto 0 64) = some k →
      let old := memGet s.dev .edtStore 0 w
      let new := storeWord s.dev k w
      let d := memSet (setMark s.dev (devBlk .dev) 0 w 0) .edtStore 0 w new
      (old = new → told d)
      ∧ (old ≠ new → told ((upto 0 64).foldl
        (fun d k => memSet d .edtBad k w ((memGet d .edtBad k w).xor (old.xor new))) d))))
  ∧ (∀ (s : State) (b : Blk), b.inst < b.kind.count → Spot b 0 .protCnt 0 → reservedNow s.dev b .protCnt = false →
    innerLane s.dev b = false → Open s.dev b →
    exec (.protCntRead b) s = .next (settled s (answer
      (setPreg s.dev b (protMem s.dev b) .cnt (putFld (putFld (preg s.dev b (protMem s.dev b) .cnt) 31 0 0) 63 32 0))
      (preg s.dev b (protMem s.dev b) .cnt))))

/-- Edit programs (R168 to R170, R172): a load stores the programs of its payload as LOADING and starts its descriptor, or
completes one that holds none; the end of a load makes them LIVE and completes it; retiring marks a LIVE program RETIRING,
and the scan for its predictions begins; a retired program that nothing names is free when that scan has ended; unknown
reference counts are rebuilt; and a reload ends a machine check, at level 2 where it was not good, or ends the reload of a
word that the scrubber found. What rests on the model's choices is that of log entries 33, 40, 41, 42, 62, 69, 117, 119, 159
and 169. -/
def Obligations.EditProgramsComplete : Prop :=
  (∀ (s : State) (r : Nat) (c : Desc), r < 16 →
    (∀ payload progs, nextOp s.dev 0 r 0x28 = some c → loading s.dev = false → dw c 1 % 64 = 0 → fld (dw c 2) 63 20 = 0 →
      dw c 2 ≤ 524288 → (∀ i ∈ upto 3 5, dw c i = 0) → payloadProgs payload = some progs →
      loadCheck progs (usedRanges s.dev) = none →
      (progs = [] → exec (.editLoad 0 r .ok payload) s = .next (settled s (completeDesc s.dev 0 r c.n 0 (editWord 0 0 0))))
      ∧ (progs ≠ [] → exec (.editLoad 0 r .ok payload) s
        = .next (settled s (startDesc (storeProgs s.dev progs 3) 0 r c.n))))
    ∧ (nextOp s.dev 0 r 0x29 = some c → fld (dw c 1) 63 12 = 0 → (∀ i ∈ upto 2 6, dw c i = 0) →
      let prog := fld (dw c 1) 11 0
      prog ≠ 0 → progState s.dev prog = 1 →
      exec (.editRetire 0 r) s = .next (settled s (completeDesc (memSet
        (sweep s.tim (putProg s.dev prog (putFld (progEntry s.dev prog) 63 62 2))) .fdhRun 0 (16 + prog) (s.tim.tick + 1))
        0 r c.n 0 (editWord 0 0 prog)))))
  ∧ (∀ (s : State), (usedRanges s.dev).filter (fun u => progState s.dev u.1 == 3) ≠ [] →
    let d := ((usedRanges s.dev).filter (fun u => progState s.dev u.1 == 3)).foldl
      (fun d u => putProg d u.1 (putFld (progEntry d u.1) 63 62 1)) s.dev
    exec .editLoadDone s = .next (settled s ((upto 0 16).foldl (fun d r =>
      match findFirst (fun c => opOf c.words == 0x28 && c.started && c.done.isNone) (ring d .command 0 r).descs with
      | some c => completeDesc d 0 r c.n 0 (editWord 0 0 0)
      | none => d) d)))
  ∧ (∀ (s : State) (p : Nat), p ≠ 0 → progState s.dev p = 2 → progCopies s.dev p = 0 →
    (∀ k ∈ upto 0 64, progRef s.dev k p = 0) → scanEnded s.tim s.dev p = true →
    exec (.programFreed p) s = .next (settled s (eventMgr s.tim
      (putProg (memSet (sweep s.tim s.dev) .fdhRun 0 (16 + p) 0) p 0) 0x02 0 p 0 0)))
  ∧ (∀ (s : State) (k : Nat), k < 64 →
    (s.dev.fp.copies.any (fun x => x.kind != 3 && x.kind != 4 && copySlice x == k) = false →
      s.dev.fp.xfers.any (fun x => x.src == k && !x.dead) = false →
      exec (.refRebuild k) s = .next (settled s { s.dev with
        mem := s.dev.mem.filter (fun e => !(memKey .edtRef k 0 ≤ e.1 && e.1 < memKey .edtRef k 4096 && bit e.2 32)) }))
    ∧ (∀ good, memGet s.dev .edtMcTime k 8192 = 0 → exec (.mcReloadDone k good) s = .next (settled s (scrubReload s.dev k good)))
    ∧ (∀ n good, memGet s.dev .edtMcTime k 8192 = n + 1 →
      let b : Blk := ⟨.edt, k⟩
      let ok := good && !goldenBad s.dev n
      let hit := bit (preg s.dev b 0 .last) 61
      let d := endPend (if ok then memSet s.dev .edtBad k n 0 else s.dev) k n
      let again (g : Grant) : Grant := if !g.done && memGet s.dev .edtMcTime k 8193 < g.tick + 45 then { g with tick := s.tim.tick } else g
      let held := mapIf (fun x => x.kind != 3 && x.kind != 4 && copySlice x == k)
        (fun x => { x with grant := x.grant.map again }) d.fp.copies
      let d := setFp d { d.fp with copies := held }
      (ok = true → memGet d .edtMcTime k 8194 = 0 → exec (.mcReloadDone k good) s = .next (settled s
        (reportFault (errSet s.tim (wrF (memSet d .edtMcTime k 8192 0) b .edtMcLog 62 62 0) b 0) 5 1 b 0 (4 * n) hit)))
      ∧ (ok = false ∨ memGet d .edtMcTime k 8194 ≠ 0 → exec (.mcReloadDone k good) s = .next (settled s
        (reportFault (errSet s.tim (wrF (memSet d .edtMcTime k 8192 0) b .edtMcLog 62 62 1) b 1) 5 2 b 1 (4 * n) hit)))))

/-- TCAM blocks (R102, R105): a search that software starts takes the unit's version and clears its result's VALID; its end
stores the entry of lowest PRIORITY that matches, or the first at or after the index that it steps from; the shadow checker
checks its row's words, corrects a row that differs from a good shadow, and moves on. What rests on the model's choices is
that of log entries 69 and 151. -/
def Obligations.TcamSearchAndShadow : Prop :=
  ∀ (s : State) (b : Nat), b < 64 →
    (∀ w : Word, Open s.dev ⟨.tcm, b⟩ → w.toNat / 2 ^ 63 = 1 → (tableAt s.dev b).isSome = true →
      let v := (putFld (written s ⟨.tcm, b⟩ .tcmSrchCtrl w.toNat) 63 63 1).land (0xFFF <<< 48 + 0x1FFFF <<< 16)
      exec (.tcamDiagSearch b w) s = .next (settled s (wrF (memSet (wr s.dev ⟨.tcm, b⟩ .tcmSrchCtrl (2 ^ 63 + v))
        .tcmEpoch b 0 (unitVersion s.dev (64 + b / 8) + 1)) ⟨.tcm, b⟩ .tcmSrchRes 63 63 0)))
    ∧ (bit (rd s.dev ⟨.tcm, b⟩ .tcmSrchCtrl) 63 = true →
      let w := rd s.dev ⟨.tcm, b⟩ .tcmSrchCtrl
      let d := memSet (wrF s.dev ⟨.tcm, b⟩ .tcmSrchCtrl 63 63 0) .tcmEpoch b 0 0
      (tableAt d b = none → exec (.tcamDiagSearchDone b) s = .next (settled s (wr d ⟨.tcm, b⟩ .tcmSrchRes (2 ^ 63))))
      ∧ (∀ tid dir, tableAt d b = some (tid, dir) →
        let r := searchTcam d (memGet s.dev .tcmEpoch b 0 - 1) (b / 8) tid (fld w 59 48) dir
          (wordBytes ((upto 0 10).map (fun i => rd d ⟨.tcm, b⟩ .tcmSrchKey i))) (if bit w 32 then some (fld w 31 16) else none)
        let d := (hurtWords s.tim d r.bad).2
        (r.hit = none → exec (.tcamDiagSearchDone b) s = .next (settled s (wr d ⟨.tcm, b⟩ .tcmSrchRes (2 ^ 63))))
        ∧ (∀ e, r.hit = some e → exec (.tcamDiagSearchDone b) s = .next (settled s (wr d ⟨.tcm, b⟩ .tcmSrchRes
          (2 ^ 63 + 2 ^ 62 + b2n r.multi <<< 61 + (e.place - dirFirst dir * 8192) <<< 16 + prioOf e))))))
    ∧ (isOn s.dev ⟨.tcm, b⟩ = true → bit (rd s.dev ⟨.tcm, b⟩ .tcmCfg) 7 = true →
      let i := preg s.dev ⟨.tcm, b⟩ 0 .pos
      let d := (upto (i * 22) 22).foldl (scrubWord s.tim ⟨.tcm, b⟩ 1) s.dev
      let ue := (upto (i * 22) 22).any (fun w => isUe s.dev ⟨.tcm, b⟩ 1 w)
      (memGet d .tcmFlip b i = 0 ∨ ue = true →
        exec (.tcamShadowCheck b) s = .next (settled s (setPreg d ⟨.tcm, b⟩ 0 .pos ((i + 1) % 8192))))
      ∧ (memGet d .tcmFlip b i ≠ 0 → ue = false →
        exec (.tcamShadowCheck b) s = .next (settled s (setPreg
          (reportFault (memSet d .tcmFlip b i 0) 4 1 ⟨.tcm, b⟩ 0 i true) ⟨.tcm, b⟩ 0 .pos ((i + 1) % 8192)))))

/-- Table programs of a cluster (R73, R88, R99, R358): a chain word is stored while its profile is unused and its index and
fields are in range; a directory entry while it changes no table that is held or named and clashes with none; a key-builder
word while its profile is unused and its fields lie in the section. A weight, for one cluster or for all, waits for its
group's switch while an image holds its member, and acts at once where none does; the switch applies those that wait for the
group's members, in the image and in every copy of it; and a queued flush of an accumulator is applied, the oldest first.
What rests on the model's choices is that of log entries 130, 135 and 145. -/
def Obligations.TableProgramsAreStored : Prop :=
  (∀ (s : State) (c : Nat) (w : Word), c < 8 → Open s.dev ⟨.exm, c⟩ →
    let a := rd s.dev ⟨.exm, c⟩ .exmChainAddr
    let pr := fld a 10 5
    let i := fld a 4 0
    (i ≤ 25 → profileUsed s.dev c pr = false → (i % 2 = 1 → fld w.toNat 63 60 ≠ 3 ∧ fld w.toNat 63 60 < 5) →
      (i % 2 = 0 → i ≠ 0 → fld w.toNat 50 44 ≤ 78) →
      exec (.chainWrite c w) s = .next (settled s (wr (writeWord (memSet s.dev .exmChain c (pr * 32 + i) w.toNat)
        ⟨.exm, c⟩ 5 (256 + pr * 32 + i)) ⟨.exm, c⟩ .exmChainAddr (chainAdvance a))))
    ∧ (let tid := rdF s.dev ⟨.exm, c⟩ .exmDirAddr 7 0
      let u := w.toNat.land (rwMask .exmDirData)
      let old := memGet s.dev .exmDir c tid
      fld u 62 60 < 4 → bit u 63 = false ∨ fld u 62 60 ≠ 3 ∨ blocksClash s.dev c tid u = false →
      (fld old 63 59 = fld u 63 59 ∧ fld old 51 45 = fld u 51 45)
        ∨ (tableHeld s.dev c tid = false ∧ tableNamed s.dev c tid = false) →
      exec (.directoryWrite c w) s = .next (settled s (writeWord (memSet s.dev .exmDir c tid u) ⟨.exm, c⟩ 5 tid)))
    ∧ (let x := rd s.dev ⟨.exm, c⟩ .exmWgtAddr
      let m := fld x 18 0
      let go (d : Dev) (c : Nat) : Dev := weightWrite s.tim (setFlt (clearBase d c m)
        { d.flt with saved := d.flt.saved.filter (fun x => !(x.1 == c && x.2.1 == m)) }) c m (w.toNat % 256)
      memberFrozen s.dev m = false →
      (bit x 63 = false → exec (.weightWrite c w) s = .next (settled s (go s.dev c)))
      ∧ (bit x 63 = true → exec (.weightWrite c w) s = .next (settled s ((upto 0 8).foldl go s.dev)))))
  ∧ (∀ (t : TimeState) (d : Dev) (c m w : Nat),
    ((∃ e ∈ d.entries, e.kind = 6 ∧ e.cluster = c ∧ groupHas e m = true) → weightWrite t d c m w
      = { d with wgtPend := d.wgtPend.filter (fun x => !(x.1 == c && x.2.1 == m)) ++ [(c, m, w)] })
    ∧ ((∀ e ∈ d.entries, e.kind = 6 → e.cluster = c → groupHas e m = false) → weightWrite t d c m w = applyWeight t d c m w))
  ∧ (∀ (s : State) (c g : Nat), c < 8 →
    let gs := s.dev.entries.filter (fun e => e.kind == 6 && e.cluster == c && e.key == [g])
    let sel (x : Nat × Nat × Nat) : Bool := x.1 == c && gs.any (fun e => groupHas e x.2.1)
    let d := (s.dev.wgtPend.filter sel).foldl (fun d x => applyWeight s.tim d x.1 x.2.1 x.2.2) s.dev
    exec (.weightSwitch c g) s = .next (settled s { d with wgtPend := s.dev.wgtPend.filter (fun x => !sel x) }))
  ∧ (∀ (s : State) (c : Nat) (a : Machine.Acc), c < 8 → isOn s.dev (stackFor s.dev c) = true →
    findFirst (fun a => a.cluster == c) s.dev.fc.flush = some a →
    exec (.accumulatorFlush c) s = .next (settled s (addCtr s.tim (countN
      (setFc s.dev { s.dev.fc with flush := eraseFirst (fun a => a.cluster == c) s.dev.fc.flush })
      evCtrFlushes a.cluster 0 a.cluster a.part 1) a.cluster a.index a.delta a.pkts a.bytes)))
  ∧ (∀ (s : State) (k : Nat) (w : Word), k < 64 → Open s.dev ⟨.prs, k⟩ →
    let a := rd s.dev ⟨.prs, k⟩ .prsKbAddr
    let n := fld w.toNat 49 43
    let i := kbIx (fld a 13 8) (fld a 7 4) (fld a 3 0)
    fld a 7 4 ≤ 13 → profileInUse s.dev k (fld a 13 8) = false →
    fld w.toNat 63 62 = 0 ∨ (n ≠ 0 ∧ fld w.toNat 42 36 + n ≤ 80) →
    exec (.prsKbDataWrite k w) s = .next (settled s
      (wr (writeWord (memSet s.dev .prsKb k i w.toNat) ⟨.prs, k⟩ 0 i) ⟨.prs, k⟩ .prsKbAddr (kbAdvance a))))

/-- The fault collector (R266 to R268, R270, R271, R274): an event is collected and leaves those on their way; the window of
a pending class that ends raises it one level, unless the device has stopped; an acknowledge that names the pending level
ends it; each class named that is not pending has its status and records cleared, and each that is pending makes a
violation; an injection is collected with the source that it names; and a unit is released when no class that fenced it is
pending. What rests on the model's choices is that of log entries 111, 112, 113 and 114. -/
def Obligations.FaultCollectorComplete : Prop :=
  (∀ (s : State) (e : FaultEv), exec (.faultEvent e) s = .next (settled s
      (collect s.tim { s.dev with faults := eraseFirst (fun x => x == e) s.dev.faults } e)))
  ∧ (∀ (s : State) (k : Nat), k < 64 → s.dev.flt.stopped = false → 1 ≤ pendLevel s.dev k → pendLevel s.dev k ≤ 3 →
    exec (.windowExpiry k) s = .next (settled s (enterLevel s.tim s.dev k (pendLevel s.dev k + 1) false)))
  ∧ (∀ (s : State) (w : Word), Open s.dev fltBlk →
    (let k := fld w.toNat 5 0;
      pendLevel s.dev k ≠ 0 → pendLevel s.dev k = fld w.toNat 10 8 →
      exec (.fltAck w) s = .next (settled s (setFlt s.dev { s.dev.flt with
        level := SMap.erase s.dev.flt.level k, units := s.dev.flt.units.filter (fun x => x.1 != k) })))
    ∧ (exec (.fltStatusClear w) s = .next (settled s ((setBits w.toNat 24).foldl (fun d k =>
        if pendLevel d k ≠ 0 then violate s.tim d fltBlk 0 3 (regOff fltBlk (regSub .fltStatus) .fltStatus 0)
        else
          let d := wr (wr (wr d fltBlk .fltRecA 0 k) fltBlk .fltRecB 0 k) fltBlk .fltRecC 0 k
          let d := wr d fltBlk .fltRecD (rdF d fltBlk .fltRecD 2 0 k) k
          wrF d fltBlk .fltStatus k k 0) s.dev)))
    ∧ (let k := fld w.toNat 5 0
      let l := fld w.toNat 10 8
      k < 24 → l ≤ 3 ∨ (l = 4 ∧ bit (rd s.dev (devBlk .boot) .bootStrap) 3 = true) →
      exec (.fltInj w) s = .next (settled s (collect s.tim s.dev ⟨k, l, fld w.toNat 47 32, fld w.toNat 31 16, 0, 0, true⟩)))
    ∧ (∀ u, unfenceUnit w.toNat = some u → s.dev.flt.fences.filter (fun x => x.1 == u) ≠ [] →
      (∀ x ∈ s.dev.flt.fences, x.1 = u → pendLevel s.dev x.2 = 0) →
      exec (.fltUnfence w) s = .next (settled s (restoreWeights s.tim ((unitBlocks u).foldl releaseBlock
        (syncFences (setFlt s.dev { s.dev.flt with fences := s.dev.flt.fences.filter (fun x => x.1 != u) }))) u))))

/-- Crust mode and the watchdogs (R275, R276, R278, R281): entry becomes CRUST and sets ERR bit 2; an exit that nothing
forbids turns EXITING and releases the blocks; it completes when they are up, or late; ALIVE changes level while the
always-on clock runs and JTAG does not hold the pin; a kick notes its tick; without one for 100 microseconds ALIVE stops,
the slice clocks are gated, and the device enters level 4 of class 23. What rests on the model's choices is that of log
entries 58, 60, 112, 115 and 169. -/
def Obligations.CrustAndWatchdogs : Prop :=
  ∀ s : State,
    (crustState s.dev = 1 → exec .crustActive s = .next (settled s (errSet s.tim (wr s.dev fltBlk .fltCrustCtrl 2) fltBlk 2)))
    ∧ (Open s.dev fltBlk → crustState s.dev = 2 → s.dev.flt.stopped = false → s.dev.flt.level.any (fun e => e.2 % 8 == 3) = false →
      exec .crustExit s = .next (settled s
        (crustBlocks.foldl releaseBlock (errSet s.tim (wr s.dev fltBlk .fltCrustCtrl (2 ^ 63 + 3)) fltBlk 2))))
    ∧ (∀ late, crustState s.dev = 3 → late = true ∨ crustBlocks.all (fun b => held s.dev b || !(blkSt s.dev b).enable || isOn s.dev b) = true →
      exec (.crustExitComplete late) s = .next (settled s (errSet s.tim (wr s.dev fltBlk .fltCrustCtrl 0) fltBlk 2)))
    ∧ (let d := if inStep s.dev 1 then romStart s.dev else s.dev
      memGet d .boot 0 8 ≠ 1 → memGet d .boot 0 9 < 3 → exec .aliveToggle s = .next (settled s (aliveToggle d)))
    ∧ exec .aonWdogKick s = .next (settled s (memSet s.dev .aonKick 0 0 s.tim.tick))
    ∧ exec .aonWdog s = .next (settled s (collect s.tim
      (memSet { s.dev with aliveRun := false } .aonKick 0 1 1) ⟨23, 4, (BlkKind.info .pwr).type, 0, 0, 0, false⟩))

/-- Supplies and clocks (R383, R386, R387): an excursion is reported, of class 11 when a limit was passed and else of class
10, unless a voltage that was asked for is still settling; a written voltage is stored in its cluster's register, and a
failed write is reported; a read-back stores nothing here; a lost clock is noted, with every port of its cluster down, or
the host's link reset; and its return clears the note. What rests on the model's choices is that of log entries 22, 32, 55,
56, 69, 70, 140 and 167. -/
def Obligations.SuppliesAndClocks : Prop :=
  ∀ s : State,
    (∀ rail, rail ≤ 16 →
      let b : Blk := if 3 ≤ rail ∧ rail ≤ 10 then ⟨.clu, rail - 3⟩ else devBlk .pwr
      exec (.supplyExcursion rail true) s = .next (settled s
        (reportFault s.dev 11 (if 3 ≤ rail ∧ rail ≤ 10 then 2 else 4) b 0 rail false))
      ∧ (let asked := memGet s.dev .limPrev 6 (rail - 3)
        (rail < 3 ∨ 10 < rail ∨ asked = 0 ∨ 360000 ≤ s.tim.tick + 1 - asked →
          exec (.supplyExcursion rail false) s = .next (settled s (reportFault s.dev 10 0 b 0 rail false)))
        ∧ (3 ≤ rail → rail ≤ 10 → asked ≠ 0 → s.tim.tick + 1 - asked < 360000 →
          exec (.supplyExcursion rail false) s = .next (settled s s.dev))))
    ∧ (∀ c, c < 8 → memGet s.dev .limPrev 5 c ≠ 0 →
      let d := memSet s.dev .limPrev 5 c 0
      exec (.avsWriteResult c true) s = .next (settled s (wrF d ⟨.clu, c⟩ .cluAvs 63 48 (memGet s.dev .limPrev 5 c - 1)))
      ∧ exec (.avsWriteResult c false) s = .next (settled s (reportFault d 10 0 ⟨.clu, c⟩ 0 (3 + c) false)))
    ∧ (∀ c mv ma, c < 8 → exec (.avsReadback c mv ma) s = .next (settled s s.dev))
    ∧ exec (.refclkLoss .aon) s = .next (settled s (memSet s.dev .boot 0 8 1))
    ∧ (∀ c, c < 8 → clocked s.dev c = true → exec (.refclkLoss (.sd c)) s = .next (settled s
      ((upto (7 * c) 7).foldl (fun d i => reportFault d 12 2 ⟨.d2d, d2dPeer i⟩ 0 (d2dPeer i) false)
        ((upto (128 * c) 128).foldl portDown (memSet s.dev .boot 0 (16 + c) 1)))))
    ∧ exec (.refclkLoss .pcie) s = .next (settled s (linkReset s.tim (memSet s.dev .boot 0 10 1) false))
    ∧ exec (.refclkRestored .aon) s = .next (settled s (memSet s.dev .boot 0 8 0))
    ∧ (∀ c, c < 8 → exec (.refclkRestored (.sd c)) s = .next (settled s (memSet s.dev .boot 0 (16 + c) 0)))
    ∧ exec (.refclkRestored .pcie) s = .next (settled s (memSet s.dev .boot 0 10 0))

/-- The states of a block (R40 to R42): bring-up turns an enabled block ON, a block that was disabled meanwhile goes down;
shut-down ends when the block has drained; one that was enabled meanwhile starts again; soft reset ends with the registers
at reset; a block stuck for 10 ms sets ERR bit 63 and is reported as class 22. What rests on the model's choices is that of
log entries 103, 107 and 108. -/
def Obligations.BlockStatesComplete : Prop :=
  ∀ (s : State) (b : Blk), b.inst < b.kind.count →
    ((blkSt s.dev b).cur = 1 → stuckOff s.dev b = false →
      b.kind ≠ .hbm ∨ (tripped s.dev = false ∧ rdF s.dev (devBlk .pwr) .pwrStat 2 0 < 2) →
      ((blkSt s.dev b).enable = true → exec (.bringUpComplete b) s = .next (settled s (upDone (setCur s.dev b 2 false) b)))
      ∧ ((blkSt s.dev b).enable = false → exec (.bringUpComplete b) s = .next (settled s (goDown s.tim s.dev b))))
    ∧ ((blkSt s.dev b).cur = 3 → drainedDown s.dev b = true →
      exec (.shutDownComplete b) s = .next (settled s (downDone s.tim (setCur s.dev b 0 (blkSt s.dev b).pend) b)))
    ∧ ((blkSt s.dev b).cur = 0 → (blkSt s.dev b).pend = true → (blkSt s.dev b).softReset = false → held s.dev b = false → stuckOff s.dev b = false →
      exec (.pendEnableRestart b) s = .next (settled s (setCur s.dev b 1 false)))
    ∧ ((blkSt s.dev b).softReset = true →
      let d := setBlk (softMore (softProt s.tim (softRegs s.dev b) b) b) b { blkSt s.dev b with softReset := false }
      exec (.softResetComplete b) s = .next (settled s (if held d b then d else enableActs s.tim d b (blkSt s.dev b).enable)))
    ∧ ((blkSt s.dev b).cur = 1 ∨ (blkSt s.dev b).cur = 3 →
      exec (.stuck b) s = .next (settled s (errFault s.tim s.dev b 63 22 0 0)))

/-- The control registers of a page (R39 to R42, R46): ENABLE starts or stops a block; SOFT_RESET of a block that is OFF
starts its reset with ENABLE recorded; LOCK locks the page for good; a write of ERR_STATUS clears the bits that it names,
but a bit that sets in the same clock, or whose condition lasts, is set again; a 64-bit read of VIOLATION_COUNT returns it
and clears the count. What rests on the model's choices is that of log entries 30, 109 and 168. -/
def Obligations.ControlPagesComplete : Prop :=
  ∀ (s : State) (b : Blk) (sub : Nat), b.inst < b.kind.count → sub < b.kind.info.span → Open s.dev b →
    (isFixed b = false → innerLane s.dev b = false →
      (∀ en, b.kind ≠ .pci ∨ en = true → b.kind ≠ .mac ∨ en = false ∨ (blkSt s.dev b).enable = true ∨ macMay s.dev b.inst = true →
        exec (.ctrlEnable b sub en) s = .next (settled s (writeEnable s.tim s.dev b en)))
      ∧ (∀ en, b.kind ≠ .pci ∨ en = true → b.kind ≠ .mac ∨ en = false ∨ (blkSt s.dev b).enable = true ∨ macMay s.dev b.inst = true →
        (blkSt s.dev b).cur = 0 → exec (.ctrlSoftReset b sub en) s
        = .next (settled s (setBlk s.dev b { blkSt s.dev b with softReset := true, enable := en })))
      ∧ (b.kind ≠ .pci ∨ (blkSt s.dev b).enable = true → exec (.ctrlLock b sub) s
        = .next (settled s (writeEnable s.tim (wrAt s.dev b sub .ctrl 0 4) b (blkSt s.dev b).enable))))
    ∧ (∀ w again : Word,
      let old := rdAt s.dev b sub .errStatus 0
      let d := wrAt s.dev b sub .errStatus 0 (old.land (w.toNat.xor (2 ^ 64 - 1)))
      exec (.errStatusClear b sub w again) s = .next (settled s ((setBits (((again.toNat.lor (errLasting d b)).land
        (errBits b.kind)).land (w.toNat.land old)) 64).foldl (fun d n => errSetAt s.tim d b sub n) d)))
    ∧ exec (.violationCountRead b sub) s = .next (settled s (answer
        (wrAt s.dev b sub .violationCount 0 (putFld (rdAt s.dev b sub .violationCount 0) 31 0 0))
        (rdAt s.dev b sub .violationCount 0)))

/-- Epochs and drains (R109, R111, R114, R126): a reporter with nothing in flight of an old epoch that it owes reports it;
the report retires what it can; the settle writes of a tag end its deaths and births, and each is a write of the words that
hold the mark; VER_DRAIN completes once its version has drained; and a version live too long sets ERR bit 0 of CMT and is
reported as class 16. What rests on the model's choices is that of log entries 43 and 147. -/
def Obligations.EpochsDrainAndSettle : Prop :=
  ∀ s : State,
    (∀ u e, u < 72 → e < 8 → owed s.dev u e = 1 → e ≠ unitVersion s.dev u % 8 → inFlight s.dev u e = false → unitAway s.dev u = false →
      exec (.epochReport u e) s = .next (settled s (setOwed s.dev u e 2)))
    ∧ (∀ u e, u < 72 → owed s.dev u e = 2 → exec (.drained u e) s = .next (settled s (retireLoop 8 s.tim (setOwed s.dev u e 0))))
    ∧ (∀ tag, tag < 64 → tagState s.dev tag = 4 → 
      let marked := s.dev.entries.filter (fun e => e.dies == some tag || e.born == some tag)
      exec (.settleComplete tag) s = .next (settled s (dropBatch (marked.foldl (markWrite s.tim) { s.dev with
        entries := (s.dev.entries.filter (fun e => e.dies != some tag)).map
          (fun e => if e.born == some tag then { e with born := none } else e) }) tag)))
    ∧ (∀ p r x n v, p < 4096 → r < 16 → findFirst (fun x => x.1 == p && x.2.1 == r) s.dev.cmt.drainWaits = some (x, r, n, v) →
      hasDrained s.dev v = true →
      let d := { s.dev with cmt := { s.dev.cmt with drainWaits := eraseFirst (fun x => x.1 == p && x.2.1 == r) s.dev.cmt.drainWaits } }
      exec (.verDrainDone p r) s = .next (settled s (completeDesc d p r n 0 (cmtWord 0 0 false false 0 0))))
    ∧ (s.dev.cmt.oldest ≠ verCurrent s.dev → rdF s.dev cmtBlk .cmtCfg 47 32 ≠ 0 →
      exec .drainSlow s = .next (settled s (errFault s.tim s.dev cmtBlk 0 16 0 0)))

/-- Assignment and the switch (R110, R119, R121, R122, R293): with nothing of a pair in the way, the first queued batch gets
the next version number when its ring has no commit at its switch, and a credit of its own and of its partition is in hand:
the credits are taken, its stall ends and it leaves the queue; without them it waits, for its number (3) or at the rate (2).
The resolved tag lets units adopt; a unit adopts and leaves those awaited; the switch completes when none is awaited:
VER_CURRENT is the version, CMT_COUNT counts it, the verdict for a twin's commit goes out, and the batch's descriptors are
current; buckets take a credit up to their depth. What rests on the model's choices is that of log entries 46, 47, 48 and
49. -/
def Obligations.VersionsAreAssignedAndAdopted : Prop :=
  ∀ s : State,
    (∀ g rest b, isOn s.dev cmtBlk = true → roomForVersion s.dev = true → s.dev.tw.rebase = none → s.dev.tw.held = [] →
      s.dev.tw.numbers.contains (64, (s.dev.cmt.latest + 1) % 2 ^ 32) = false → s.dev.cmt.queue = g :: rest →
      batchOf s.dev g = some b → ringSwitching s.dev b = false →
      let v := (s.dev.cmt.latest + 1) % 2 ^ 32
      let wait (n : Nat) := if b.internal then s.dev else stallBegin s.tim s.dev b.part b.ring b.desc n
      let early := s.dev.tw.hold = true ∨ attached s.dev = true ∧ s.dev.tw.numbers.contains (g, v) = false
      let poor := s.dev.cmt.credits = 0 ∨ b.internal = false ∧ partCredit s.dev b.part = false
      let d := takeCredits s.dev b
      let d := if b.internal then d else stallEnd s.tim d b.part b.ring b.desc
      let d := { d with cmt := { d.cmt with queue := rest } }
      (early → exec .versionAssign s = .next (settled s (wait 3)))
      ∧ (¬ early → poor → exec .versionAssign s = .next (settled s (wait 2)))
      ∧ (¬ early → ¬ poor → exec .versionAssign s = .next (settled s (assignVersion
          (setTw d { d.tw with numbers := d.tw.numbers.filter (fun x => x.1 != g) }) v (some g)))))
    ∧ (∀ x, findFirst (fun x => !x.resolved) s.dev.cmt.switches = some x → exec .tagResolveAck s
      = .next (settled s { s.dev with cmt := { s.dev.cmt with
          switches := mapIf (fun y => y.version == x.version) (fun y => { y with resolved := true }) s.dev.cmt.switches } }))
    ∧ (∀ u x, u < 72 → findFirst (fun x => x.units.contains u) s.dev.cmt.switches = some x → x.resolved = true →
      exec (.sliceAdopt u) s = .next (settled s (adopt { s.dev with cmt := { s.dev.cmt with
        switches := mapIf (fun y => y.version == x.version) (fun y => { y with units := y.units.filter (fun z => z != u) })
          s.dev.cmt.switches } } u x.version)))
    ∧ (∀ x rest, s.dev.cmt.switches = x :: rest → x.resolved = true → x.units.any (fun u => !unitAway s.dev u) = false →
      let d := count (wr (memSet { s.dev with cmt := { s.dev.cmt with switches := rest } } .verTick 0 (verCurrent s.dev % 8) s.tim.tick)
        cmtBlk .verCurrent x.version) (Ev.plain .cmt 0) 0 0 0 0
      let d := match d.tw.acks.find? (fun a => a.1 == x.version) with
        | some a => setTw (send d (.cersa (.commitAck a.1 a.2))) { d.tw with acks := d.tw.acks.filter (fun y => y.1 != a.1) }
        | none => d
      let d := match x.tag.bind (batchOf d) with
        | some b => batchCurrent s.tim d b
        | none => d
      let d := if d.tw.cut = some x.version then cutDone s.tim d x.version else d
      exec .switchComplete s = .next (settled s (retireLoop 8 s.tim (cmtDown s.tim (ackDetach d)))))
    ∧ (∀ t d b, b.internal = false → batchCurrent t d b = commitCurrent (commitBases d b.tag) b)
    ∧ (∀ d b, b.joint = false →
      let e := endChanges d b 0 1 b.version
      e.tw.source.contains b.part = false → attached e = false →
      commitCurrent d b = completeDesc e b.part b.ring b.desc 0 (cmtWord 0 0 false false (okCount b) b.version))
    ∧ exec .commitCreditRefill s = .next (settled s { s.dev with cmt := { s.dev.cmt with
        credits := min (max 1 (rdF s.dev cmtBlk .cmtCfg 31 28)) (s.dev.cmt.credits + 1) } })
    ∧ (∀ p, p < 4096 → exec (.partitionCreditRefill p) s = .next (settled s (setPart s.dev p { part s.dev p with
        credits := min (max 1 (fld (part s.dev p).budget 23 20)) ((part s.dev p).credits + 1) })))

/-- The four commit descriptors (R109, R115 to R119, R121): a change joins the open batch of its ring, or opens one with a
free tag, and starts, with the result of its evaluation as its own result: done, and its staged word written; a table
status; a command status; or it waits, as it does when every tag is taken. A commit of an open batch queues it, and stalls
when something holds it back; a batch whose staged words cannot be read, or an ALL batch with a failed change, is discarded.
An abort discards the batch and completes with OK; a drain waits for its version. While CMT is ON, a ring of a frozen
partition gets FROZEN for each. What rests on the model's choices is that of log entries 46, 47, 48, 102, 149 and 150. -/
def Obligations.CommitDescriptorsComplete : Prop :=
  ∀ (s : State) (p r : Nat) (c : Desc), p < 4096 → r < 16 → isOn s.dev cmtBlk = true →
    (frozenFor s.dev p = true →
      (∀ img, nextOp s.dev p r 0x20 = some c →
        exec (.tblChange p r img) s = .next (settled s (completeDesc s.dev p r c.n 0 (cmtWord 3 0 false false 0 0))))
      ∧ (nextOp s.dev p r 0x21 = some c →
        exec (.tblCommit p r) s = .next (settled s (completeDesc s.dev p r c.n 0 (cmtWord 3 0 false false 0 0))))
      ∧ (nextOp s.dev p r 0x22 = some c →
        exec (.tblAbort p r) s = .next (settled s (completeDesc s.dev p r c.n 0 (cmtWord 3 0 false false 0 0))))
      ∧ (nextOp s.dev p r 0x23 = some c →
        exec (.verDrain p r) s = .next (settled s (completeDesc s.dev p r c.n 0 (cmtWord 3 0 false false 0 0)))))
    ∧ (frozenFor s.dev p = false →
      (∀ img b d, nextOp s.dev p r 0x20 = some c →
        (openBatch s.dev p r = some b ∧ d = s.dev) ∨ (openBatch s.dev p r = none ∧ ∃ g, freeTag s.dev = some g
          ∧ b = freshBatch g p r false ∧ d = { s.dev with cmt := { s.dev.cmt with batches := s.dev.cmt.batches ++ [b] } }) →
        let d := touchDirs s.tim d c.words
        let start (d : Dev) (b : Batch) := startDesc (setBatch (stallEnd s.tim d p r c.n) b) p r c.n
        exec (.tblChange p r img) s = .next (settled s (if maxBatch s.dev ≤ b.count then start d { b with changes := b.changes ++ [⟨c.n, 24⟩] }
          else match evalChange s.tim d b.tag p c.words (changeImage c.words img) with
            | .wait => stallBegin s.tim d p r c.n 5
            | .ok e => start (writeWord e cmtBlk 0 (stageWord b.tag b.changes.length))
                { b with changes := b.changes ++ [⟨c.n, 1⟩], count := b.count + 1, log := b.log ++ [⟨c.words, img⟩] }
            | .tbl n => start d { b with changes := b.changes ++ [⟨c.n, n⟩], count := b.count + 1 }
            | .cmd n => start (if n = 7 then errFault s.tim d cmtBlk 1 16 0 0 else d) { b with changes := b.changes ++ [⟨c.n, 16 + n⟩] })))
      ∧ (∀ img, nextOp s.dev p r 0x20 = some c → openBatch s.dev p r = none → freeTag s.dev = none →
        exec (.tblChange p r img) s = .next (settled s (stallBegin s.tim s.dev p r c.n 4)))
      ∧ (∀ b, nextOp s.dev p r 0x21 = some c → fld (dw c 1) 60 0 = 0 → (∀ i ∈ upto 2 6, dw c i = 0) →
        openBatch s.dev p r = some b →
        let x := readWords s.tim s.dev cmtBlk 0 (stageWords b)
        let finish (d : Dev) (w : Nat) := completeDesc d p r c.n 0 w
        let lost := x.1 = true ∨ bit (dw c 1) 61 = true ∧ b.changes.any (fun y => y.tbl ≠ 1) = true
        let e := startDesc (queueBatch x.2 { b with desc := c.n, repl := replMode x.2 p (dw c 1), allOrNone := bit (dw c 1) 61 }) p r c.n
        (lost → exec (.tblCommit p r) s = .next (settled s (finish (discardBatch s.tim x.2 b 1) (cmtWord 1 0 false false 0 0))))
        ∧ (¬ lost → okCount b = 0 → exec (.tblCommit p r) s
          = .next (settled s (finish (discardBatch s.tim x.2 b 0) (cmtWord 0 0 false true 0 (verCurrent x.2)))))
        ∧ (¬ lost → okCount b ≠ 0 → exec (.tblCommit p r) s
          = .next (settled s (if waitReason x.2 p = 0 then e else stallBegin s.tim e p r c.n (waitReason x.2 p)))))
      ∧ (nextOp s.dev p r 0x21 = some c → fld (dw c 1) 60 0 = 0 → (∀ i ∈ upto 2 6, dw c i = 0) → openBatch s.dev p r = none →
        exec (.tblCommit p r) s = .next (settled s (completeDesc s.dev p r c.n 0 (cmtWord 0 0 false true 0 (verCurrent s.dev)))))
      ∧ (nextOp s.dev p r 0x22 = some c →
        exec (.tblAbort p r) s = .next (settled s (completeDesc (match openBatch s.dev p r with
          | some b => discardBatch s.tim s.dev b 1
          | none => s.dev) p r c.n 0 (cmtWord 0 0 false false 0 0))))
      ∧ (nextOp s.dev p r 0x23 = some c → fld (dw c 1) 63 32 = 0 → (∀ i ∈ upto 2 6, dw c i = 0) →
        exec (.verDrain p r) s = .next (settled s (startDesc { s.dev with cmt := { s.dev.cmt with
          drainWaits := s.dev.cmt.drainWaits ++ [(p, r, c.n, fld (dw c 1) 31 0)] } } p r c.n))))

/-- Numbers and commits of a pair (R122, R123, R315): role A grants the next number; role B gives a number to its first
batch without one; an attached or detaching device holds a commit that arrives, a commit for a partition being synced in
keeps its changes to be replayed, and one that finds no room in the buffer is held without its changes; and an
acknowledgement ends the wait of a commit, with UNREPLICATED as its result says when the commit was synchronous. What rests
on the model's choices is that of log entry 102. -/
def Obligations.TwinNumbersAndCommits : Prop :=
  ∀ s : State, isOn s.dev cslBlk = true →
    (twinState s.dev = 4 → roleB s.dev = false →
      exec .numberRequest s = .next (settled s (setTw (send s.dev (.cersa (.numberGrant ((s.dev.tw.seq + 1) % 2 ^ 32))))
        { s.dev.tw with seq := (s.dev.tw.seq + 1) % 2 ^ 32 })))
    ∧ (∀ v, twinState s.dev = 4 → roleB s.dev = true → 0 < s.dev.tw.asked →
      exec (.numberGrant v) s = .next (settled s (setTw s.dev { s.dev.tw with
        asked := s.dev.tw.asked - 1
        numbers := s.dev.tw.numbers ++
          [((findFirst (fun g => !s.dev.tw.numbers.any (fun x => x.1 == g)) s.dev.cmt.queue).getD 64, v)] })))
    ∧ (∀ v p l lost, p < 4096 → twinState s.dev = 4 ∨ twinState s.dev = 5 →
      let a : Arrived := ⟨v, p, l, lost || !replRoom s.dev (commitSize l)⟩
      (s.dev.tw.sink.contains p = true → exec (.replicatedCommit v p l lost) s = .next (settled s (setTw s.dev { s.dev.tw with
        replay := if l = [] then s.dev.tw.replay else s.dev.tw.replay ++ [a]
        held := s.dev.tw.held ++ [{ a with changes := [] }] })))
      ∧ (s.dev.tw.sink.contains p = false → l ≠ [] ∨ lost = true ∨ s.dev.tw.source.contains p = false →
        exec (.replicatedCommit v p l lost) s = .next (settled s (setTw s.dev { s.dev.tw with held := s.dev.tw.held ++ [a] }))))
    ∧ (∀ v ok x, findFirst (fun x => x.version == v) s.dev.tw.sent = some x →
      let d := setTw s.dev { s.dev.tw with sent := eraseFirst (fun y => y == x) s.dev.tw.sent }
      (x.sync = true → exec (.replicationAck v ok) s = .next (settled s
        (ackDetach (completeDesc d x.part x.ring x.desc 0 (cmtWord 0 0 (!ok) false x.okc v)))))
      ∧ (x.sync = false → exec (.replicationAck v ok) s = .next (settled s (ackDetach d))))

/-- The pair's link (R309, R310, R318, R320): a HELLO that agrees makes the pair PAIRED over its width; training that takes
too long leaves DOWN with cause 7; a heartbeat goes out in every state from PAIRED on; one that says the partner stopped, a
silence, or a lost ALIVE makes the pair LOST; edges, retries and retraining are noted. What rests on the model's choices is
that of log entry 99. -/
def Obligations.TwinLinkComplete : Prop :=
  ∀ s : State,
    (∀ h w, twinState s.dev = 1 ∨ twinState s.dev = 7 → isOn s.dev cslBlk = true → w = 4 ∨ w = 8 →
      let d := send s.dev (.cersa (.hello (ourHello s.dev)))
      clash (ourHello d) h = 0 →
      exec (.hello h w) s = .next (settled s (wrF (wrF d cslBlk .cslState 2 0 2) cslBlk .cslState 19 16 w)))
    ∧ (twinState s.dev = 1 → isOn s.dev cslBlk = true → exec .trainingTimeout s = .next (settled s
        (errFault s.tim (wrF (wrF s.dev cslBlk .cslState 2 0 0) cslBlk .cslState 11 8 7) cslBlk 0 15 1 0)))
    ∧ (2 ≤ twinState s.dev → isOn s.dev cslBlk = true → s.dev.flt.stopped = false → exec .heartbeatSend s = .next (settled s
        (send s.dev (.cersa (.heartbeat ⟨twinState s.dev, verCurrent s.dev, fltLevel s.dev, rdF s.dev (devBlk .flt) .fltCrustCtrl 1 0⟩)))))
    ∧ (∀ h, h.level = 4 → isOn s.dev cslBlk = true → 2 ≤ twinState s.dev → twinState s.dev ≤ 5 →
      exec (.heartbeat h) s = .next (settled s (twinLoss s.tim s.dev 4)))
    ∧ (2 ≤ twinState s.dev → twinState s.dev ≤ 5 →
      let d := endPair s.tim (endSent s.dev)
      let d := wrF (if d.tw.xfer then imageEnd s.tim d true else d) cslBlk .cslState 19 16 0
      exec .twinAliveLoss s = .next (settled s (enterTwin s.tim d 7 1))
      ∧ exec .heartbeatTimeout s = .next (settled s (enterTwin s.tim d 7 2)))
    ∧ exec .twinAliveEdge s = .next (settled s (setTw s.dev { s.dev.tw with edge := !s.dev.tw.edge }))
    ∧ (isOn s.dev cslBlk = true → exec (.flitRetry false) s = .next (settled s (count s.dev (Ev.plain .csl 0) 0 0 0 0))
      ∧ exec (.flitRetry true) s = .next (settled s (errFault s.tim (count s.dev (Ev.plain .csl 0) 0 0 0 0) cslBlk 1 15 1 0)))
    ∧ (∀ w, 2 ≤ twinState s.dev → twinState s.dev ≤ 6 → isOn s.dev cslBlk = true → w = 4 ∨ w = 8 →
      exec (.cslRetrainDone w) s = .next (settled s (wrF s.dev cslBlk .cslState 19 16 w)))

/-- Bulk sync (R311 to R313, R316): ATTACH of a pair turns it SYNCING and, at the source, scans the partitions that are
replicated; RESYNC scans one again, or reports one that may not replicate; a sink keeps the records of the partitions that
it may replicate, and its batch commit builds the partition anew from them: it queues the batch, waits, or reports the
partition; and cut-over, with nothing left to sync, gives the version that this device has and how far it has to advance.
What rests on the model's choices is that of log entries 49, 97, 98, 101, 102 and 147. -/
def Obligations.TwinSyncComplete : Prop :=
  ∀ s : State,
    (∀ p, p < 4096 → Open s.dev cslBlk → isOn s.dev cslBlk = true → cslBusy s.dev = false →
      let e (op : Nat) := wr s.dev cslBlk .cslCmd (written s cslBlk .cslCmd ((if op = 3 then p else 0) <<< 16 + op) % 2 ^ 63)
      (twinState s.dev = 2 ∨ twinState s.dev = 6 →
        let d := send (wrF (e 1) cslBlk .cslState 2 0 3) (.cersa .attach)
        exec .attach s = .next (settled s (if syncSource d then ((knownParts d).filter (mayReplicate d)).foldl scanPart d else d)))
      ∧ (twinState s.dev = 4 →
        exec (.resync p) s = .next (settled s (if mayReplicate (e 3) p then scanPart (send (e 3) (.cersa (.resync p))) p
          else twinPart s.tim (e 3) p 1))))
    ∧ (∀ r, sinkSide s.dev = true → mayReplicate s.dev r.part = true ∨ s.dev.tw.sink.contains r.part = true →
      let d := sinkStart s.tim s.dev r.part
      exec (.syncRecord r) s = .next (settled s (setTw d { d.tw with recs := d.tw.recs ++ [r] })))
    ∧ (∀ p, p < 4096 → sinkSide s.dev = true →
      (mayReplicate s.dev p = false → exec (.syncBatchCommit p) s = .next (settled s (sinkFail s.tim s.dev p)))
      ∧ (mayReplicate s.dev p = true →
        let d := sinkStart s.tim s.dev p
        exec (.syncBatchCommit p) s = .next (settled s (match openInternal d p ringSync with
          | none => d
          | some (b, d1) =>
            let d1 := (openEntries d1 b.tag p).foldl (fun d e => markDies s.tim d b.tag e) d1
            match evalAll s.tim b.tag p ((d.tw.recs.filter (fun r => r.part == p)).map (fun r => r.change)) d1 with
            | .ok d2 =>
              let d2 := queueBatch d2 b
              setTw d2 { d2.tw with recs := d2.tw.recs.filter (fun r => r.part != p), built := p :: d2.tw.built }
            | .wait => d
            | _ => sinkFail s.tim d p))))
    ∧ (∀ theirs, twinState s.dev = 3 → isOn s.dev cslBlk = true → s.dev.tw.hold = false → s.dev.tw.sink = [] → s.dev.tw.recs = [] →
      s.dev.cmt.switches = [] →
      let v := verCurrent s.dev
      let m := if verLe v theirs then theirs else v
      exec (.cutOver theirs) s = .next (settled s (setTw (send s.dev (.cersa (.version v))) { s.dev.tw with
        hold := true, rebase := some (if v = m then 0 else (m + 2 ^ 32 - v) % 8, (m + 1) % 2 ^ 32) })))

/-- The end of a pair, and image transfers (R320, R322): DETACH tells the partner and starts the detach; a partner's does
too; the acknowledgement is noted, and the detach ends with it once nothing is owed; a late one is a loss; a transfer sends
its area, if the area holds that much and no save or restore uses it, and is busy until it is done, with the words of the
area that could not be read in its result; an area that arrives is stored and counted. What rests on the model's choices is
that of log entries 99, 145 and 161. -/
def Obligations.TwinDetachAndTransfer : Prop :=
  ∀ s : State,
    (Open s.dev cslBlk → cslBusy s.dev = false →
      let e (op : Nat) := wr s.dev cslBlk .cslCmd (written s cslBlk .cslCmd op % 2 ^ 63)
      let w := rd s.dev cslBlk .cslXfer
      (twinState s.dev = 4 → isOn s.dev cslBlk = true →
        exec .detach s = .next (settled s (startDetach (send (e 2) (.cersa (.detach false))))))
      ∧ (2 ≤ twinState s.dev → fld w 31 0 ≤ areaKib s.dev (fld w 58 56) → areaBusy s.dev (fld w 58 56) = false →
        let d := wr (send (e 4) (.cersa (.image (fld w 50 48) (fld w 31 0)))) cslBlk .cslXferStat 0
        exec .xfer s = .next (settled s (setTw d { d.tw with xfer := true }))))
    ∧ (twinState s.dev = 4 → isOn s.dev cslBlk = true → exec (.detachMessage false) s = .next (settled s (startDetach s.dev)))
    ∧ (3 ≤ twinState s.dev → twinState s.dev ≤ 5 → isOn s.dev cslBlk = true → exec (.detachMessage true) s
      = .next (settled s (enterTwin s.tim (endPair s.tim (endSent s.dev)) 6 6)))
    ∧ (twinState s.dev = 5 → isOn s.dev cslBlk = true →
      (s.dev.tw.leaving = true → exec .detachAck s = .next (settled s (setTw s.dev { s.dev.tw with acked := true })))
      ∧ exec .detachTimeout s = .next (settled s (twinLoss s.tim s.dev 2)))
    ∧ (∀ kib fault area data, 2 ≤ twinState s.dev → twinState s.dev ≤ 7 →
      let w := rd s.dev cslBlk .cslXfer
      let x := readSpan s.tim s.dev (stackFor s.dev (fld w 58 56)) 0 (imageWord s.dev (fld w 58 56)) (128 * fld w 31 0) (some 1)
      let e := writeSpan s.dev (stackFor s.dev (area % 8)) 0 (imageWord s.dev (area % 8)) (ceilDiv data.length 8)
      let d := imageEnd s.tim { e with images := SMap.set [] e.images (area % 8) (if fault then [] else data) } fault
      (s.dev.tw.xfer = true → data = [] → exec (.xferDone kib fault area data) s
        = .next (settled s (imageEnd s.tim (wrF x.2 cslBlk .cslXferStat 31 0 kib) (fault || x.1 ≠ []))))
      ∧ (s.dev.tw.xfer = false ∨ data ≠ [] → exec (.xferDone kib fault area data) s
        = .next (settled s (setTw d { d.tw with xfer := e.tw.xfer }))))

/-- Commands of PART_CMD (R287, R289, R295, R296, R298 to R302, R304, R305): a command that the partition's state allows is
accepted with status 0 in PART_CMD_RES, and has its effect; FREEZE, SAVE and RESTORE want Crust mode OFF; and a CREATE whose
ranges or resources do not fit ends with the status that says so. What rests on the model's choices is that of log entries
33, 123, 124, 148, 162 and 164. -/
def Obligations.PartitionCommandsAreAccepted : Prop :=
  ∀ (s : State) (p : Nat), p < 4096 → p ≠ 0 → Open s.dev partBlk →
    let e (op : Nat) := touch s.tim (partResult (wr (wr s.dev partBlk .partCmd (written s partBlk .partCmd (p <<< 16 + op)))
      partBlk .partCmd (p <<< 16 + op)) false 0 op p) partBlk 0 (partWord p 15)
    let x := part s.dev p
    (x.st = 0 → createCheck s.dev p = 0 → exec (.create p) s = .next (settled s
        (partEnd s.tim (zeroPartCtrs (setPart (e 1) p { part (e 1) p with st := 1 }) p) 0 1 p)))
    ∧ (x.st = 0 → createCheck s.dev p ≠ 0 →
      exec (.create p) s = .next (settled s (partEnd s.tim (e 1) (createCheck s.dev p) 1 p)))
    ∧ (x.st = 5 →
      let d := (ownPorts (e 2) p).foldl (fun d l => writeEnable s.tim d ⟨.mac, l⟩ false) (e 2)
      ((part d p).purging = true → exec (.delete p) s = .next (settled s d))
      ∧ ((part d p).purging = false → exec (.delete p) s = .next (settled s
          (purgeBatch s.tim (setPart d p { part d p with purging := true, found := 200 }) p))))
    ∧ (x.st = 1 → exec (.quiesce p) s = .next (settled s
        (stopRings (setPart (e 3) p { part (e 3) p with st := 2 }) p 3 false)))
    ∧ (x.st = 1 ∨ x.st = 2 ∨ x.st = 3 ∨ x.st = 6 →
      let y := part (e 4) p
      let drain := bit y.rst 0
      let d := if y.st = 6 then dropDeltas (e 4) p else e 4
      let d := setPart d p { y with st := 4, saving := false, job := [], imgHead := none, found := 0, run := some ⟨!drain, false⟩ }
      let d := endBatches s.tim (partUndo s.tim (stopRings d p 3 false) p) (fun q => q == p) 2
      let d := partHeld s.tim d p
      exec (.reset p) s = .next (settled s (if drain then d else partFlush s.tim d p)))
    ∧ (x.st = 3 ∨ x.st = 5 →
      exec (.start p) s = .next (settled s (resumeRings (setPart (e 5) p { part (e 5) p with st := 1 }) p)))
    ∧ (crustState s.dev = 0 → x.st = 1 → x.folding = false → exec (.freeze p) s = .next (settled s
        (endBatches s.tim (setPart (e 6) p { part (e 6) p with st := 6, frozenVer := verCurrent (e 6) }) (fun q => q == p) 3)))
    ∧ (crustState s.dev = 0 → x.st = 6 → x.saving = false → exec (.save p) s = .next (settled s (partSave (e 7) p)))
    ∧ (crustState s.dev = 0 → x.st = 0 ∨ (x.st = 6 ∧ x.saving = false) → ∀ img, exec (.restore p img) s = .next (settled s
        (partRestore s.tim (touch s.tim (partResult (wr (wr s.dev partBlk .partCmd (p <<< 16 + 8)) partBlk .partCmd (p <<< 16 + 8))
          false 0 8 p) partBlk 0 (partWord p 15)) p img)))
    ∧ (x.st = 6 → x.saving = false →
      exec (.thaw p) s = .next (settled s (setPart (e 9) p { part (e 9) p with st := 1, folding := true })))

/-- What runs on after a command ends (R295, R296, R299, R301, R302, R304): a quiesced partition has nothing left and its
rings are stopped for good; a reset flushes what DRAIN_US left, is noted as slow once, and ends STOPPED; a purge, a save, a
restore and a fold end with FINAL and the manager's event once their batches have ended and the stacks that they use are ON,
and a failed one with its status. What rests on the model's choices is that of log entries 24, 43, 122, 123, 124, 126, 145,
161, 164 and 165. -/
def Obligations.PartitionWorkEnds : Prop :=
  ∀ (s : State) (p : Nat), p < 4096 →
    let x := part s.dev p
    (x.st = 2 → partWork s.dev p = false → partDescs s.dev p = false → exec (.quiesced p) s = .next (settled s
        (partEnd s.tim (stopRings (setPart (drainWrites s.dev p) p { part s.dev p with st := 3 }) p 3 true) 0 3 p)))
    ∧ (∀ r, x.run = some r →
      (exec (.drainUsExpiry p) s = .next (settled s
        (partFlush s.tim (setPart s.dev p { x with run := some { r with drained := true } }) p)))
      ∧ (r.slow = false → exec (.resetSlow p) s = .next (settled s
        (errFault s.tim (setPart s.dev p { x with run := some { r with slow := true } }) partBlk 0 22 0 0)))
      ∧ (let d := partHeld s.tim (if r.drained then partFlush s.tim s.dev p else s.dev) p;
        (partWork d p = true → exec (.resetDone p) s = .next (settled s d))
        ∧ (partWork d p = false → partDescs (abortDescs d p) p = true →
          exec (.resetDone p) s = .next (settled s (abortDescs d p)))
        ∧ (partWork d p = false → partDescs (abortDescs d p) p = false →
          let d := stopRings (drainWrites (abortDescs d p) p) p 3 true
          exec (.resetDone p) s = .next (settled s (partEnd s.tim (setPart d p { part d p with st := 5, run := none }) 0 4 p)))))
    ∧ (x.purging = true →
      let d := if x.found = 200 || (x.found = 201 && noBatch s.dev p ringPurge) then purgeBatch s.tim s.dev p else s.dev
      let busy := (ownPorts d p).any (fun l => (blkSt d ⟨.mac, l⟩).cur != 0)
      ((part d p).found = 202 → busy = false →
        exec (.purgeDone p) s = .next (settled s (partEnd s.tim (purgeRest d p) 0 2 p)))
      ∧ ((part d p).found ≠ 202 ∨ busy = true → exec (.purgeDone p) s = .next (settled s d)))
    ∧ (x.saving = true → crustState s.dev = 0 → stacksReady s.dev p (if x.job.headD 0 = 1 then [x.job.getD 1 0] else []) = true →
      let kind := x.job.getD 2 0
      let v := saveViews s.tim s.dev p kind
      let l := buildImage s.tim v.1 p kind
      let kib := ceilDiv l.length 1024
      let d := setPart v.2 p { x with saving := false, job := [] }
      let small := x.job.headD 0 = 1 ∧ areaKib d (x.job.getD 1 0) < kib
      (¬ small → exec (.saveDone p true) s = .next (settled s
        (partEnd s.tim (wrF (putImage d x.job l) partBlk .partImgCtrl 31 0 kib) 0 7 p)))
      ∧ (small → exec (.saveDone p true) s = .next (settled s (partEnd s.tim d 12 7 p)))
      ∧ exec (.saveDone p false) s = .next (settled s (partEnd s.tim d 13 7 p)))
    ∧ (x.imgHead.isSome = true → crustState s.dev = 0 → ∀ o,
      let goes (d : Dev) := exec (.restoreDone p o) s = .next (settled s d)
      (o = 13 → x.found ≠ 201 → x.found ≠ 202 → goes (restoreEnd s.tim s.dev p 13))
      ∧ (o ≠ 13 → x.found < 16 → goes (restoreEnd s.tim s.dev p x.found))
      ∧ (o ≠ 13 ∨ x.found = 201 ∨ x.found = 202 → 16 ≤ x.found → x.st = 7 →
        let d := if x.found = 200 || (x.found = 201 && noBatch s.dev p ringRestore) then restoreTables s.tim s.dev p else s.dev
        let y := part d p
        (y.found = 202 → stacksReady d p [] = true →
          let d := applyRegs s.tim d p (restoreSects d p (restoreImage x))
          goes (partEnd s.tim (setPart d p { part d p with
            st := 6, imgHead := none, found := 0, mode := bit (imgWord (restoreImage x) 0) 3,
            imageId := fld (imgWord (restoreImage x) 1) 63 32, frozenVer := verCurrent d }) 0 8 p))
        ∧ (y.found < 16 → goes (restoreEnd s.tim d p y.found))
        ∧ (16 ≤ y.found → y.found ≠ 202 ∨ stacksReady d p [] = false → goes d))
      ∧ (o = 13 → x.found = 202 → x.st = 6 → goes (restoreEnd s.tim s.dev p 13))
      ∧ (o ≠ 13 → x.found = 202 → x.st = 6 → stacksReady s.dev p [] = true →
        goes (restoreEnd s.tim (addDeltas s.dev p (restoreSects s.dev p (restoreImage x))) p 0)))
    ∧ (let held (a : Machine.Acc) : Bool := a.delta && a.part == p
      let waits := (s.dev.fc.acc ++ s.dev.fc.flush).filter held
      x.folding = true → crustState s.dev = 0 → x.imgHead.isSome = false →
      (∀ e ∈ s.dev.fc.deltas, inRange s.dev p 3 (e.1 % 2 ^ 24) = true → isOn s.dev (stackFor s.dev (e.1 / 2 ^ 24)) = true) →
      (∀ a ∈ waits, isOn s.dev (stackFor s.dev a.cluster) = true) →
      let d := (upto 0 8).foldl (fun d c => (foldIxs d p c).foldl (foldOne s.tim c) d) s.dev
      let d := waits.foldl (fun d a => addCtr s.tim d a.cluster a.index false a.pkts a.bytes) d
      let d := setFc d { d.fc with acc := d.fc.acc.filter (fun a => !held a), flush := d.fc.flush.filter (fun a => !held a) }
      exec (.foldDone p) s = .next (settled s (partEnd s.tim (setPart d p { part d p with folding := false }) 0 9 p)))

/-- SET_MODE (R149, R305) changes the mode at once and begins the transition of the frames that are in hand, which ends once
none of them is on its way through the stages that the mode concerns: TRANS is 0 and the manager has its event. Owners and
ranges (R284, R285, R299): a queue of which none is valid, or a port that is OFF, takes its owner; a range of the selected
partition is stored where it fits and, but for programs, meets no other's; partition 0 has none. What rests on the model's
choices is that of log entries 123 and 162. -/
def Obligations.ModesOwnersAndRangesComplete : Prop :=
  (∀ (s : State) (p : Nat), p < 4096 →
     (∀ m : Bool, Open s.dev partBlk → crustState s.dev = 0 → (part s.dev p).st = 1 ∨ (part s.dev p).st = 6 →
       (part s.dev p).trans = false →
       let w := b2n m <<< 28 + p <<< 16 + 10
       let e := touch s.tim (partResult (wr (wr s.dev partBlk .partCmd (written s partBlk .partCmd w)) partBlk .partCmd w)
         false 0 10 p) partBlk 0 (partWord p 15)
       let d := setPart e p { part e p with mode := m, trans := true }
       exec (.setMode p m) s = .next (settled s (setFp d { d.fp with
         frames := mapIf (fun f => mPart f.sect == p && f.stage ≠ 0 && !f.gone) (fun f => { f with pre := true }) d.fp.frames })))
     ∧ ((part s.dev p).trans = true →
       (∀ f ∈ s.dev.fp.frames, mPart f.sect = p → f.gone = false →
         f.launch = 0 ∧ f.verdict = 0 ∧ (f.pre = true → f.stage ≠ 1 ∧ f.adm = 0 ∧ f.rob = false)) →
       exec (.transitionEnd p) s = .next (settled s (partEnd s.tim (setPart s.dev p { part s.dev p with trans := false }) 0 10 p))))
  ∧ (∀ (s : State) (w : Word), Open s.dev partBlk →
       (let b := rdF s.dev partBlk .partQownAddr 13 0;
         (upto (64 * b) 64).any (fun q => bit (rawQueue s.dev q) 63) = false →
         exec (.ownershipWrite true w) s = .next (settled s
           (writeWord (memSet s.dev .partQown 0 b (written s partBlk .partQownData w.toNat % 4096)) partBlk 1 (1024 + b))))
       ∧ (let l := rdF s.dev partBlk .partPortAddr 9 0
         (blkSt s.dev ⟨.mac, l⟩).cur = 0 →
         exec (.ownershipWrite false w) s = .next (settled s
           (writeWord (memSet s.dev .partPort 0 l (written s partBlk .partPortData w.toNat % 4096)) partBlk 1 l)))
       ∧ (∀ k : RangeKind,
         let p := rdF s.dev partBlk .partSel 11 0
         let d := writeWord s.dev partBlk 0 (partWord p (5 + k.ctorIdx))
         let u := (written s partBlk (rangeReg k) w.toNat).land (rwMask (rangeReg k))
         let lo := fld u 31 0
         let n := fld u 63 32
         (p = 0 → exec (.rangeWrite k w) s = .next (settled s d))
         ∧ (p ≠ 0 → lo + n ≤ rangeSize k →
           k = .prg ∨ (∀ e ∈ d.parts, e.1 ≠ p → e.1 ≠ 0 → e.2.st ≠ 0 → n = 0
             ∨ fld (rangeOf d e.1 k.ctorIdx) 63 32 = 0
             ∨ overlap lo n (fld (rangeOf d e.1 k.ctorIdx) 31 0) (fld (rangeOf d e.1 k.ctorIdx) 63 32) = false) →
           exec (.rangeWrite k w) s = .next (settled s (setPart d p { part d p with
             ranges := (part d p).ranges.set k.ctorIdx u })))))

/-- Descriptors of a ring (R367, R368, R373): the hub fetches the descriptor at HEAD of a live ring that has one, and one of
no known opcode, or with a reserved bit, completes at once with its status, as a NOP does; PKT_SEND that passes its checks
starts by reading its frame, one that does not completes with the check's status, and a frame that was read completes it
with status 0, or with 1 where the pool refuses it. Records and faults of rings (R365, R370): an interrupt timer that is due
raises the ring's vector; a DMA fault sets its ERR bit of PCI, is reported as class 14, and stops the ring that it met with
its cause. What rests on the model's choices is that of log entries 33, 50, 66, 67, 68, 81, 82, 139 and 140. -/
def Obligations.DescriptorsAndRingFaultsComplete : Prop :=
  (∀ (s : State) (p r : Nat), p < 4096 → r < 16 →
     (∀ w : List Word, w.length = 8 →
       let x := ring s.dev .command p r
       let c : Desc := ⟨x.head, (w.map BitVec.toNat).take 8, false, none⟩
       let d := setRing s.dev .command p r { x with head := (x.head + 1) % 2 ^ 32, descs := x.descs ++ [c] }
       x.live = true → fetching s.dev p = true → x.head ≠ x.tail →
       (knownOp (opOf c.words) = true → fld (c.words.headD 0) 53 32 = 0 → exec (.descriptorFetch p r w) s = .next (settled s d))
       ∧ (knownOp (opOf c.words) = false → exec (.descriptorFetch p r w) s = .next (settled s (completeDesc d p r c.n 1 0)))
       ∧ (knownOp (opOf c.words) = true → fld (c.words.headD 0) 53 32 ≠ 0 →
         exec (.descriptorFetch p r w) s = .next (settled s (completeDesc d p r c.n 2 0))))
     ∧ (∀ c, nextOp s.dev p r 0x00 = some c → exec (.nop p r) s = .next (settled s (completeDesc s.dev p r c.n 0 0)))
     ∧ (∀ c, nextOp s.dev p r 0x10 = some c →
       (pktCheck s.dev p c = 0 → exec (.pktSend p r) s = .next (settled s
         (send (startDesc s.dev p r c.n) (.dmaRead p (dmaPasid s.dev p) (dw c 2 / 8 * 8) (pktLen c)))))
       ∧ (pktCheck s.dev p c ≠ 0 →
         exec (.pktSend p r) s = .next (settled s (completeDesc s.dev p r c.n 0 (pktCheck s.dev p c <<< 60)))))
     ∧ (∀ c data, runningOp s.dev p r 0x10 = some c → crustState s.dev = 0 →
       let x := pktFrame s.tim s.dev p c data
       let y := requestCopy s.tim x.2 x.1 (pktQueue c) (pktProg c) (pktImage c) true false none
       (y.1 = none → exec (.pktSendFrameRead p r data) s = .next (settled s (completeDesc (settleFrame y.2.2 x.1.fid) p r c.n 0 0)))
       ∧ (∀ e, y.1 = some e → exec (.pktSendFrameRead p r data) s = .next (settled s (completeDesc (settleFrame
           (dropRef s.tim (countRefuse y.2.2 x.1 (pktQueue c) p e) (queueSlice (pktQueue c)) (pktProg c)) x.1.fid)
           p r c.n 0 (1 <<< 60))))))
  ∧ (∀ (s : State) (p r : Nat), p < 4096 →
       (∀ k, r < (if k = RingKind.event then 4 else 16) → bit (ring s.dev k p r).irq 63 = true → fld (ring s.dev k p r).irq 15 0 ≠ 0 →
         (ring s.dev k p r).modn ≠ 0 → exec (.irqTimer p r k) s = .next (settled s (raiseRing s.dev k p r)))
       ∧ (r < 16 → ∀ timeout : Bool,
         let d := errFault s.tim s.dev pciBlk (if timeout then 2 else 1) 14 0 0
         ((ring d .command p r).live = true → exec (.dmaFault p r .fetch timeout) s = .next (settled s (ringFault s.tim d .command p r 1)))
         ∧ ((ring d .command p r).live = false → exec (.dmaFault p r .fetch timeout) s = .next (settled s d))
         ∧ (∀ k, (ring d k p r).live = false → exec (.dmaFault p r (.record k) timeout) s = .next (settled s d))
         ∧ (∀ k, (ring d k p r).live = true → exec (.dmaFault p r (.record k) timeout) s = .next (settled s (ringFault s.tim d k p r 2)))
         ∧ exec (.dmaFault p r .transfer timeout) s = .next (settled s (transferFault s.tim d p r))))

/-- Registers of a ring (R366, R368 to R371), written through the partition's window: TAIL and HEAD move where the ring has
that many, ENABLE starts a ring anew and takes one out of service, with its open batch discarded, IRQ keeps a vector of the
partition and starts its count anew, a read of an event ring's STAT clears its drops, and a vector range is stored that its
rings' vectors allow. What rests on the model's choices is that of log entries 12, 30, 53 and 54. -/
def Obligations.RingRegistersComplete : Prop :=
  (∀ (s : State) (k : RingKind) (p r : Nat), p < 4096 → r < (if k = .event then 4 else 16) → powered s.dev = true →
    recovering s.dev = false → (part s.dev p).st ≠ 0 → r < ringsHeld s.dev p k →
    let x := ring s.dev k p r
    (∀ tail, k = .command → tail < 2 ^ 32 → tailOk x tail = true →
      exec (.doorbell p r tail) s = .next (settled s (setRing s.dev .command p r { x with tail := tail })))
    ∧ (∀ head, k ≠ .command → head < 2 ^ 32 → headOk x head = true →
      exec (.eventHeadWrite k p r head) s = .next (settled s (setRing s.dev k p r { x with head := head })))
    ∧ (∀ log2, log2 < 32 → x.enable = false → x.raw < 32 →
      exec (.ringEnable k p r log2) s = .next (settled s (setRing s.dev k p r (enableRing x log2))))
    ∧ (x.enable = true → x.raw < 32 →
      let off (d : Dev) :=
        let y := ring d k p r
        setRing d k p r { y with enable := false, stopped := true, cause := 5, descs := if y.silent then [] else y.descs }
      (k ≠ .command ∨ openBatch s.dev p r = none → exec (.ringDisable k p r) s = .next (settled s (off s.dev)))
      ∧ (∀ b, k = .command → openBatch s.dev p r = some b → (ring (discardBatch s.tim s.dev b 1) .command p r).raw = x.raw →
        exec (.ringDisable k p r) s = .next (settled s (off (discardBatch s.tim s.dev b 1)))))
    ∧ (∀ w : Word, fld w.toNat 58 48 < vecCount s.dev p → x.irq < 2 ^ 64 →
      let v := (x.irq.land ((ringMask k .irq).xor (2 ^ 64 - 1))).lor (w.toNat.land (ringMask k .irq))
      exec (.irqWrite k p r w) s = .next (settled s (setRing s.dev k p r
        { x with irq := putFld (putFld v 62 59 0) 47 32 0, modn := 0 })))
    ∧ (k = .event → exec (.eventDropsRead k p r) s = .next (settled s
        (answer (setRing s.dev k p r { x with drops := 0 }) (ringStat k x)))))
  ∧ (∀ (s : State) (w : Word), Open s.dev pciBlk →
    let p := rdF s.dev pciBlk .pciVecAddr 11 0
    let n := fld w.toNat 43 32
    fld w.toNat 10 0 + n ≤ 2048 → s.dev.rings.any (fun e => e.1 / 64 == p && e.2.enable && n ≤ fld e.2.irq 58 48) = false →
    exec (.vectorRangeWrite w) s = .next (settled s (setPart s.dev p { part s.dev p with vec := n <<< 32 + fld w.toNat 10 0 })))

/-- Power states of a slice (R325 to R328, R330, R36): an idle ACTIVE slice that may doze does; a wake that completes makes
it ACTIVE; a late wake is noted and a failed one is reported as class 18; NAP is entered with its ports quiet and left for a
wake or a port that is enabled; a slice that OFF waits for loses power once it is empty, with the copies in its queues; a
slice that sleeps or is off owes no report of a version; power back makes it ACTIVE unless the device has tripped; and its
register file goes to retention. What rests on the model's choices is that of log entries 82, 104, 106 and 144. -/
def Obligations.SlicePowerComplete : Prop :=
  ∀ (s : State) (k : Nat), k < 64 →
    (slcState s.dev k = 0 → bit (rd s.dev (slcBlk k) .slcPwr) 32 = true → bit (rd s.dev (slcBlk k) .slcPwrStat) 61 = false →
      sliceIdle s.tim s.dev k = true → exec (.dozeEntry k) s = .next (settled s (setSlcState s.dev k 1)))
    ∧ (slcState s.dev k = 1 → memGet s.dev .slcWake 0 k ≠ 0 →
      exec (.wakeComplete k) s = .next (settled s (nowActive s.dev k))
      ∧ exec (.wakeLate k) s = .next (settled s (wrF s.dev (slcBlk k) .slcPwrStat 60 60 1)))
    ∧ (memGet s.dev .slcWake 0 k ≠ 0 → exec (.wakeFail k) s = .next (settled s (errFault s.tim s.dev (slcBlk k) 0 18 1 0)))
    ∧ (rdF s.dev (slcBlk k) .slcPwr 63 62 = 1 → slcState s.dev k ≤ 1 → memGet s.dev .slcWake 0 k = 0 → portsQuiet s.dev k = true →
      offWanted s.dev k = false → sliceIdle s.tim s.dev k = true → exec (.napEntry k) s = .next (settled s (retireLoop 8 s.tim (setSlcState s.dev k 2))))
    ∧ (slcState s.dev k = 2 →
      (memGet s.dev .slcWake 0 k ≠ 0 → exec (.napExit k) s = .next (settled s (reloadSlice (nowActive s.dev k) k)))
      ∧ (memGet s.dev .slcWake 0 k = 0 → (slicePorts s.dev k).any (fun p => (blkSt s.dev ⟨.mac, p⟩).enable) = true →
        exec (.napExit k) s = .next (settled s (reloadSlice (nowActive (wrF s.dev (slcBlk k) .slcPwrStat 3 0 6) k) k))))
    ∧ (offWanted s.dev k = true → s.dev.fp.xfers.any (fun x => x.src == k && !x.dead) = false →
      s.dev.fp.frames.any (fun f => portSlice f.port == k && !f.gone && (f.stage != 2 || f.adm != 0 || f.rob)) = false →
      let d := dropCopies s.tim s.dev (fun x => x.kind != 3 && x.kind != 4 && copySlice x == k
          && (x.st != 0 || x.chain != 0 || x.spilt)) (fun d x => if x.void then d else countCopy d 6 x)
      exec (.slicePowerDown k) s = .next (settled s
        (retireLoop 8 s.tim (losePower (memSet (memSet (setSlcState d k 3) .slcReq k 0 0) .slcWake 0 k 0) k))))
    ∧ (slcState s.dev k = 3 → tripped s.dev = false → rdF s.dev (slcBlk k) .slcPwr 63 62 = 0 ∨ rdF s.dev (slcBlk k) .slcPwr 63 62 = 3 →
      exec (.slicePowerUp k) s = .next (settled s
        (reloadSlice (memSet (setSlcState (wrF s.dev (slcBlk k) .slcPwrStat 3 0 7) k 0) .slcWake 0 k 0) k)))
    ∧ exec (.registerFileRetention k) s = .next (settled s (memSet s.dev .slcReq k 1 0))

/-- Requests (R328, R330 to R332): NAP and AUTO set REQ, and AUTO ends a nap; OFF, with the slice's ports off, sets REQ and
waits; each keeps the rest of SLC_PWR as it was; SLEEP that nothing forbids drops what the stacks hold and begins the entry,
and one that something forbids stores why; RUN of a sleeping device begins the exit; entry ends with the stacks in
self-refresh and OFF, and exit with those that are enabled and neither held nor failed ON again. What rests on the model's
choices is that of log entries 103 and 105. -/
def Obligations.PowerRequestsComplete : Prop :=
  (∀ (s : State) (k : Nat), k < 64 → Open s.dev (slcBlk k) →
    let e (req : Nat) := wr s.dev (slcBlk k) .slcPwr (putFld
      (writtenHigh s (slcBlk k) .slcPwr (req <<< 30 + rdF s.dev (slcBlk k) .slcPwr 32 32)) 63 62 (rdF s.dev (slcBlk k) .slcPwr 63 62))
    exec (.napRequest k) s = .next (settled s (wrF (e 1) (slcBlk k) .slcPwr 63 62 1))
    ∧ exec (.autoRequest k) s = .next (settled s (endNap (memSet (wrF (e 0) (slcBlk k) .slcPwr 63 62 0) .slcReq k 0 0) k 7))
    ∧ (portsOff (e 2) k = true →
      let d := wrF (e 2) (slcBlk k) .slcPwr 63 62 2
      (slcState d k ≠ 3 → exec (.offRequest k) s = .next (settled s (memSet d .slcReq k 0 1)))
      ∧ (slcState d k = 3 → exec (.offRequest k) s = .next (settled s d))))
  ∧ (∀ s : State, Open s.dev pwrBlk →
    (let d := wr s.dev pwrBlk .pwrCtrl 1;
      sleepState d = 0 → sleepRefusal d = 0 → exec .sleepRequest s = .next (settled s
        ((hbmStacks (wrF d pwrBlk .pwrStat 11 8 0)).foldl (stackLost s.tim) (wrF (wrF d pwrBlk .pwrStat 11 8 0) pwrBlk .pwrStat 2 0 2))))
    ∧ (let d := wr s.dev pwrBlk .pwrCtrl 1
      sleepState d = 0 → sleepRefusal d ≠ 0 → exec .sleepRequest s = .next (settled s (wrF d pwrBlk .pwrStat 11 8 (sleepRefusal d))))
    ∧ (let d := wr s.dev pwrBlk .pwrCtrl 1
      sleepState d ≠ 0 → exec .sleepRequest s = .next (settled s d))
    ∧ (let d := wr s.dev pwrBlk .pwrCtrl 0
      (sleepState d = 3 → exec .runRequest s = .next (settled s (wrF d pwrBlk .pwrStat 2 0 4)))
      ∧ (sleepState d ≠ 3 → exec .runRequest s = .next (settled s d))))
  ∧ (∀ s : State,
    (sleepState s.dev = 2 →
      let d := (hbmStacks s.dev).foldl (fun d h => wrF (setCur d ⟨.hbm, h⟩ 0 false) ⟨.hbm, h⟩ .hbmStatus 47 47 1) s.dev
      exec .sleepEntryDone s = .next (settled s (wrF d pwrBlk .pwrStat 2 0 (if rd d pwrBlk .pwrCtrl = 0 then 4 else 3))))
    ∧ (sleepState s.dev = 4 →
      let d := (hbmStacks s.dev).foldl (fun d h =>
        if (blkSt d ⟨.hbm, h⟩).enable && !held d ⟨.hbm, h⟩ && !tripped d && memGet d .hbmRefill h 1 = 0 then
          wrF (setCur d ⟨.hbm, h⟩ 2 false) ⟨.hbm, h⟩ .hbmStatus 47 47 0 else d) s.dev
      exec .sleepExitDone s = .next (settled s (wrF d pwrBlk .pwrStat 2 0 0))))

/-- Limitur (R333, R334, R337, R342): an evaluation runs the loop that is on, of which Crust mode stops all but DOZE and
THERM, and THERM's bounds are held even while it is off; the watchdog stops the controller, sets ERR bit 0 of LIM and is
reported as class 17; a restart runs it again and is counted; a dwell that lost lock or had too many errors is logged with
reason 12; and RESTORE of a loop logs and gives back every weight, idle threshold, sampler, write cap, throttle and voltage
that it changed. What rests on the model's choices is that of log entries 30, 70, 76, 130, 131, 132, 133 and 166. -/
def Obligations.LimiturComplete : Prop :=
  ∀ s : State,
    (∀ m, limRuns s.dev = true →
      (crustState s.dev = 0 → loopMode s.dev 0 ≠ 0 → exec (.loopEvaluation 0 m) s = .next (settled s (loopSteer s.tim s.dev m)))
      ∧ (loopMode s.dev 1 ≠ 0 → exec (.loopEvaluation 1 m) s = .next (settled s (loopDoze s.tim s.dev)))
      ∧ (crustState s.dev = 0 → loopMode s.dev 2 ≠ 0 → exec (.loopEvaluation 2 m) s = .next (settled s (loopSpore s.tim s.dev)))
      ∧ (crustState s.dev = 0 → loopMode s.dev 3 ≠ 0 → exec (.loopEvaluation 3 m) s = .next (settled s (loopSpill s.tim s.dev m)))
      ∧ (loopMode s.dev 4 ≠ 0 → exec (.loopEvaluation 4 m) s = .next (settled s (loopTherm s.tim s.dev m true)))
      ∧ (crustState s.dev = 0 → loopMode s.dev 5 ≠ 0 → exec (.loopEvaluation 5 m) s = .next (settled s (loopLinkchk s.tim s.dev))))
    ∧ (∀ i m, limRuns s.dev = false ∨ loopMode s.dev i = 0 ∨ (crustState s.dev ≠ 0 ∧ i ≠ 1 ∧ i ≠ 4) →
      (i < 6 → i ≠ 4 → exec (.loopEvaluation i m) s = .next (settled s s.dev))
      ∧ (i = 4 → exec (.loopEvaluation i m) s = .next (settled s (loopTherm s.tim s.dev m false))))
    ∧ (isOn s.dev limBlk = true → exec .limWdog s = .next (settled s (errFault s.tim (wrF s.dev limBlk .limStat 63 63 0) limBlk 0 17 1 0)))
    ∧ (isOn s.dev limBlk = true → bit (rd s.dev limBlk .limStat) 63 = false → exec .controllerRestart s = .next (settled s
        (wrF (wrF s.dev limBlk .limStat 63 63 1) limBlk .limStat 47 32 (satAdd 0xFFFF (rdF s.dev limBlk .limStat 47 32) 1))))
    ∧ (∀ lane errors locked, lane < 1024 → memGet s.dev .linkChk lane 0 ≠ 0 →
      let d := memSet s.dev .linkChk lane 0 0
      (locked = false ∨ loopHigh d 5 < errors → exec (.linkchkDwellEnd lane errors locked) s
        = .next (settled s (limLog s.tim d 5 ⟨12, false, errors, 0x0201, lane, lane, 0, 0⟩)))
      ∧ (locked = true → errors ≤ loopHigh d 5 → exec (.linkchkDwellEnd lane errors locked) s = .next (settled s d)))
    ∧ (∀ i, i < 6 → Open s.dev limBlk →
      let old := rd s.dev limBlk .limLoopCtrl i
      let v := written s limBlk .limLoopCtrl (2 ^ 63 + old % 2 ^ 63) i
      let e := wr s.dev limBlk .limLoopCtrl (v % 2 ^ 63) i
      let e := if fld old 1 0 = fld v 1 0 then e else memDrop e .limCount i
      isOn e limBlk = true →
      let goes (d : Dev) := exec (.loopRestore i) s = .next (settled s d)
      let log (d : Dev) (typ inst item old new : Nat) : Dev :=
        if old = new then d else limLog s.tim d i ⟨14, false, 0, typ, inst, item, old, new⟩
      (i = 0 →
        let d := (heldBases e 0).foldl (fun d x => log d 0x0104 0xFFFF x.1 (readWeight d 0 x.1) x.2) e
        let put (c : Nat) (d : Dev) (x : Nat × Nat) : Dev :=
          let d := clearBase d c x.1
          let l := d.flt.saved.filter (fun y => !(y.1 == c && y.2.1 == x.1))
          weightWrite s.tim (setFlt d { d.flt with saved := l }) c x.1 x.2
        goes ((upto 0 64).foldl (fun d s => memSet d .limCount 8 s 0)
          ((upto 0 8).foldl (fun d c => (heldBases d c).foldl (put c) d) d)))
      ∧ (i = 1 →
        let d := (heldBases e 8).foldl (fun d x =>
          wrF (clearBase (log d 0x0200 x.1 0 (idleClk d x.1) x.2) 8 x.1) (slcBlk x.1) .slcPwr 23 0 x.2) e
        goes ((upto 0 64).foldl (fun d s => if bit (rd d (slcBlk s) .slcPwrStat) 61 then
          memSet (wrF (log d 0x0200 s 0 1 0) (slcBlk s) .slcPwrStat 61 61 0) .limCount 9 s 0 else d) d))
      ∧ (i = 2 → goes ((upto 0 8).foldl (fun d c => (heldBases d (16 + c)).foldl (fun d x =>
        let w := memGet d .smp c x.1
        writeSmp (log d 0x0103 c x.1 (fld w 23 0) x.2) c (x.1 / 64) (x.1 % 64) (putFld w 23 0 x.2)) d) e))
      ∧ (i = 3 → goes ((heldBases e 9).foldl (fun d x =>
        wrF (clearBase (log d 0x0103 x.1 0 (wrCap d x.1) x.2) 9 x.1) ⟨.bpm, x.1⟩ .bpmSpillCfg 63 48 x.2) e))
      ∧ (i = 4 → goes ((upto 0 8).foldl (fun d c =>
        let d := if throttled d c then throttleOff (log d 0x0100 c 0 1 0) c else d
        let v := rdF d ⟨.clu, c⟩ .cluAvs 63 48
        let top := (voltBounds d c).2
        if v = top then d else setVolt s.tim (log d 0x0100 c 0 v top) c top) e))
      ∧ (i = 5 → goes e))

/-- Counters (R348, R349, R351, R352, R355): a request for a snapshot is taken while none waits; the snapshot copies every
counter and its time, an unreadable colour count first starting anew at 0; a write and a 64-bit read of PERF_VAL act on the
counter that PERF_SEL names and advance it; a dump starts where none runs, and ends by writing its values, its event and GO
= 0; a read of the dropped samples clears them. What rests on the model's choices is that of log entries 16, 50 and 68. -/
def Obligations.CounterAccessComplete : Prop :=
  ∀ s : State,
    (Open s.dev perfBlk →
      (isOn s.dev perfBlk = true → bit (rd s.dev perfBlk .perfSnap) 63 = false →
        exec .snapshotRequest s = .next (settled s (wr s.dev perfBlk .perfSnap (2 ^ 63))))
      ∧ (∀ (w : Word) x, selName s.dev (rd s.dev perfBlk .perfSel) = some x → bit (rd s.dev perfBlk .perfSel) 62 = false →
        exec (.perfValWrite w) s = .next (settled s
          (wr (ctrWrite s.dev x w.toNat) perfBlk .perfSel (selAdvance (rd s.dev perfBlk .perfSel)))))
      ∧ (∀ x, selName s.dev (rd s.dev perfBlk .perfSel) = some x →
        let d := readCounts s.tim s.dev perfBlk .perfVal
        exec .perfValRead s = .next (settled s (answer (wr d perfBlk .perfSel (selAdvance (rd d perfBlk .perfSel)))
          (regView s.tim d perfBlk 0 .perfVal 0))))
      ∧ (∀ w : Word, bit (rd s.dev perfBlk .perfDumpCtrl) 63 = false →
        let v := written s perfBlk .perfDumpCtrl w.toNat
        fld v 15 0 ≤ fld v 31 16 →
        exec (.perfDump w) s = .next (settled s (wr s.dev perfBlk .perfDumpCtrl (v.land (2 ^ 63 + 2 ^ 62 + 0xFFFFFFFFFFFF)))))
      ∧ exec .perfDropsRead s = .next (settled s (answer (wr s.dev perfBlk .perfSmpStat 0) (rd s.dev perfBlk .perfSmpStat))))
    ∧ (bit (rd s.dev perfBlk .perfSnap) 63 = true → perfRuns s.dev = true →
      let d := readColours s.tim s.dev
      exec .snapshot s = .next (settled s (wr (wr { d with shadow := d.ctr } perfBlk .perfSnap 0) perfBlk .perfSnapTime
        ((s.tim.now.sec % 65536) <<< 48 + s.tim.now.ns))))
    ∧ (bit (rd s.dev perfBlk .perfDumpCtrl) 63 = true → perfRuns s.dev = true →
      let w := rd s.dev perfBlk .perfDumpCtrl
      let put (l : List CtrName) :=
        let d := if kindOfType (fld w 47 32) = some .mtr && !bit w 62 then readColours s.tim s.dev else s.dev
        let d := dmaWords d 0 (rd d perfBlk .perfDumpAddr) (l.map (ctrValue d (bit w 62)))
        exec .dumpDone s = .next (settled s (eventMgr s.tim (wrF d perfBlk .perfDumpCtrl 63 63 0) 0x09 0 l.length 0 0))
      (kindOfType (fld w 47 32) = none → put [])
      ∧ (∀ k, kindOfType (fld w 47 32) = some k →
        put (((upto (fld w 15 0) (fld w 31 16 + 1 - fld w 15 0)).filter (instExists s.dev k)).flatMap (instCtrs k))))

/-- Thresholds and CTR_READ (R355, R356, R360): an entry is written where it may watch its counter; one whose counter has
moved on by its step arms its sample with the counter's value, unless one waits or its pause has not passed; a fired entry
whose counter has no frame, or that finds none, puts its event with 64 in SKID, and one that finds a frame of its partition
puts it with the frame; CTR_READ that is well formed starts, one that is not completes with its status, and a started one
ends with its values written, the first bad index of them in its record, or with 5 where a stack is not ON. What rests on
the model's choices is that of log entries 33, 50, 51, 79 and 145. -/
def Obligations.ThresholdsComplete : Prop :=
  ∀ s : State,
    (∀ u : Word, Open s.dev perfBlk →
      let j := rdF s.dev perfBlk .perfThrSel 5 0
      let w := (written s perfBlk .perfThrCfg u.toNat).land (rwMask .perfThrCfg)
      bit w 63 = false ∨ (∃ x, selName s.dev (thrCtr s.dev j) = some x ∧ mayWatch s.dev (fld w 59 48) x = true)
        ∨ (selName s.dev (thrCtr s.dev j) = none ∧ fld w 59 48 = 0) →
      exec (.thresholdEntryWrite u) s = .next (settled s
        (thrRestart (writeWord (memSetD s.dev .perfThrCfg 0 j (1 <<< 32) w) perfBlk 0 (2 * j + 1)) j)))
    ∧ (∀ j k n, j < 64 → findFirst (fun x => x.1 == j) s.dev.watch = some (j, k, n) → isOn s.dev perfBlk = true →
      let cfg := thrCfg s.dev j
      let every := max 1 (fld cfg 31 0)
      let d := { s.dev with watch := mapIf (fun x => x.1 == j) (fun x => (x.1, x.2.1, n % every)) s.dev.watch }
      let last := memGet d .perfThrCfg 2 j
      let waits := last ≠ 0 ∧ s.tim.tick + 1 < last + 1800 * max 1 (fld cfg 45 32)
      every ≤ n →
      (thrOwned d j (fld cfg 59 48) = true → memGet d .perfThrCfg 1 j = 0 → ¬ waits → exec (.thresholdFiring j) s
        = .next (settled s (memSet (memSet d .perfThrCfg 1 j
          ((SMap.get 0 d.ctr k % 2 ^ 48 + 2 ^ 48 - n % every) % 2 ^ 48 + 1)) .perfThrCfg 3 j s.tim.now.ns)))
      ∧ (thrOwned d j (fld cfg 59 48) = false ∨ memGet d .perfThrCfg 1 j ≠ 0 ∨ waits →
        exec (.thresholdFiring j) s = .next (settled s d)))
    ∧ (∀ j skid o v, j < 64 → memGet s.dev .perfThrCfg 1 j = v + 1 → isOn s.dev perfBlk = true →
      let cfg := thrCfg s.dev j
      let put (e1 e2 e3 : Nat) :=
        let d := memSet (memSet s.dev .perfThrCfg 1 j 0) .perfThrCfg 2 j (s.tim.tick + 1)
        let e := eventTo s.tim d (fld cfg 59 48) (fld cfg 47 46) 0x0A 0 (j <<< 58 + e1 + v)
          (memGet d .perfThrCfg 3 j <<< 32 + e2) e3
        exec (.sampleFrame j skid o) s = .next (settled s (if e.2 then e.1
          else wr e.1 perfBlk .perfSmpStat (satAdd (2 ^ 32 - 1) (rd e.1 perfBlk .perfSmpStat) 1)))
      (o = none ∨ selName s.dev (thrCtr s.dev j) = none ∨ (∃ x, selName s.dev (thrCtr s.dev j) = some x ∧ frameless x = true) →
        put (64 <<< 51 + 1 <<< 50) 0 0)
      ∧ (∀ x fid f, o = some fid → selName s.dev (thrCtr s.dev j) = some x → frameless x = false → frameOf s.dev fid = some f →
        skid < 64 → fld cfg 59 48 = 0 ∨ mPart f.sect = fld cfg 59 48 →
        put (skid <<< 51) (f.port <<< 22 + mPart f.sect <<< 10)
          ((if f.stage = 2 then imQueue f.image else 0) <<< 44 + mFlowHash f.sect)))
    ∧ (∀ p r c, p < 4096 → r < 16 → nextOp s.dev p r 0x30 = some c →
      (ctrReadCheck s.dev p c = 0 → exec (.ctrRead p r) s = .next (settled s (startDesc s.dev p r c.n)))
      ∧ (ctrReadCheck s.dev p c ≠ 0 → exec (.ctrRead p r) s
        = .next (settled s (completeDesc s.dev p r c.n 0 (ctrWord (ctrReadCheck s.dev p c) none 0)))))
    ∧ (∀ p r c, p < 4096 → r < 16 → findFirst (fun c => opOf c.words == 0x30 && c.started && c.done.isNone) (ring s.dev .command p r).descs = some c →
      let off := (crClusters c).any (fun k => !isOn s.dev (stackFor s.dev k))
      (off = true → exec (.ctrReadDone p r) s = .next (settled s (completeDesc s.dev p r c.n 0 (ctrWord 5 none 0))))
      ∧ (off = false →
        let w := dw c 1
        let ixs := upto (crBase c) (crCount c)
        let pairs := (crClusters c).flatMap (fun k => ixs.map (fun i => (k, i)))
        let step (y : List (Nat × Nat) × Option Nat × Dev) (x : Nat × Nat) : List (Nat × Nat) × Option Nat × Dev :=
          let q := readPair s.tim y.2.2 p x.1 x.2 (bit w 5) (bit w 6)
          (y.1 ++ [(x.2, q.1)], y.2.1.orElse (fun _ => if q.2.1 then some x.2 else none), q.2.2)
        let z := pairs.foldl step ([], none, s.dev)
        let sum (i : Nat) : Nat := (z.1.filter (fun x => x.1 == i)).foldl (fun a x => pairAdd a (x.2 % 2 ^ 64) (x.2 / 2 ^ 64)) 0
        let words := if bit w 7 then ixs.flatMap (fun i => [sum i % 2 ^ 64, sum i / 2 ^ 64])
          else z.1.flatMap (fun x => [x.2 % 2 ^ 64, x.2 / 2 ^ 64])
        exec (.ctrReadDone p r) s = .next (settled s (completeDesc
          (dmaWords z.2.2 p (dw c 2) words) p r c.n 0 (ctrWord 0 z.2.1 (crCount c))))))

/-- Start-up (R374, R375, R377, Table 17.7): each step ends in the next. The first copy read goes to step 3, a checked
firmware to 4, trained stacks to 5 with the rows that each replaced and the lanes that it repaired, filled memories to 6,
loads whose programs pass to 7 with the programs LIVE, and the release of the clusters turns the blocks on that start up
ready and sets READY with the time that it took; a firmware that fails is followed by the second copy; a load that fails
ends start-up with code 5; a step too long ends it with code 7; and the link comes up with its speed and width. What rests
on the model's choices is that of log entries 33, 41, 58, 59, 60, 61, 62, 63, 159 and 163. -/
def Obligations.StartUpCompletes : Prop :=
  ∀ s : State,
    (inStep s.dev 1 = false → inStep s.dev 2 = true → memGet s.dev .boot 0 2 ≠ 1 →
      exec (.bootImageReadDone 0 true) s = .next (settled s (setStep s.dev 3)))
    ∧ (inStep s.dev 3 = true → exec (.firmwareStart .ok) s = .next (settled s (setStep s.dev 4)))
    ∧ (∀ r, inStep s.dev 3 = true → r ≠ .ok → exec (.firmwareStart r) s = .next (settled s (nextCopy s.dev (bootErr r))))
    ∧ (∀ lanes late, inStep s.dev 4 = true → exec (.hbmTrainingDone lanes late) s = .next (settled s
        (setStep ((hbmStacks s.dev).foldl (fun d h =>
          let e := repairStack d lanes h
          if bit late h || (upto 0 64).any (fun pc => 2 ≤ (failedLanes lanes h pc).length) then
            errFault s.tim (memSet e .hbmRefill h 1 1) ⟨.hbm, h⟩ 4 13 2 0
          else memSet e .hbmRefill h 1 0) s.dev) 5)))
    ∧ (inStep s.dev 5 = true → exec .onDieFillDone s = .next (settled s (setStep (filled s.dev) 6)))
    ∧ (∀ n payload progs, inStep s.dev 6 = true → payloadProgs payload = some progs →
      (loadCheck progs (usedRanges s.dev) = none →
        exec (.loadsDone .ok n payload) s = .next (settled s (setStep (storeProgs s.dev progs 1) 7)))
      ∧ (loadCheck progs (usedRanges s.dev) ≠ none → exec (.loadsDone .ok n payload) s = .next (settled s (bootEnd s.dev 5 n))))
    ∧ (∀ ms, inStep s.dev 7 = true → exec (.clusterReleaseDone ms) s = .next (settled s
        (setBoot (setBoot (setStep ((readyBlocks s.dev).foldl switchOn s.dev) 0) 63 63 1) 31 0 (min ms (2 ^ 32 - 1)))))
    ∧ (recovering s.dev = false → 1 ≤ bootStep s.dev → bootStep s.dev ≤ 7 →
      exec .bootTimeout s = .next (settled s (bootEnd { s.dev with aliveRun := true } 7 0)))
    ∧ (∀ speed width, bootStep s.dev = 8 ∨ recovering s.dev = true ∨ memGet s.dev .boot 0 1 = 2 → isOn s.dev pciBlk = true → bit (rd s.dev pciBlk .pciStat) 63 = false →
      1 ≤ speed → speed ≤ 5 → width = 1 ∨ width = 2 ∨ width = 4 → memGet s.dev .boot 0 10 = 0 →
      exec (.pcieLinkUp speed width) s = .next (settled s
        (wr s.dev pciBlk .pciStat (2 ^ 63 + speed <<< 32 + width <<< 28 + fld (rd s.dev pciBlk .pciStat) 15 0))))

/-- Resets (R377 to R381): power-on leaves the device as the straps name it and device time at zero; a system reset and the
write of 0x53595352 to BOOT_RESET reset the device and device time, but not the count of ticks; a link reset stops the
rings, resets the endpoint's page, ends what the host was sent and is counted and reported when the link was up, and a
Function Level Reset is neither; recovery reads its image where the host put it, and starts again from step 3. What rests on
the model's choices is that of log entries 4, 10, 22, 55, 56, 57, 59, 61, 140 and 167. -/
def Obligations.ResetsComplete : Prop :=
  ∀ s : State,
    (∀ testEn role src, (exec (.powerOnReset true testEn role src) s
        = .next (settled { s with tim := TimeState.reset } (strapped (blank s.dev) (strapWord testEn role src))))
      ∧ (exec (.powerOnReset false testEn role src) s
        = .next (settled { s with tim := TimeState.reset } (memSet (blank s.dev) .boot 0 7 1))))
    ∧ (s.dev.tw.acked = false →
      exec .systemReset s = .next { s with
        tim := timeReset s.tim, dev := systemReset { s.dev with resetReq := true } }
      ∧ (∀ w : Word, Open s.dev bootBlk → isOn s.dev bootBlk = true → fld w.toNat 31 0 = 0x53595352 →
        exec (.bootReset w) s = .next { s with
          tim := timeReset s.tim, dev := systemReset { s.dev with resetReq := true } }))
    ∧ (let d := endHostWork s.tim (pciReset (dropRingWork s.tim (stopAll s.dev)) false)
      (bit (rd s.dev pciBlk .pciStat) 63 = true → exec .linkReset s = .next (settled s
        (errFault s.tim (wrF d pciBlk .pciStat 15 0 (min 0xFFFF (rdF d pciBlk .pciStat 15 0 + 1))) pciBlk 0 14 0 0)))
      ∧ (bit (rd s.dev pciBlk .pciStat) 63 = false → exec .linkReset s = .next (settled s d)))
    ∧ exec .functionLevelReset s = .next (settled s (endHostWork s.tim (pciReset (dropRingWork s.tim (stopAll s.dev)) true)))
    ∧ (∀ w : Word, Open s.dev bootBlk → isOn s.dev bootBlk = true → recovering s.dev = true →
      bit (rd s.dev bootBlk .bootRecCtrl) 63 = false →
      let v := written s bootBlk .bootRecCtrl w.toNat
      bit v 63 = true →
      let d := wr s.dev bootBlk .bootRecCtrl (putFld (rd s.dev bootBlk .bootRecCtrl) 25 0 v)
      let d := wrF (wrF d bootBlk .bootRecCtrl 63 63 1) bootBlk .bootRecCtrl 62 62 0
      exec (.recoveryGo w) s = .next (settled s (send d (.dmaRead 0 none (rd d bootBlk .bootRecAddr / 64 * 64) (fld v 25 0)))))
    ∧ (recovering s.dev = true → bit (rd s.dev bootBlk .bootRecCtrl) 63 = true →
      let d := memSet (wrF s.dev bootBlk .bootRecCtrl 63 63 0) .boot 0 1 2
      exec (.recoveryReadDone true) s = .next (settled s (setStep (setBoot (bootFail d 0 0) 62 62 0) 3))
      ∧ exec (.recoveryReadDone false) s = .next (settled s (wrF (bootFail d 1 0) bootBlk .bootRecCtrl 62 62 1)))

/-- Accesses (R34, R35, R45, R378), by the access codes of Table 2.12: a write of a register that a write only stores leaves
the merge of its fields in it, of 64 bits or of the half that the access touches, by its size or by its byte enables, and
changes no other register; a 64-bit read of a register that a read leaves as it is returns it, once the words of protected
memories that it shows have been read, and a free value when one cannot be; over SMBus both are the same; and a read of the
low half returns it and keeps the high half as it then was, which the next read of the high half returns and releases. What
rests on the model's choices is that of log entries 15, 17, 19, 109 and 143. -/
def Obligations.AccessesComplete : Prop :=
  ∀ (s : State) (b : Blk) (r : Reg) (i : Nat) (w : Word), Spot b (regSub r) r i → Open s.dev b →
    reservedNow s.dev b r = false → innerLane s.dev b = false →
    let o := regOff b (regSub r) r i
    let v := regView s.tim s.dev b (regSub r) r i
    (writeActs r = false →
      (Half.whole.mask.land (accMask r (codeWrites (locked s.dev b (regSub r)))) ≠ 0 →
        exec (.registerWrite 0 ⟨8, 0xFF⟩ o w) s = .next (settled s (wr s.dev b r (written s b r w.toNat i) i))
        ∧ exec (.smbusTransaction true o w) s = .next (settled s (wr s.dev b r (written s b r w.toNat i) i)))
      ∧ (wideOnly r = false → spansHalves (locked s.dev b (regSub r)) r = false →
        (Half.low.mask.land (accMask r (codeWrites (locked s.dev b (regSub r)))) ≠ 0 →
          ∀ n be, (n = 4 ∨ n = 8) → be = 0x0F →
          exec (.registerWrite 0 ⟨n, be⟩ o w) s = .next (settled s
            (wr s.dev b r (mergeWrite s.dev b (regSub r) r .low v w.toNat) i)))
        ∧ (Half.high.mask.land (accMask r (codeWrites (locked s.dev b (regSub r)))) ≠ 0 →
          exec (.registerWrite 0 ⟨4, 0x0F⟩ (o + 4) w) s = .next (settled s
            (wr s.dev b r (mergeWrite s.dev b (regSub r) r .high v ((w.toNat % 2 ^ 32) <<< 32)) i))
          ∧ exec (.registerWrite 0 ⟨8, 0xF0⟩ o w) s = .next (settled s
            (wr s.dev b r (mergeWrite s.dev b (regSub r) r .high v ((w.toNat / 2 ^ 32 % 2 ^ 32) <<< 32)) i)))))
    ∧ (readActs r = false → readDenied s.dev b r = false →
      let m := readMems s.tim s.dev b r i
      let x := if m.1 then ((fresh m.2).1 % 2 ^ 64, (fresh m.2).2) else (regView s.tim m.2 b (regSub r) r i, m.2)
      exec (.registerReadLatch 0 ⟨8, 0xFF⟩ o) s = .next (settled s (answer x.2 x.1))
      ∧ exec (.smbusTransaction false o w) s = .next (settled s (answer x.2 x.1))
      ∧ (∀ n, n = 4 ∨ n = 8 → exec (.registerReadLatch 0 ⟨n, 0x0F⟩ o) s
        = .next (settled s (answer (setLatch x.2 (o / 8) (x.1 / 2 ^ 32 + 1)) (x.1 % 2 ^ 32))))
      ∧ (∀ y, latched s.dev (o / 8) = y + 1 → exec (.registerReadLatch 0 ⟨4, 0x0F⟩ (o + 4)) s
          = .next (settled s (answer (setLatch s.dev (o / 8) 0) y))
        ∧ exec (.registerReadLatch 0 ⟨8, 0xF0⟩ o) s = .next (settled s (answer (setLatch s.dev (o / 8) 0) y))))
end

