-- ==== Sys2Proof/Laws/Fields.lean ====
section
/-! SUPPORT. Laws of bit fields: what a field that has just been put reads, and that others stay. -/
namespace Sys2Proof.Machine

theorem testBit_fld (n hi lo j : Nat) :
    (fld n hi lo).testBit j = (decide (j < hi + 1 - lo) && n.testBit (lo + j)) := by
  simp [fld, Nat.testBit_mod_two_pow, Nat.testBit_shiftRight]

/-- `putFld` by its parts: what lies above the field, the field, and what lies below it. -/
theorem putFld_parts (n hi lo v : Nat) :
    putFld n hi lo v = 2 ^ lo * (2 ^ (hi + 1 - lo) * (n / 2 ^ lo / 2 ^ (hi + 1 - lo)) + v % 2 ^ (hi + 1 - lo)) + n % 2 ^ lo := by
  have h1 := Nat.div_add_mod n (2 ^ lo)
  have h2 := Nat.div_add_mod (n / 2 ^ lo) (2 ^ (hi + 1 - lo))
  simp only [putFld, fld, Nat.shiftLeft_eq, Nat.shiftRight_eq_div_pow]
  generalize n / 2 ^ lo / 2 ^ (hi + 1 - lo) = a at *
  generalize n / 2 ^ lo % 2 ^ (hi + 1 - lo) = f at *
  generalize n % 2 ^ lo = b at *
  generalize v % 2 ^ (hi + 1 - lo) = u at *
  rw [← h2] at h1
  have h3 : 2 ^ lo * (2 ^ (hi + 1 - lo) * a + f) = 2 ^ lo * (2 ^ (hi + 1 - lo) * a) + f * 2 ^ lo := by ring
  have h4 : 2 ^ lo * (2 ^ (hi + 1 - lo) * a + u) = 2 ^ lo * (2 ^ (hi + 1 - lo) * a) + u * 2 ^ lo := by ring
  omega

theorem testBit_putFld (n hi lo v j : Nat) :
    (putFld n hi lo v).testBit j = if lo ≤ j ∧ j < lo + (hi + 1 - lo) then v.testBit (j - lo) else n.testBit j := by
  rw [putFld_parts, Nat.testBit_two_pow_mul_add _ (Nat.mod_lt _ (by positivity))]
  by_cases h : j < lo
  · have : ¬ (lo ≤ j ∧ j < lo + (hi + 1 - lo)) := by omega
    simp [h, this, Nat.testBit_mod_two_pow]
  · rw [if_neg h, Nat.testBit_two_pow_mul_add _ (Nat.mod_lt _ (by positivity))]
    by_cases h' : j - lo < hi + 1 - lo
    · have : lo ≤ j ∧ j < lo + (hi + 1 - lo) := by omega
      simp [h', this, Nat.testBit_mod_two_pow]
    · have : ¬ (lo ≤ j ∧ j < lo + (hi + 1 - lo)) := by omega
      rw [if_neg h', if_neg this, Nat.testBit_div_two_pow, Nat.testBit_div_two_pow]
      congr 1; omega

/-- A field that has been put reads what was put, cut to its width. -/
theorem fld_putFld (n hi lo v : Nat) : fld (putFld n hi lo v) hi lo = v % 2 ^ (hi + 1 - lo) := by
  apply Nat.eq_of_testBit_eq
  intro j
  rw [testBit_fld, testBit_putFld, Nat.testBit_mod_two_pow]
  by_cases h : j < hi + 1 - lo
  · have : lo ≤ lo + j ∧ lo + j < lo + (hi + 1 - lo) := by omega
    simp [h, this]
  · simp [h]

/-- A field that does not meet the one that is put keeps its value. -/
theorem fld_putFld_ne (n hi lo v hi' lo' : Nat) (h : hi < lo' ∨ hi' < lo) :
    fld (putFld n hi lo v) hi' lo' = fld n hi' lo' := by
  apply Nat.eq_of_testBit_eq
  intro j
  rw [testBit_fld, testBit_fld, testBit_putFld]
  by_cases hj : j < hi' + 1 - lo'
  · have : ¬ (lo ≤ lo' + j ∧ lo' + j < lo + (hi + 1 - lo)) := by omega
    simp [hj, this]
  · simp [hj]

theorem putFld_lt (n hi lo v k : Nat) (hn : n < 2 ^ k) (hk : hi < k) : putFld n hi lo v < 2 ^ k := by
  apply Nat.lt_pow_two_of_testBit
  intro j hj
  rw [testBit_putFld]
  have : ¬ (lo ≤ j ∧ j < lo + (hi + 1 - lo)) := by omega
  rw [if_neg this]
  exact Nat.testBit_lt_two_pow (lt_of_lt_of_le hn (Nat.pow_le_pow_right (by omega) hj))

theorem fld_lt (n hi lo : Nat) : fld n hi lo < 2 ^ (hi + 1 - lo) := Nat.mod_lt _ (by positivity)

end Sys2Proof.Machine
end

