-- ==== Sys2Proof/Laws/State.lean ====
section
/-! SUPPORT. One lemma for each field of the device under each update: what the update leaves, and
what it stores. -/
namespace Sys2Proof.Machine

@[simp] theorem setTw_h4 (d : Dev) (w : Twin) : (setTw d w).h4 = d.h4 := rfl
@[simp] theorem setTw_regs (d : Dev) (w : Twin) : (setTw d w).regs = d.regs := rfl
@[simp] theorem setTw_latch (d : Dev) (w : Twin) : (setTw d w).latch = d.latch := rfl
@[simp] theorem setTw_blocks (d : Dev) (w : Twin) : (setTw d w).blocks = d.blocks := rfl
@[simp] theorem setTw_mem (d : Dev) (w : Twin) : (setTw d w).mem = d.mem := rfl
@[simp] theorem setTw_ctr (d : Dev) (w : Twin) : (setTw d w).ctr = d.ctr := rfl
@[simp] theorem setTw_shadow (d : Dev) (w : Twin) : (setTw d w).shadow = d.shadow := rfl
@[simp] theorem setTw_marks (d : Dev) (w : Twin) : (setTw d w).marks = d.marks := rfl
@[simp] theorem setTw_free (d : Dev) (w : Twin) : (setTw d w).free = d.free := rfl
@[simp] theorem setTw_parts (d : Dev) (w : Twin) : (setTw d w).parts = d.parts := rfl
@[simp] theorem setTw_rings (d : Dev) (w : Twin) : (setTw d w).rings = d.rings := rfl
@[simp] theorem setTw_msix (d : Dev) (w : Twin) : (setTw d w).msix = d.msix := rfl
@[simp] theorem setTw_pba (d : Dev) (w : Twin) : (setTw d w).pba = d.pba := rfl
@[simp] theorem setTw_flt (d : Dev) (w : Twin) : (setTw d w).flt = d.flt := rfl
@[simp] theorem setTw_faults (d : Dev) (w : Twin) : (setTw d w).faults = d.faults := rfl
@[simp] theorem setTw_entries (d : Dev) (w : Twin) : (setTw d w).entries = d.entries := rfl
@[simp] theorem setTw_cmt (d : Dev) (w : Twin) : (setTw d w).cmt = d.cmt := rfl
@[simp] theorem setTw_wgtPend (d : Dev) (w : Twin) : (setTw d w).wgtPend = d.wgtPend := rfl
@[simp] theorem setTw_fp (d : Dev) (w : Twin) : (setTw d w).fp = d.fp := rfl
@[simp] theorem setTw_fc (d : Dev) (w : Twin) : (setTw d w).fc = d.fc := rfl
@[simp] theorem setTw_images (d : Dev) (w : Twin) : (setTw d w).images = d.images := rfl
@[simp] theorem setTw_alive (d : Dev) (w : Twin) : (setTw d w).alive = d.alive := rfl
@[simp] theorem setTw_aliveRun (d : Dev) (w : Twin) : (setTw d w).aliveRun = d.aliveRun := rfl
@[simp] theorem setTw_out (d : Dev) (w : Twin) : (setTw d w).out = d.out := rfl
@[simp] theorem setTw_resetReq (d : Dev) (w : Twin) : (setTw d w).resetReq = d.resetReq := rfl
@[simp] theorem setTw_watch (d : Dev) (w : Twin) : (setTw d w).watch = d.watch := rfl
@[simp] theorem setTw_tw (d : Dev) (w : Twin) : (setTw d w).tw = w := rfl
@[simp] theorem setFp_h4 (d : Dev) (f : Fp) : (setFp d f).h4 = d.h4 := rfl
@[simp] theorem setFp_regs (d : Dev) (f : Fp) : (setFp d f).regs = d.regs := rfl
@[simp] theorem setFp_latch (d : Dev) (f : Fp) : (setFp d f).latch = d.latch := rfl
@[simp] theorem setFp_blocks (d : Dev) (f : Fp) : (setFp d f).blocks = d.blocks := rfl
@[simp] theorem setFp_mem (d : Dev) (f : Fp) : (setFp d f).mem = d.mem := rfl
@[simp] theorem setFp_ctr (d : Dev) (f : Fp) : (setFp d f).ctr = d.ctr := rfl
@[simp] theorem setFp_shadow (d : Dev) (f : Fp) : (setFp d f).shadow = d.shadow := rfl
@[simp] theorem setFp_marks (d : Dev) (f : Fp) : (setFp d f).marks = d.marks := rfl
@[simp] theorem setFp_free (d : Dev) (f : Fp) : (setFp d f).free = d.free := rfl
@[simp] theorem setFp_parts (d : Dev) (f : Fp) : (setFp d f).parts = d.parts := rfl
@[simp] theorem setFp_rings (d : Dev) (f : Fp) : (setFp d f).rings = d.rings := rfl
@[simp] theorem setFp_msix (d : Dev) (f : Fp) : (setFp d f).msix = d.msix := rfl
@[simp] theorem setFp_pba (d : Dev) (f : Fp) : (setFp d f).pba = d.pba := rfl
@[simp] theorem setFp_flt (d : Dev) (f : Fp) : (setFp d f).flt = d.flt := rfl
@[simp] theorem setFp_faults (d : Dev) (f : Fp) : (setFp d f).faults = d.faults := rfl
@[simp] theorem setFp_entries (d : Dev) (f : Fp) : (setFp d f).entries = d.entries := rfl
@[simp] theorem setFp_cmt (d : Dev) (f : Fp) : (setFp d f).cmt = d.cmt := rfl
@[simp] theorem setFp_tw (d : Dev) (f : Fp) : (setFp d f).tw = d.tw := rfl
@[simp] theorem setFp_wgtPend (d : Dev) (f : Fp) : (setFp d f).wgtPend = d.wgtPend := rfl
@[simp] theorem setFp_fc (d : Dev) (f : Fp) : (setFp d f).fc = d.fc := rfl
@[simp] theorem setFp_images (d : Dev) (f : Fp) : (setFp d f).images = d.images := rfl
@[simp] theorem setFp_alive (d : Dev) (f : Fp) : (setFp d f).alive = d.alive := rfl
@[simp] theorem setFp_aliveRun (d : Dev) (f : Fp) : (setFp d f).aliveRun = d.aliveRun := rfl
@[simp] theorem setFp_out (d : Dev) (f : Fp) : (setFp d f).out = d.out := rfl
@[simp] theorem setFp_resetReq (d : Dev) (f : Fp) : (setFp d f).resetReq = d.resetReq := rfl
@[simp] theorem setFp_watch (d : Dev) (f : Fp) : (setFp d f).watch = d.watch := rfl
@[simp] theorem setFp_fp (d : Dev) (f : Fp) : (setFp d f).fp = f := rfl
@[simp] theorem setFlt_h4 (d : Dev) (f : FltSt) : (setFlt d f).h4 = d.h4 := rfl
@[simp] theorem setFlt_regs (d : Dev) (f : FltSt) : (setFlt d f).regs = d.regs := rfl
@[simp] theorem setFlt_latch (d : Dev) (f : FltSt) : (setFlt d f).latch = d.latch := rfl
@[simp] theorem setFlt_blocks (d : Dev) (f : FltSt) : (setFlt d f).blocks = d.blocks := rfl
@[simp] theorem setFlt_mem (d : Dev) (f : FltSt) : (setFlt d f).mem = d.mem := rfl
@[simp] theorem setFlt_ctr (d : Dev) (f : FltSt) : (setFlt d f).ctr = d.ctr := rfl
@[simp] theorem setFlt_shadow (d : Dev) (f : FltSt) : (setFlt d f).shadow = d.shadow := rfl
@[simp] theorem setFlt_marks (d : Dev) (f : FltSt) : (setFlt d f).marks = d.marks := rfl
@[simp] theorem setFlt_free (d : Dev) (f : FltSt) : (setFlt d f).free = d.free := rfl
@[simp] theorem setFlt_parts (d : Dev) (f : FltSt) : (setFlt d f).parts = d.parts := rfl
@[simp] theorem setFlt_rings (d : Dev) (f : FltSt) : (setFlt d f).rings = d.rings := rfl
@[simp] theorem setFlt_msix (d : Dev) (f : FltSt) : (setFlt d f).msix = d.msix := rfl
@[simp] theorem setFlt_pba (d : Dev) (f : FltSt) : (setFlt d f).pba = d.pba := rfl
@[simp] theorem setFlt_faults (d : Dev) (f : FltSt) : (setFlt d f).faults = d.faults := rfl
@[simp] theorem setFlt_entries (d : Dev) (f : FltSt) : (setFlt d f).entries = d.entries := rfl
@[simp] theorem setFlt_cmt (d : Dev) (f : FltSt) : (setFlt d f).cmt = d.cmt := rfl
@[simp] theorem setFlt_tw (d : Dev) (f : FltSt) : (setFlt d f).tw = d.tw := rfl
@[simp] theorem setFlt_wgtPend (d : Dev) (f : FltSt) : (setFlt d f).wgtPend = d.wgtPend := rfl
@[simp] theorem setFlt_fp (d : Dev) (f : FltSt) : (setFlt d f).fp = d.fp := rfl
@[simp] theorem setFlt_fc (d : Dev) (f : FltSt) : (setFlt d f).fc = d.fc := rfl
@[simp] theorem setFlt_images (d : Dev) (f : FltSt) : (setFlt d f).images = d.images := rfl
@[simp] theorem setFlt_alive (d : Dev) (f : FltSt) : (setFlt d f).alive = d.alive := rfl
@[simp] theorem setFlt_aliveRun (d : Dev) (f : FltSt) : (setFlt d f).aliveRun = d.aliveRun := rfl
@[simp] theorem setFlt_out (d : Dev) (f : FltSt) : (setFlt d f).out = d.out := rfl
@[simp] theorem setFlt_resetReq (d : Dev) (f : FltSt) : (setFlt d f).resetReq = d.resetReq := rfl
@[simp] theorem setFlt_watch (d : Dev) (f : FltSt) : (setFlt d f).watch = d.watch := rfl
@[simp] theorem setFlt_flt (d : Dev) (f : FltSt) : (setFlt d f).flt = f := rfl
@[simp] theorem setFc_h4 (d : Dev) (f : FlowCtrs) : (setFc d f).h4 = d.h4 := rfl
@[simp] theorem setFc_regs (d : Dev) (f : FlowCtrs) : (setFc d f).regs = d.regs := rfl
@[simp] theorem setFc_latch (d : Dev) (f : FlowCtrs) : (setFc d f).latch = d.latch := rfl
@[simp] theorem setFc_blocks (d : Dev) (f : FlowCtrs) : (setFc d f).blocks = d.blocks := rfl
@[simp] theorem setFc_mem (d : Dev) (f : FlowCtrs) : (setFc d f).mem = d.mem := rfl
@[simp] theorem setFc_ctr (d : Dev) (f : FlowCtrs) : (setFc d f).ctr = d.ctr := rfl
@[simp] theorem setFc_shadow (d : Dev) (f : FlowCtrs) : (setFc d f).shadow = d.shadow := rfl
@[simp] theorem setFc_marks (d : Dev) (f : FlowCtrs) : (setFc d f).marks = d.marks := rfl
@[simp] theorem setFc_free (d : Dev) (f : FlowCtrs) : (setFc d f).free = d.free := rfl
@[simp] theorem setFc_parts (d : Dev) (f : FlowCtrs) : (setFc d f).parts = d.parts := rfl
@[simp] theorem setFc_rings (d : Dev) (f : FlowCtrs) : (setFc d f).rings = d.rings := rfl
@[simp] theorem setFc_msix (d : Dev) (f : FlowCtrs) : (setFc d f).msix = d.msix := rfl
@[simp] theorem setFc_pba (d : Dev) (f : FlowCtrs) : (setFc d f).pba = d.pba := rfl
@[simp] theorem setFc_flt (d : Dev) (f : FlowCtrs) : (setFc d f).flt = d.flt := rfl
@[simp] theorem setFc_faults (d : Dev) (f : FlowCtrs) : (setFc d f).faults = d.faults := rfl
@[simp] theorem setFc_entries (d : Dev) (f : FlowCtrs) : (setFc d f).entries = d.entries := rfl
@[simp] theorem setFc_cmt (d : Dev) (f : FlowCtrs) : (setFc d f).cmt = d.cmt := rfl
@[simp] theorem setFc_tw (d : Dev) (f : FlowCtrs) : (setFc d f).tw = d.tw := rfl
@[simp] theorem setFc_wgtPend (d : Dev) (f : FlowCtrs) : (setFc d f).wgtPend = d.wgtPend := rfl
@[simp] theorem setFc_fp (d : Dev) (f : FlowCtrs) : (setFc d f).fp = d.fp := rfl
@[simp] theorem setFc_images (d : Dev) (f : FlowCtrs) : (setFc d f).images = d.images := rfl
@[simp] theorem setFc_alive (d : Dev) (f : FlowCtrs) : (setFc d f).alive = d.alive := rfl
@[simp] theorem setFc_aliveRun (d : Dev) (f : FlowCtrs) : (setFc d f).aliveRun = d.aliveRun := rfl
@[simp] theorem setFc_out (d : Dev) (f : FlowCtrs) : (setFc d f).out = d.out := rfl
@[simp] theorem setFc_resetReq (d : Dev) (f : FlowCtrs) : (setFc d f).resetReq = d.resetReq := rfl
@[simp] theorem setFc_watch (d : Dev) (f : FlowCtrs) : (setFc d f).watch = d.watch := rfl
@[simp] theorem setFc_fc (d : Dev) (f : FlowCtrs) : (setFc d f).fc = f := rfl
@[simp] theorem setBlk_h4 (d : Dev) (b : Blk) (x : BlkSt) : (setBlk d b x).h4 = d.h4 := rfl
@[simp] theorem setBlk_regs (d : Dev) (b : Blk) (x : BlkSt) : (setBlk d b x).regs = d.regs := rfl
@[simp] theorem setBlk_latch (d : Dev) (b : Blk) (x : BlkSt) : (setBlk d b x).latch = d.latch := rfl
@[simp] theorem setBlk_mem (d : Dev) (b : Blk) (x : BlkSt) : (setBlk d b x).mem = d.mem := rfl
@[simp] theorem setBlk_ctr (d : Dev) (b : Blk) (x : BlkSt) : (setBlk d b x).ctr = d.ctr := rfl
@[simp] theorem setBlk_shadow (d : Dev) (b : Blk) (x : BlkSt) : (setBlk d b x).shadow = d.shadow := rfl
@[simp] theorem setBlk_marks (d : Dev) (b : Blk) (x : BlkSt) : (setBlk d b x).marks = d.marks := rfl
@[simp] theorem setBlk_free (d : Dev) (b : Blk) (x : BlkSt) : (setBlk d b x).free = d.free := rfl
@[simp] theorem setBlk_parts (d : Dev) (b : Blk) (x : BlkSt) : (setBlk d b x).parts = d.parts := rfl
@[simp] theorem setBlk_rings (d : Dev) (b : Blk) (x : BlkSt) : (setBlk d b x).rings = d.rings := rfl
@[simp] theorem setBlk_msix (d : Dev) (b : Blk) (x : BlkSt) : (setBlk d b x).msix = d.msix := rfl
@[simp] theorem setBlk_pba (d : Dev) (b : Blk) (x : BlkSt) : (setBlk d b x).pba = d.pba := rfl
@[simp] theorem setBlk_flt (d : Dev) (b : Blk) (x : BlkSt) : (setBlk d b x).flt = d.flt := rfl
@[simp] theorem setBlk_faults (d : Dev) (b : Blk) (x : BlkSt) : (setBlk d b x).faults = d.faults := rfl
@[simp] theorem setBlk_entries (d : Dev) (b : Blk) (x : BlkSt) : (setBlk d b x).entries = d.entries := rfl
@[simp] theorem setBlk_cmt (d : Dev) (b : Blk) (x : BlkSt) : (setBlk d b x).cmt = d.cmt := rfl
@[simp] theorem setBlk_tw (d : Dev) (b : Blk) (x : BlkSt) : (setBlk d b x).tw = d.tw := rfl
@[simp] theorem setBlk_wgtPend (d : Dev) (b : Blk) (x : BlkSt) : (setBlk d b x).wgtPend = d.wgtPend := rfl
@[simp] theorem setBlk_fp (d : Dev) (b : Blk) (x : BlkSt) : (setBlk d b x).fp = d.fp := rfl
@[simp] theorem setBlk_fc (d : Dev) (b : Blk) (x : BlkSt) : (setBlk d b x).fc = d.fc := rfl
@[simp] theorem setBlk_images (d : Dev) (b : Blk) (x : BlkSt) : (setBlk d b x).images = d.images := rfl
@[simp] theorem setBlk_alive (d : Dev) (b : Blk) (x : BlkSt) : (setBlk d b x).alive = d.alive := rfl
@[simp] theorem setBlk_aliveRun (d : Dev) (b : Blk) (x : BlkSt) : (setBlk d b x).aliveRun = d.aliveRun := rfl
@[simp] theorem setBlk_out (d : Dev) (b : Blk) (x : BlkSt) : (setBlk d b x).out = d.out := rfl
@[simp] theorem setBlk_resetReq (d : Dev) (b : Blk) (x : BlkSt) : (setBlk d b x).resetReq = d.resetReq := rfl
@[simp] theorem setBlk_watch (d : Dev) (b : Blk) (x : BlkSt) : (setBlk d b x).watch = d.watch := rfl
@[simp] theorem setPart_h4 (d : Dev) (p : Nat) (x : Part) : (setPart d p x).h4 = d.h4 := rfl
@[simp] theorem setPart_regs (d : Dev) (p : Nat) (x : Part) : (setPart d p x).regs = d.regs := rfl
@[simp] theorem setPart_latch (d : Dev) (p : Nat) (x : Part) : (setPart d p x).latch = d.latch := rfl
@[simp] theorem setPart_blocks (d : Dev) (p : Nat) (x : Part) : (setPart d p x).blocks = d.blocks := rfl
@[simp] theorem setPart_mem (d : Dev) (p : Nat) (x : Part) : (setPart d p x).mem = d.mem := rfl
@[simp] theorem setPart_ctr (d : Dev) (p : Nat) (x : Part) : (setPart d p x).ctr = d.ctr := rfl
@[simp] theorem setPart_shadow (d : Dev) (p : Nat) (x : Part) : (setPart d p x).shadow = d.shadow := rfl
@[simp] theorem setPart_marks (d : Dev) (p : Nat) (x : Part) : (setPart d p x).marks = d.marks := rfl
@[simp] theorem setPart_free (d : Dev) (p : Nat) (x : Part) : (setPart d p x).free = d.free := rfl
@[simp] theorem setPart_rings (d : Dev) (p : Nat) (x : Part) : (setPart d p x).rings = d.rings := rfl
@[simp] theorem setPart_msix (d : Dev) (p : Nat) (x : Part) : (setPart d p x).msix = d.msix := rfl
@[simp] theorem setPart_pba (d : Dev) (p : Nat) (x : Part) : (setPart d p x).pba = d.pba := rfl
@[simp] theorem setPart_flt (d : Dev) (p : Nat) (x : Part) : (setPart d p x).flt = d.flt := rfl
@[simp] theorem setPart_faults (d : Dev) (p : Nat) (x : Part) : (setPart d p x).faults = d.faults := rfl
@[simp] theorem setPart_entries (d : Dev) (p : Nat) (x : Part) : (setPart d p x).entries = d.entries := rfl
@[simp] theorem setPart_cmt (d : Dev) (p : Nat) (x : Part) : (setPart d p x).cmt = d.cmt := rfl
@[simp] theorem setPart_tw (d : Dev) (p : Nat) (x : Part) : (setPart d p x).tw = d.tw := rfl
@[simp] theorem setPart_wgtPend (d : Dev) (p : Nat) (x : Part) : (setPart d p x).wgtPend = d.wgtPend := rfl
@[simp] theorem setPart_fp (d : Dev) (p : Nat) (x : Part) : (setPart d p x).fp = d.fp := rfl
@[simp] theorem setPart_fc (d : Dev) (p : Nat) (x : Part) : (setPart d p x).fc = d.fc := rfl
@[simp] theorem setPart_images (d : Dev) (p : Nat) (x : Part) : (setPart d p x).images = d.images := rfl
@[simp] theorem setPart_alive (d : Dev) (p : Nat) (x : Part) : (setPart d p x).alive = d.alive := rfl
@[simp] theorem setPart_aliveRun (d : Dev) (p : Nat) (x : Part) : (setPart d p x).aliveRun = d.aliveRun := rfl
@[simp] theorem setPart_out (d : Dev) (p : Nat) (x : Part) : (setPart d p x).out = d.out := rfl
@[simp] theorem setPart_resetReq (d : Dev) (p : Nat) (x : Part) : (setPart d p x).resetReq = d.resetReq := rfl
@[simp] theorem setPart_watch (d : Dev) (p : Nat) (x : Part) : (setPart d p x).watch = d.watch := rfl
@[simp] theorem setRing_h4 (d : Dev) (k : RingKind) (p r : Nat) (x : Ring) : (setRing d k p r x).h4 = d.h4 := rfl
@[simp] theorem setRing_regs (d : Dev) (k : RingKind) (p r : Nat) (x : Ring) : (setRing d k p r x).regs = d.regs := rfl
@[simp] theorem setRing_latch (d : Dev) (k : RingKind) (p r : Nat) (x : Ring) : (setRing d k p r x).latch = d.latch := rfl
@[simp] theorem setRing_blocks (d : Dev) (k : RingKind) (p r : Nat) (x : Ring) : (setRing d k p r x).blocks = d.blocks := rfl
@[simp] theorem setRing_mem (d : Dev) (k : RingKind) (p r : Nat) (x : Ring) : (setRing d k p r x).mem = d.mem := rfl
@[simp] theorem setRing_ctr (d : Dev) (k : RingKind) (p r : Nat) (x : Ring) : (setRing d k p r x).ctr = d.ctr := rfl
@[simp] theorem setRing_shadow (d : Dev) (k : RingKind) (p r : Nat) (x : Ring) : (setRing d k p r x).shadow = d.shadow := rfl
@[simp] theorem setRing_marks (d : Dev) (k : RingKind) (p r : Nat) (x : Ring) : (setRing d k p r x).marks = d.marks := rfl
@[simp] theorem setRing_free (d : Dev) (k : RingKind) (p r : Nat) (x : Ring) : (setRing d k p r x).free = d.free := rfl
@[simp] theorem setRing_parts (d : Dev) (k : RingKind) (p r : Nat) (x : Ring) : (setRing d k p r x).parts = d.parts := rfl
@[simp] theorem setRing_msix (d : Dev) (k : RingKind) (p r : Nat) (x : Ring) : (setRing d k p r x).msix = d.msix := rfl
@[simp] theorem setRing_pba (d : Dev) (k : RingKind) (p r : Nat) (x : Ring) : (setRing d k p r x).pba = d.pba := rfl
@[simp] theorem setRing_flt (d : Dev) (k : RingKind) (p r : Nat) (x : Ring) : (setRing d k p r x).flt = d.flt := rfl
@[simp] theorem setRing_faults (d : Dev) (k : RingKind) (p r : Nat) (x : Ring) : (setRing d k p r x).faults = d.faults := rfl
@[simp] theorem setRing_entries (d : Dev) (k : RingKind) (p r : Nat) (x : Ring) : (setRing d k p r x).entries = d.entries := rfl
@[simp] theorem setRing_cmt (d : Dev) (k : RingKind) (p r : Nat) (x : Ring) : (setRing d k p r x).cmt = d.cmt := rfl
@[simp] theorem setRing_tw (d : Dev) (k : RingKind) (p r : Nat) (x : Ring) : (setRing d k p r x).tw = d.tw := rfl
@[simp] theorem setRing_wgtPend (d : Dev) (k : RingKind) (p r : Nat) (x : Ring) : (setRing d k p r x).wgtPend = d.wgtPend := rfl
@[simp] theorem setRing_fp (d : Dev) (k : RingKind) (p r : Nat) (x : Ring) : (setRing d k p r x).fp = d.fp := rfl
@[simp] theorem setRing_fc (d : Dev) (k : RingKind) (p r : Nat) (x : Ring) : (setRing d k p r x).fc = d.fc := rfl
@[simp] theorem setRing_images (d : Dev) (k : RingKind) (p r : Nat) (x : Ring) : (setRing d k p r x).images = d.images := rfl
@[simp] theorem setRing_alive (d : Dev) (k : RingKind) (p r : Nat) (x : Ring) : (setRing d k p r x).alive = d.alive := rfl
@[simp] theorem setRing_aliveRun (d : Dev) (k : RingKind) (p r : Nat) (x : Ring) : (setRing d k p r x).aliveRun = d.aliveRun := rfl
@[simp] theorem setRing_out (d : Dev) (k : RingKind) (p r : Nat) (x : Ring) : (setRing d k p r x).out = d.out := rfl
@[simp] theorem setRing_resetReq (d : Dev) (k : RingKind) (p r : Nat) (x : Ring) : (setRing d k p r x).resetReq = d.resetReq := rfl
@[simp] theorem setRing_watch (d : Dev) (k : RingKind) (p r : Nat) (x : Ring) : (setRing d k p r x).watch = d.watch := rfl
@[simp] theorem wrAt_h4 (d : Dev) (b : Blk) (sub : Nat) (r : Reg) (i v : Nat) : (wrAt d b sub r i v).h4 = d.h4 := rfl
@[simp] theorem wrAt_latch (d : Dev) (b : Blk) (sub : Nat) (r : Reg) (i v : Nat) : (wrAt d b sub r i v).latch = d.latch := rfl
@[simp] theorem wrAt_blocks (d : Dev) (b : Blk) (sub : Nat) (r : Reg) (i v : Nat) : (wrAt d b sub r i v).blocks = d.blocks := rfl
@[simp] theorem wrAt_mem (d : Dev) (b : Blk) (sub : Nat) (r : Reg) (i v : Nat) : (wrAt d b sub r i v).mem = d.mem := rfl
@[simp] theorem wrAt_ctr (d : Dev) (b : Blk) (sub : Nat) (r : Reg) (i v : Nat) : (wrAt d b sub r i v).ctr = d.ctr := rfl
@[simp] theorem wrAt_shadow (d : Dev) (b : Blk) (sub : Nat) (r : Reg) (i v : Nat) : (wrAt d b sub r i v).shadow = d.shadow := rfl
@[simp] theorem wrAt_marks (d : Dev) (b : Blk) (sub : Nat) (r : Reg) (i v : Nat) : (wrAt d b sub r i v).marks = d.marks := rfl
@[simp] theorem wrAt_free (d : Dev) (b : Blk) (sub : Nat) (r : Reg) (i v : Nat) : (wrAt d b sub r i v).free = d.free := rfl
@[simp] theorem wrAt_parts (d : Dev) (b : Blk) (sub : Nat) (r : Reg) (i v : Nat) : (wrAt d b sub r i v).parts = d.parts := rfl
@[simp] theorem wrAt_rings (d : Dev) (b : Blk) (sub : Nat) (r : Reg) (i v : Nat) : (wrAt d b sub r i v).rings = d.rings := rfl
@[simp] theorem wrAt_msix (d : Dev) (b : Blk) (sub : Nat) (r : Reg) (i v : Nat) : (wrAt d b sub r i v).msix = d.msix := rfl
@[simp] theorem wrAt_pba (d : Dev) (b : Blk) (sub : Nat) (r : Reg) (i v : Nat) : (wrAt d b sub r i v).pba = d.pba := rfl
@[simp] theorem wrAt_flt (d : Dev) (b : Blk) (sub : Nat) (r : Reg) (i v : Nat) : (wrAt d b sub r i v).flt = d.flt := rfl
@[simp] theorem wrAt_faults (d : Dev) (b : Blk) (sub : Nat) (r : Reg) (i v : Nat) : (wrAt d b sub r i v).faults = d.faults := rfl
@[simp] theorem wrAt_entries (d : Dev) (b : Blk) (sub : Nat) (r : Reg) (i v : Nat) : (wrAt d b sub r i v).entries = d.entries := rfl
@[simp] theorem wrAt_cmt (d : Dev) (b : Blk) (sub : Nat) (r : Reg) (i v : Nat) : (wrAt d b sub r i v).cmt = d.cmt := rfl
@[simp] theorem wrAt_tw (d : Dev) (b : Blk) (sub : Nat) (r : Reg) (i v : Nat) : (wrAt d b sub r i v).tw = d.tw := rfl
@[simp] theorem wrAt_wgtPend (d : Dev) (b : Blk) (sub : Nat) (r : Reg) (i v : Nat) : (wrAt d b sub r i v).wgtPend = d.wgtPend := rfl
@[simp] theorem wrAt_fp (d : Dev) (b : Blk) (sub : Nat) (r : Reg) (i v : Nat) : (wrAt d b sub r i v).fp = d.fp := rfl
@[simp] theorem wrAt_fc (d : Dev) (b : Blk) (sub : Nat) (r : Reg) (i v : Nat) : (wrAt d b sub r i v).fc = d.fc := rfl
@[simp] theorem wrAt_images (d : Dev) (b : Blk) (sub : Nat) (r : Reg) (i v : Nat) : (wrAt d b sub r i v).images = d.images := rfl
@[simp] theorem wrAt_alive (d : Dev) (b : Blk) (sub : Nat) (r : Reg) (i v : Nat) : (wrAt d b sub r i v).alive = d.alive := rfl
@[simp] theorem wrAt_aliveRun (d : Dev) (b : Blk) (sub : Nat) (r : Reg) (i v : Nat) : (wrAt d b sub r i v).aliveRun = d.aliveRun := rfl
@[simp] theorem wrAt_out (d : Dev) (b : Blk) (sub : Nat) (r : Reg) (i v : Nat) : (wrAt d b sub r i v).out = d.out := rfl
@[simp] theorem wrAt_resetReq (d : Dev) (b : Blk) (sub : Nat) (r : Reg) (i v : Nat) : (wrAt d b sub r i v).resetReq = d.resetReq := rfl
@[simp] theorem wrAt_watch (d : Dev) (b : Blk) (sub : Nat) (r : Reg) (i v : Nat) : (wrAt d b sub r i v).watch = d.watch := rfl
@[simp] theorem wr_h4 (d : Dev) (b : Blk) (r : Reg) (v i : Nat) : (wr d b r v i).h4 = d.h4 := rfl
@[simp] theorem wr_latch (d : Dev) (b : Blk) (r : Reg) (v i : Nat) : (wr d b r v i).latch = d.latch := rfl
@[simp] theorem wr_blocks (d : Dev) (b : Blk) (r : Reg) (v i : Nat) : (wr d b r v i).blocks = d.blocks := rfl
@[simp] theorem wr_mem (d : Dev) (b : Blk) (r : Reg) (v i : Nat) : (wr d b r v i).mem = d.mem := rfl
@[simp] theorem wr_ctr (d : Dev) (b : Blk) (r : Reg) (v i : Nat) : (wr d b r v i).ctr = d.ctr := rfl
@[simp] theorem wr_shadow (d : Dev) (b : Blk) (r : Reg) (v i : Nat) : (wr d b r v i).shadow = d.shadow := rfl
@[simp] theorem wr_marks (d : Dev) (b : Blk) (r : Reg) (v i : Nat) : (wr d b r v i).marks = d.marks := rfl
@[simp] theorem wr_free (d : Dev) (b : Blk) (r : Reg) (v i : Nat) : (wr d b r v i).free = d.free := rfl
@[simp] theorem wr_parts (d : Dev) (b : Blk) (r : Reg) (v i : Nat) : (wr d b r v i).parts = d.parts := rfl
@[simp] theorem wr_rings (d : Dev) (b : Blk) (r : Reg) (v i : Nat) : (wr d b r v i).rings = d.rings := rfl
@[simp] theorem wr_msix (d : Dev) (b : Blk) (r : Reg) (v i : Nat) : (wr d b r v i).msix = d.msix := rfl
@[simp] theorem wr_pba (d : Dev) (b : Blk) (r : Reg) (v i : Nat) : (wr d b r v i).pba = d.pba := rfl
@[simp] theorem wr_flt (d : Dev) (b : Blk) (r : Reg) (v i : Nat) : (wr d b r v i).flt = d.flt := rfl
@[simp] theorem wr_faults (d : Dev) (b : Blk) (r : Reg) (v i : Nat) : (wr d b r v i).faults = d.faults := rfl
@[simp] theorem wr_entries (d : Dev) (b : Blk) (r : Reg) (v i : Nat) : (wr d b r v i).entries = d.entries := rfl
@[simp] theorem wr_cmt (d : Dev) (b : Blk) (r : Reg) (v i : Nat) : (wr d b r v i).cmt = d.cmt := rfl
@[simp] theorem wr_tw (d : Dev) (b : Blk) (r : Reg) (v i : Nat) : (wr d b r v i).tw = d.tw := rfl
@[simp] theorem wr_wgtPend (d : Dev) (b : Blk) (r : Reg) (v i : Nat) : (wr d b r v i).wgtPend = d.wgtPend := rfl
@[simp] theorem wr_fp (d : Dev) (b : Blk) (r : Reg) (v i : Nat) : (wr d b r v i).fp = d.fp := rfl
@[simp] theorem wr_fc (d : Dev) (b : Blk) (r : Reg) (v i : Nat) : (wr d b r v i).fc = d.fc := rfl
@[simp] theorem wr_images (d : Dev) (b : Blk) (r : Reg) (v i : Nat) : (wr d b r v i).images = d.images := rfl
@[simp] theorem wr_alive (d : Dev) (b : Blk) (r : Reg) (v i : Nat) : (wr d b r v i).alive = d.alive := rfl
@[simp] theorem wr_aliveRun (d : Dev) (b : Blk) (r : Reg) (v i : Nat) : (wr d b r v i).aliveRun = d.aliveRun := rfl
@[simp] theorem wr_out (d : Dev) (b : Blk) (r : Reg) (v i : Nat) : (wr d b r v i).out = d.out := rfl
@[simp] theorem wr_resetReq (d : Dev) (b : Blk) (r : Reg) (v i : Nat) : (wr d b r v i).resetReq = d.resetReq := rfl
@[simp] theorem wr_watch (d : Dev) (b : Blk) (r : Reg) (v i : Nat) : (wr d b r v i).watch = d.watch := rfl
@[simp] theorem wrF_h4 (d : Dev) (b : Blk) (r : Reg) (hi lo v i : Nat) : (wrF d b r hi lo v i).h4 = d.h4 := rfl
@[simp] theorem wrF_latch (d : Dev) (b : Blk) (r : Reg) (hi lo v i : Nat) : (wrF d b r hi lo v i).latch = d.latch := rfl
@[simp] theorem wrF_blocks (d : Dev) (b : Blk) (r : Reg) (hi lo v i : Nat) : (wrF d b r hi lo v i).blocks = d.blocks := rfl
@[simp] theorem wrF_mem (d : Dev) (b : Blk) (r : Reg) (hi lo v i : Nat) : (wrF d b r hi lo v i).mem = d.mem := rfl
@[simp] theorem wrF_ctr (d : Dev) (b : Blk) (r : Reg) (hi lo v i : Nat) : (wrF d b r hi lo v i).ctr = d.ctr := rfl
@[simp] theorem wrF_shadow (d : Dev) (b : Blk) (r : Reg) (hi lo v i : Nat) : (wrF d b r hi lo v i).shadow = d.shadow := rfl
@[simp] theorem wrF_marks (d : Dev) (b : Blk) (r : Reg) (hi lo v i : Nat) : (wrF d b r hi lo v i).marks = d.marks := rfl
@[simp] theorem wrF_free (d : Dev) (b : Blk) (r : Reg) (hi lo v i : Nat) : (wrF d b r hi lo v i).free = d.free := rfl
@[simp] theorem wrF_parts (d : Dev) (b : Blk) (r : Reg) (hi lo v i : Nat) : (wrF d b r hi lo v i).parts = d.parts := rfl
@[simp] theorem wrF_rings (d : Dev) (b : Blk) (r : Reg) (hi lo v i : Nat) : (wrF d b r hi lo v i).rings = d.rings := rfl
@[simp] theorem wrF_msix (d : Dev) (b : Blk) (r : Reg) (hi lo v i : Nat) : (wrF d b r hi lo v i).msix = d.msix := rfl
@[simp] theorem wrF_pba (d : Dev) (b : Blk) (r : Reg) (hi lo v i : Nat) : (wrF d b r hi lo v i).pba = d.pba := rfl
@[simp] theorem wrF_flt (d : Dev) (b : Blk) (r : Reg) (hi lo v i : Nat) : (wrF d b r hi lo v i).flt = d.flt := rfl
@[simp] theorem wrF_faults (d : Dev) (b : Blk) (r : Reg) (hi lo v i : Nat) : (wrF d b r hi lo v i).faults = d.faults := rfl
@[simp] theorem wrF_entries (d : Dev) (b : Blk) (r : Reg) (hi lo v i : Nat) : (wrF d b r hi lo v i).entries = d.entries := rfl
@[simp] theorem wrF_cmt (d : Dev) (b : Blk) (r : Reg) (hi lo v i : Nat) : (wrF d b r hi lo v i).cmt = d.cmt := rfl
@[simp] theorem wrF_tw (d : Dev) (b : Blk) (r : Reg) (hi lo v i : Nat) : (wrF d b r hi lo v i).tw = d.tw := rfl
@[simp] theorem wrF_wgtPend (d : Dev) (b : Blk) (r : Reg) (hi lo v i : Nat) : (wrF d b r hi lo v i).wgtPend = d.wgtPend := rfl
@[simp] theorem wrF_fp (d : Dev) (b : Blk) (r : Reg) (hi lo v i : Nat) : (wrF d b r hi lo v i).fp = d.fp := rfl
@[simp] theorem wrF_fc (d : Dev) (b : Blk) (r : Reg) (hi lo v i : Nat) : (wrF d b r hi lo v i).fc = d.fc := rfl
@[simp] theorem wrF_images (d : Dev) (b : Blk) (r : Reg) (hi lo v i : Nat) : (wrF d b r hi lo v i).images = d.images := rfl
@[simp] theorem wrF_alive (d : Dev) (b : Blk) (r : Reg) (hi lo v i : Nat) : (wrF d b r hi lo v i).alive = d.alive := rfl
@[simp] theorem wrF_aliveRun (d : Dev) (b : Blk) (r : Reg) (hi lo v i : Nat) : (wrF d b r hi lo v i).aliveRun = d.aliveRun := rfl
@[simp] theorem wrF_out (d : Dev) (b : Blk) (r : Reg) (hi lo v i : Nat) : (wrF d b r hi lo v i).out = d.out := rfl
@[simp] theorem wrF_resetReq (d : Dev) (b : Blk) (r : Reg) (hi lo v i : Nat) : (wrF d b r hi lo v i).resetReq = d.resetReq := rfl
@[simp] theorem wrF_watch (d : Dev) (b : Blk) (r : Reg) (hi lo v i : Nat) : (wrF d b r hi lo v i).watch = d.watch := rfl
@[simp] theorem memSet_h4 (d : Dev) (m : Mem) (i j v : Nat) : (memSet d m i j v).h4 = d.h4 := rfl
@[simp] theorem memSet_regs (d : Dev) (m : Mem) (i j v : Nat) : (memSet d m i j v).regs = d.regs := rfl
@[simp] theorem memSet_latch (d : Dev) (m : Mem) (i j v : Nat) : (memSet d m i j v).latch = d.latch := rfl
@[simp] theorem memSet_blocks (d : Dev) (m : Mem) (i j v : Nat) : (memSet d m i j v).blocks = d.blocks := rfl
@[simp] theorem memSet_ctr (d : Dev) (m : Mem) (i j v : Nat) : (memSet d m i j v).ctr = d.ctr := rfl
@[simp] theorem memSet_shadow (d : Dev) (m : Mem) (i j v : Nat) : (memSet d m i j v).shadow = d.shadow := rfl
@[simp] theorem memSet_marks (d : Dev) (m : Mem) (i j v : Nat) : (memSet d m i j v).marks = d.marks := rfl
@[simp] theorem memSet_free (d : Dev) (m : Mem) (i j v : Nat) : (memSet d m i j v).free = d.free := rfl
@[simp] theorem memSet_parts (d : Dev) (m : Mem) (i j v : Nat) : (memSet d m i j v).parts = d.parts := rfl
@[simp] theorem memSet_rings (d : Dev) (m : Mem) (i j v : Nat) : (memSet d m i j v).rings = d.rings := rfl
@[simp] theorem memSet_msix (d : Dev) (m : Mem) (i j v : Nat) : (memSet d m i j v).msix = d.msix := rfl
@[simp] theorem memSet_pba (d : Dev) (m : Mem) (i j v : Nat) : (memSet d m i j v).pba = d.pba := rfl
@[simp] theorem memSet_flt (d : Dev) (m : Mem) (i j v : Nat) : (memSet d m i j v).flt = d.flt := rfl
@[simp] theorem memSet_faults (d : Dev) (m : Mem) (i j v : Nat) : (memSet d m i j v).faults = d.faults := rfl
@[simp] theorem memSet_entries (d : Dev) (m : Mem) (i j v : Nat) : (memSet d m i j v).entries = d.entries := rfl
@[simp] theorem memSet_cmt (d : Dev) (m : Mem) (i j v : Nat) : (memSet d m i j v).cmt = d.cmt := rfl
@[simp] theorem memSet_tw (d : Dev) (m : Mem) (i j v : Nat) : (memSet d m i j v).tw = d.tw := rfl
@[simp] theorem memSet_wgtPend (d : Dev) (m : Mem) (i j v : Nat) : (memSet d m i j v).wgtPend = d.wgtPend := rfl
@[simp] theorem memSet_fp (d : Dev) (m : Mem) (i j v : Nat) : (memSet d m i j v).fp = d.fp := rfl
@[simp] theorem memSet_fc (d : Dev) (m : Mem) (i j v : Nat) : (memSet d m i j v).fc = d.fc := rfl
@[simp] theorem memSet_images (d : Dev) (m : Mem) (i j v : Nat) : (memSet d m i j v).images = d.images := rfl
@[simp] theorem memSet_alive (d : Dev) (m : Mem) (i j v : Nat) : (memSet d m i j v).alive = d.alive := rfl
@[simp] theorem memSet_aliveRun (d : Dev) (m : Mem) (i j v : Nat) : (memSet d m i j v).aliveRun = d.aliveRun := rfl
@[simp] theorem memSet_out (d : Dev) (m : Mem) (i j v : Nat) : (memSet d m i j v).out = d.out := rfl
@[simp] theorem memSet_resetReq (d : Dev) (m : Mem) (i j v : Nat) : (memSet d m i j v).resetReq = d.resetReq := rfl
@[simp] theorem memSet_watch (d : Dev) (m : Mem) (i j v : Nat) : (memSet d m i j v).watch = d.watch := rfl
@[simp] theorem memSetD_h4 (d : Dev) (m : Mem) (i j x v : Nat) : (memSetD d m i j x v).h4 = d.h4 := rfl
@[simp] theorem memSetD_regs (d : Dev) (m : Mem) (i j x v : Nat) : (memSetD d m i j x v).regs = d.regs := rfl
@[simp] theorem memSetD_latch (d : Dev) (m : Mem) (i j x v : Nat) : (memSetD d m i j x v).latch = d.latch := rfl
@[simp] theorem memSetD_blocks (d : Dev) (m : Mem) (i j x v : Nat) : (memSetD d m i j x v).blocks = d.blocks := rfl
@[simp] theorem memSetD_ctr (d : Dev) (m : Mem) (i j x v : Nat) : (memSetD d m i j x v).ctr = d.ctr := rfl
@[simp] theorem memSetD_shadow (d : Dev) (m : Mem) (i j x v : Nat) : (memSetD d m i j x v).shadow = d.shadow := rfl
@[simp] theorem memSetD_marks (d : Dev) (m : Mem) (i j x v : Nat) : (memSetD d m i j x v).marks = d.marks := rfl
@[simp] theorem memSetD_free (d : Dev) (m : Mem) (i j x v : Nat) : (memSetD d m i j x v).free = d.free := rfl
@[simp] theorem memSetD_parts (d : Dev) (m : Mem) (i j x v : Nat) : (memSetD d m i j x v).parts = d.parts := rfl
@[simp] theorem memSetD_rings (d : Dev) (m : Mem) (i j x v : Nat) : (memSetD d m i j x v).rings = d.rings := rfl
@[simp] theorem memSetD_msix (d : Dev) (m : Mem) (i j x v : Nat) : (memSetD d m i j x v).msix = d.msix := rfl
@[simp] theorem memSetD_pba (d : Dev) (m : Mem) (i j x v : Nat) : (memSetD d m i j x v).pba = d.pba := rfl
@[simp] theorem memSetD_flt (d : Dev) (m : Mem) (i j x v : Nat) : (memSetD d m i j x v).flt = d.flt := rfl
@[simp] theorem memSetD_faults (d : Dev) (m : Mem) (i j x v : Nat) : (memSetD d m i j x v).faults = d.faults := rfl
@[simp] theorem memSetD_entries (d : Dev) (m : Mem) (i j x v : Nat) : (memSetD d m i j x v).entries = d.entries := rfl
@[simp] theorem memSetD_cmt (d : Dev) (m : Mem) (i j x v : Nat) : (memSetD d m i j x v).cmt = d.cmt := rfl
@[simp] theorem memSetD_tw (d : Dev) (m : Mem) (i j x v : Nat) : (memSetD d m i j x v).tw = d.tw := rfl
@[simp] theorem memSetD_wgtPend (d : Dev) (m : Mem) (i j x v : Nat) : (memSetD d m i j x v).wgtPend = d.wgtPend := rfl
@[simp] theorem memSetD_fp (d : Dev) (m : Mem) (i j x v : Nat) : (memSetD d m i j x v).fp = d.fp := rfl
@[simp] theorem memSetD_fc (d : Dev) (m : Mem) (i j x v : Nat) : (memSetD d m i j x v).fc = d.fc := rfl
@[simp] theorem memSetD_images (d : Dev) (m : Mem) (i j x v : Nat) : (memSetD d m i j x v).images = d.images := rfl
@[simp] theorem memSetD_alive (d : Dev) (m : Mem) (i j x v : Nat) : (memSetD d m i j x v).alive = d.alive := rfl
@[simp] theorem memSetD_aliveRun (d : Dev) (m : Mem) (i j x v : Nat) : (memSetD d m i j x v).aliveRun = d.aliveRun := rfl
@[simp] theorem memSetD_out (d : Dev) (m : Mem) (i j x v : Nat) : (memSetD d m i j x v).out = d.out := rfl
@[simp] theorem memSetD_resetReq (d : Dev) (m : Mem) (i j x v : Nat) : (memSetD d m i j x v).resetReq = d.resetReq := rfl
@[simp] theorem memSetD_watch (d : Dev) (m : Mem) (i j x v : Nat) : (memSetD d m i j x v).watch = d.watch := rfl
@[simp] theorem send_h4 (d : Dev) (o : Out) : (send d o).h4 = d.h4 := rfl
@[simp] theorem send_regs (d : Dev) (o : Out) : (send d o).regs = d.regs := rfl
@[simp] theorem send_latch (d : Dev) (o : Out) : (send d o).latch = d.latch := rfl
@[simp] theorem send_blocks (d : Dev) (o : Out) : (send d o).blocks = d.blocks := rfl
@[simp] theorem send_mem (d : Dev) (o : Out) : (send d o).mem = d.mem := rfl
@[simp] theorem send_ctr (d : Dev) (o : Out) : (send d o).ctr = d.ctr := rfl
@[simp] theorem send_shadow (d : Dev) (o : Out) : (send d o).shadow = d.shadow := rfl
@[simp] theorem send_marks (d : Dev) (o : Out) : (send d o).marks = d.marks := rfl
@[simp] theorem send_free (d : Dev) (o : Out) : (send d o).free = d.free := rfl
@[simp] theorem send_parts (d : Dev) (o : Out) : (send d o).parts = d.parts := rfl
@[simp] theorem send_rings (d : Dev) (o : Out) : (send d o).rings = d.rings := rfl
@[simp] theorem send_msix (d : Dev) (o : Out) : (send d o).msix = d.msix := rfl
@[simp] theorem send_pba (d : Dev) (o : Out) : (send d o).pba = d.pba := rfl
@[simp] theorem send_flt (d : Dev) (o : Out) : (send d o).flt = d.flt := rfl
@[simp] theorem send_faults (d : Dev) (o : Out) : (send d o).faults = d.faults := rfl
@[simp] theorem send_entries (d : Dev) (o : Out) : (send d o).entries = d.entries := rfl
@[simp] theorem send_cmt (d : Dev) (o : Out) : (send d o).cmt = d.cmt := rfl
@[simp] theorem send_tw (d : Dev) (o : Out) : (send d o).tw = d.tw := rfl
@[simp] theorem send_wgtPend (d : Dev) (o : Out) : (send d o).wgtPend = d.wgtPend := rfl
@[simp] theorem send_fp (d : Dev) (o : Out) : (send d o).fp = d.fp := rfl
@[simp] theorem send_fc (d : Dev) (o : Out) : (send d o).fc = d.fc := rfl
@[simp] theorem send_images (d : Dev) (o : Out) : (send d o).images = d.images := rfl
@[simp] theorem send_alive (d : Dev) (o : Out) : (send d o).alive = d.alive := rfl
@[simp] theorem send_aliveRun (d : Dev) (o : Out) : (send d o).aliveRun = d.aliveRun := rfl
@[simp] theorem send_resetReq (d : Dev) (o : Out) : (send d o).resetReq = d.resetReq := rfl
@[simp] theorem send_watch (d : Dev) (o : Out) : (send d o).watch = d.watch := rfl
@[simp] theorem setBatch_h4 (d : Dev) (b : Batch) : (setBatch d b).h4 = d.h4 := rfl
@[simp] theorem setBatch_regs (d : Dev) (b : Batch) : (setBatch d b).regs = d.regs := rfl
@[simp] theorem setBatch_latch (d : Dev) (b : Batch) : (setBatch d b).latch = d.latch := rfl
@[simp] theorem setBatch_blocks (d : Dev) (b : Batch) : (setBatch d b).blocks = d.blocks := rfl
@[simp] theorem setBatch_mem (d : Dev) (b : Batch) : (setBatch d b).mem = d.mem := rfl
@[simp] theorem setBatch_ctr (d : Dev) (b : Batch) : (setBatch d b).ctr = d.ctr := rfl
@[simp] theorem setBatch_shadow (d : Dev) (b : Batch) : (setBatch d b).shadow = d.shadow := rfl
@[simp] theorem setBatch_marks (d : Dev) (b : Batch) : (setBatch d b).marks = d.marks := rfl
@[simp] theorem setBatch_free (d : Dev) (b : Batch) : (setBatch d b).free = d.free := rfl
@[simp] theorem setBatch_parts (d : Dev) (b : Batch) : (setBatch d b).parts = d.parts := rfl
@[simp] theorem setBatch_rings (d : Dev) (b : Batch) : (setBatch d b).rings = d.rings := rfl
@[simp] theorem setBatch_msix (d : Dev) (b : Batch) : (setBatch d b).msix = d.msix := rfl
@[simp] theorem setBatch_pba (d : Dev) (b : Batch) : (setBatch d b).pba = d.pba := rfl
@[simp] theorem setBatch_flt (d : Dev) (b : Batch) : (setBatch d b).flt = d.flt := rfl
@[simp] theorem setBatch_faults (d : Dev) (b : Batch) : (setBatch d b).faults = d.faults := rfl
@[simp] theorem setBatch_entries (d : Dev) (b : Batch) : (setBatch d b).entries = d.entries := rfl
@[simp] theorem setBatch_tw (d : Dev) (b : Batch) : (setBatch d b).tw = d.tw := rfl
@[simp] theorem setBatch_wgtPend (d : Dev) (b : Batch) : (setBatch d b).wgtPend = d.wgtPend := rfl
@[simp] theorem setBatch_fp (d : Dev) (b : Batch) : (setBatch d b).fp = d.fp := rfl
@[simp] theorem setBatch_fc (d : Dev) (b : Batch) : (setBatch d b).fc = d.fc := rfl
@[simp] theorem setBatch_images (d : Dev) (b : Batch) : (setBatch d b).images = d.images := rfl
@[simp] theorem setBatch_alive (d : Dev) (b : Batch) : (setBatch d b).alive = d.alive := rfl
@[simp] theorem setBatch_aliveRun (d : Dev) (b : Batch) : (setBatch d b).aliveRun = d.aliveRun := rfl
@[simp] theorem setBatch_out (d : Dev) (b : Batch) : (setBatch d b).out = d.out := rfl
@[simp] theorem setBatch_resetReq (d : Dev) (b : Batch) : (setBatch d b).resetReq = d.resetReq := rfl
@[simp] theorem setBatch_watch (d : Dev) (b : Batch) : (setBatch d b).watch = d.watch := rfl
@[simp] theorem dropBatch_h4 (d : Dev) (g : Nat) : (dropBatch d g).h4 = d.h4 := rfl
@[simp] theorem dropBatch_regs (d : Dev) (g : Nat) : (dropBatch d g).regs = d.regs := rfl
@[simp] theorem dropBatch_latch (d : Dev) (g : Nat) : (dropBatch d g).latch = d.latch := rfl
@[simp] theorem dropBatch_blocks (d : Dev) (g : Nat) : (dropBatch d g).blocks = d.blocks := rfl
@[simp] theorem dropBatch_mem (d : Dev) (g : Nat) : (dropBatch d g).mem = d.mem := rfl
@[simp] theorem dropBatch_ctr (d : Dev) (g : Nat) : (dropBatch d g).ctr = d.ctr := rfl
@[simp] theorem dropBatch_shadow (d : Dev) (g : Nat) : (dropBatch d g).shadow = d.shadow := rfl
@[simp] theorem dropBatch_marks (d : Dev) (g : Nat) : (dropBatch d g).marks = d.marks := rfl
@[simp] theorem dropBatch_free (d : Dev) (g : Nat) : (dropBatch d g).free = d.free := rfl
@[simp] theorem dropBatch_parts (d : Dev) (g : Nat) : (dropBatch d g).parts = d.parts := rfl
@[simp] theorem dropBatch_rings (d : Dev) (g : Nat) : (dropBatch d g).rings = d.rings := rfl
@[simp] theorem dropBatch_msix (d : Dev) (g : Nat) : (dropBatch d g).msix = d.msix := rfl
@[simp] theorem dropBatch_pba (d : Dev) (g : Nat) : (dropBatch d g).pba = d.pba := rfl
@[simp] theorem dropBatch_flt (d : Dev) (g : Nat) : (dropBatch d g).flt = d.flt := rfl
@[simp] theorem dropBatch_faults (d : Dev) (g : Nat) : (dropBatch d g).faults = d.faults := rfl
@[simp] theorem dropBatch_entries (d : Dev) (g : Nat) : (dropBatch d g).entries = d.entries := rfl
@[simp] theorem dropBatch_tw (d : Dev) (g : Nat) : (dropBatch d g).tw = d.tw := rfl
@[simp] theorem dropBatch_wgtPend (d : Dev) (g : Nat) : (dropBatch d g).wgtPend = d.wgtPend := rfl
@[simp] theorem dropBatch_fp (d : Dev) (g : Nat) : (dropBatch d g).fp = d.fp := rfl
@[simp] theorem dropBatch_fc (d : Dev) (g : Nat) : (dropBatch d g).fc = d.fc := rfl
@[simp] theorem dropBatch_images (d : Dev) (g : Nat) : (dropBatch d g).images = d.images := rfl
@[simp] theorem dropBatch_alive (d : Dev) (g : Nat) : (dropBatch d g).alive = d.alive := rfl
@[simp] theorem dropBatch_aliveRun (d : Dev) (g : Nat) : (dropBatch d g).aliveRun = d.aliveRun := rfl
@[simp] theorem dropBatch_out (d : Dev) (g : Nat) : (dropBatch d g).out = d.out := rfl
@[simp] theorem dropBatch_resetReq (d : Dev) (g : Nat) : (dropBatch d g).resetReq = d.resetReq := rfl
@[simp] theorem dropBatch_watch (d : Dev) (g : Nat) : (dropBatch d g).watch = d.watch := rfl
@[simp] theorem setOwed_h4 (d : Dev) (u e v : Nat) : (setOwed d u e v).h4 = d.h4 := rfl
@[simp] theorem setOwed_regs (d : Dev) (u e v : Nat) : (setOwed d u e v).regs = d.regs := rfl
@[simp] theorem setOwed_latch (d : Dev) (u e v : Nat) : (setOwed d u e v).latch = d.latch := rfl
@[simp] theorem setOwed_blocks (d : Dev) (u e v : Nat) : (setOwed d u e v).blocks = d.blocks := rfl
@[simp] theorem setOwed_mem (d : Dev) (u e v : Nat) : (setOwed d u e v).mem = d.mem := rfl
@[simp] theorem setOwed_ctr (d : Dev) (u e v : Nat) : (setOwed d u e v).ctr = d.ctr := rfl
@[simp] theorem setOwed_shadow (d : Dev) (u e v : Nat) : (setOwed d u e v).shadow = d.shadow := rfl
@[simp] theorem setOwed_marks (d : Dev) (u e v : Nat) : (setOwed d u e v).marks = d.marks := rfl
@[simp] theorem setOwed_free (d : Dev) (u e v : Nat) : (setOwed d u e v).free = d.free := rfl
@[simp] theorem setOwed_parts (d : Dev) (u e v : Nat) : (setOwed d u e v).parts = d.parts := rfl
@[simp] theorem setOwed_rings (d : Dev) (u e v : Nat) : (setOwed d u e v).rings = d.rings := rfl
@[simp] theorem setOwed_msix (d : Dev) (u e v : Nat) : (setOwed d u e v).msix = d.msix := rfl
@[simp] theorem setOwed_pba (d : Dev) (u e v : Nat) : (setOwed d u e v).pba = d.pba := rfl
@[simp] theorem setOwed_flt (d : Dev) (u e v : Nat) : (setOwed d u e v).flt = d.flt := rfl
@[simp] theorem setOwed_faults (d : Dev) (u e v : Nat) : (setOwed d u e v).faults = d.faults := rfl
@[simp] theorem setOwed_entries (d : Dev) (u e v : Nat) : (setOwed d u e v).entries = d.entries := rfl
@[simp] theorem setOwed_tw (d : Dev) (u e v : Nat) : (setOwed d u e v).tw = d.tw := rfl
@[simp] theorem setOwed_wgtPend (d : Dev) (u e v : Nat) : (setOwed d u e v).wgtPend = d.wgtPend := rfl
@[simp] theorem setOwed_fp (d : Dev) (u e v : Nat) : (setOwed d u e v).fp = d.fp := rfl
@[simp] theorem setOwed_fc (d : Dev) (u e v : Nat) : (setOwed d u e v).fc = d.fc := rfl
@[simp] theorem setOwed_images (d : Dev) (u e v : Nat) : (setOwed d u e v).images = d.images := rfl
@[simp] theorem setOwed_alive (d : Dev) (u e v : Nat) : (setOwed d u e v).alive = d.alive := rfl
@[simp] theorem setOwed_aliveRun (d : Dev) (u e v : Nat) : (setOwed d u e v).aliveRun = d.aliveRun := rfl
@[simp] theorem setOwed_out (d : Dev) (u e v : Nat) : (setOwed d u e v).out = d.out := rfl
@[simp] theorem setOwed_resetReq (d : Dev) (u e v : Nat) : (setOwed d u e v).resetReq = d.resetReq := rfl
@[simp] theorem setOwed_watch (d : Dev) (u e v : Nat) : (setOwed d u e v).watch = d.watch := rfl
@[simp] theorem send_out (d : Dev) (o : Out) : (send d o).out = d.out ++ [o] := rfl
@[simp] theorem ctrBump_h4 (d : Dev) (k : BlkKind) (i e x n : Nat) : (ctrBump d k i e x n).h4 = d.h4 := by
  unfold ctrBump; split <;> rfl
@[simp] theorem ctrBump_regs (d : Dev) (k : BlkKind) (i e x n : Nat) : (ctrBump d k i e x n).regs = d.regs := by
  unfold ctrBump; split <;> rfl
@[simp] theorem ctrBump_latch (d : Dev) (k : BlkKind) (i e x n : Nat) : (ctrBump d k i e x n).latch = d.latch := by
  unfold ctrBump; split <;> rfl
@[simp] theorem ctrBump_blocks (d : Dev) (k : BlkKind) (i e x n : Nat) : (ctrBump d k i e x n).blocks = d.blocks := by
  unfold ctrBump; split <;> rfl
@[simp] theorem ctrBump_mem (d : Dev) (k : BlkKind) (i e x n : Nat) : (ctrBump d k i e x n).mem = d.mem := by
  unfold ctrBump; split <;> rfl
@[simp] theorem ctrBump_shadow (d : Dev) (k : BlkKind) (i e x n : Nat) : (ctrBump d k i e x n).shadow = d.shadow := by
  unfold ctrBump; split <;> rfl
@[simp] theorem ctrBump_marks (d : Dev) (k : BlkKind) (i e x n : Nat) : (ctrBump d k i e x n).marks = d.marks := by
  unfold ctrBump; split <;> rfl
@[simp] theorem ctrBump_free (d : Dev) (k : BlkKind) (i e x n : Nat) : (ctrBump d k i e x n).free = d.free := by
  unfold ctrBump; split <;> rfl
@[simp] theorem ctrBump_parts (d : Dev) (k : BlkKind) (i e x n : Nat) : (ctrBump d k i e x n).parts = d.parts := by
  unfold ctrBump; split <;> rfl
@[simp] theorem ctrBump_rings (d : Dev) (k : BlkKind) (i e x n : Nat) : (ctrBump d k i e x n).rings = d.rings := by
  unfold ctrBump; split <;> rfl
@[simp] theorem ctrBump_msix (d : Dev) (k : BlkKind) (i e x n : Nat) : (ctrBump d k i e x n).msix = d.msix := by
  unfold ctrBump; split <;> rfl
@[simp] theorem ctrBump_pba (d : Dev) (k : BlkKind) (i e x n : Nat) : (ctrBump d k i e x n).pba = d.pba := by
  unfold ctrBump; split <;> rfl
@[simp] theorem ctrBump_flt (d : Dev) (k : BlkKind) (i e x n : Nat) : (ctrBump d k i e x n).flt = d.flt := by
  unfold ctrBump; split <;> rfl
@[simp] theorem ctrBump_faults (d : Dev) (k : BlkKind) (i e x n : Nat) : (ctrBump d k i e x n).faults = d.faults := by
  unfold ctrBump; split <;> rfl
@[simp] theorem ctrBump_entries (d : Dev) (k : BlkKind) (i e x n : Nat) : (ctrBump d k i e x n).entries = d.entries := by
  unfold ctrBump; split <;> rfl
@[simp] theorem ctrBump_cmt (d : Dev) (k : BlkKind) (i e x n : Nat) : (ctrBump d k i e x n).cmt = d.cmt := by
  unfold ctrBump; split <;> rfl
@[simp] theorem ctrBump_tw (d : Dev) (k : BlkKind) (i e x n : Nat) : (ctrBump d k i e x n).tw = d.tw := by
  unfold ctrBump; split <;> rfl
@[simp] theorem ctrBump_wgtPend (d : Dev) (k : BlkKind) (i e x n : Nat) : (ctrBump d k i e x n).wgtPend = d.wgtPend := by
  unfold ctrBump; split <;> rfl
@[simp] theorem ctrBump_fp (d : Dev) (k : BlkKind) (i e x n : Nat) : (ctrBump d k i e x n).fp = d.fp := by
  unfold ctrBump; split <;> rfl
@[simp] theorem ctrBump_fc (d : Dev) (k : BlkKind) (i e x n : Nat) : (ctrBump d k i e x n).fc = d.fc := by
  unfold ctrBump; split <;> rfl
@[simp] theorem ctrBump_images (d : Dev) (k : BlkKind) (i e x n : Nat) : (ctrBump d k i e x n).images = d.images := by
  unfold ctrBump; split <;> rfl
@[simp] theorem ctrBump_alive (d : Dev) (k : BlkKind) (i e x n : Nat) : (ctrBump d k i e x n).alive = d.alive := by
  unfold ctrBump; split <;> rfl
@[simp] theorem ctrBump_aliveRun (d : Dev) (k : BlkKind) (i e x n : Nat) : (ctrBump d k i e x n).aliveRun = d.aliveRun := by
  unfold ctrBump; split <;> rfl
@[simp] theorem ctrBump_out (d : Dev) (k : BlkKind) (i e x n : Nat) : (ctrBump d k i e x n).out = d.out := by
  unfold ctrBump; split <;> rfl
@[simp] theorem ctrBump_resetReq (d : Dev) (k : BlkKind) (i e x n : Nat) : (ctrBump d k i e x n).resetReq = d.resetReq := by
  unfold ctrBump; split <;> rfl
@[simp] theorem countN_h4 (d : Dev) (e : Ev) (i x c p n : Nat) : (countN d e i x c p n).h4 = d.h4 := by
  unfold countN; dsimp only; split <;> split <;> simp
@[simp] theorem countN_regs (d : Dev) (e : Ev) (i x c p n : Nat) : (countN d e i x c p n).regs = d.regs := by
  unfold countN; dsimp only; split <;> split <;> simp
@[simp] theorem countN_latch (d : Dev) (e : Ev) (i x c p n : Nat) : (countN d e i x c p n).latch = d.latch := by
  unfold countN; dsimp only; split <;> split <;> simp
@[simp] theorem countN_blocks (d : Dev) (e : Ev) (i x c p n : Nat) : (countN d e i x c p n).blocks = d.blocks := by
  unfold countN; dsimp only; split <;> split <;> simp
@[simp] theorem countN_mem (d : Dev) (e : Ev) (i x c p n : Nat) : (countN d e i x c p n).mem = d.mem := by
  unfold countN; dsimp only; split <;> split <;> simp
@[simp] theorem countN_shadow (d : Dev) (e : Ev) (i x c p n : Nat) : (countN d e i x c p n).shadow = d.shadow := by
  unfold countN; dsimp only; split <;> split <;> simp
@[simp] theorem countN_marks (d : Dev) (e : Ev) (i x c p n : Nat) : (countN d e i x c p n).marks = d.marks := by
  unfold countN; dsimp only; split <;> split <;> simp
@[simp] theorem countN_free (d : Dev) (e : Ev) (i x c p n : Nat) : (countN d e i x c p n).free = d.free := by
  unfold countN; dsimp only; split <;> split <;> simp
@[simp] theorem countN_parts (d : Dev) (e : Ev) (i x c p n : Nat) : (countN d e i x c p n).parts = d.parts := by
  unfold countN; dsimp only; split <;> split <;> simp
@[simp] theorem countN_rings (d : Dev) (e : Ev) (i x c p n : Nat) : (countN d e i x c p n).rings = d.rings := by
  unfold countN; dsimp only; split <;> split <;> simp
@[simp] theorem countN_msix (d : Dev) (e : Ev) (i x c p n : Nat) : (countN d e i x c p n).msix = d.msix := by
  unfold countN; dsimp only; split <;> split <;> simp
@[simp] theorem countN_pba (d : Dev) (e : Ev) (i x c p n : Nat) : (countN d e i x c p n).pba = d.pba := by
  unfold countN; dsimp only; split <;> split <;> simp
@[simp] theorem countN_flt (d : Dev) (e : Ev) (i x c p n : Nat) : (countN d e i x c p n).flt = d.flt := by
  unfold countN; dsimp only; split <;> split <;> simp
@[simp] theorem countN_faults (d : Dev) (e : Ev) (i x c p n : Nat) : (countN d e i x c p n).faults = d.faults := by
  unfold countN; dsimp only; split <;> split <;> simp
@[simp] theorem countN_entries (d : Dev) (e : Ev) (i x c p n : Nat) : (countN d e i x c p n).entries = d.entries := by
  unfold countN; dsimp only; split <;> split <;> simp
@[simp] theorem countN_cmt (d : Dev) (e : Ev) (i x c p n : Nat) : (countN d e i x c p n).cmt = d.cmt := by
  unfold countN; dsimp only; split <;> split <;> simp
@[simp] theorem countN_tw (d : Dev) (e : Ev) (i x c p n : Nat) : (countN d e i x c p n).tw = d.tw := by
  unfold countN; dsimp only; split <;> split <;> simp
@[simp] theorem countN_wgtPend (d : Dev) (e : Ev) (i x c p n : Nat) : (countN d e i x c p n).wgtPend = d.wgtPend := by
  unfold countN; dsimp only; split <;> split <;> simp
@[simp] theorem countN_fp (d : Dev) (e : Ev) (i x c p n : Nat) : (countN d e i x c p n).fp = d.fp := by
  unfold countN; dsimp only; split <;> split <;> simp
@[simp] theorem countN_fc (d : Dev) (e : Ev) (i x c p n : Nat) : (countN d e i x c p n).fc = d.fc := by
  unfold countN; dsimp only; split <;> split <;> simp
@[simp] theorem countN_images (d : Dev) (e : Ev) (i x c p n : Nat) : (countN d e i x c p n).images = d.images := by
  unfold countN; dsimp only; split <;> split <;> simp
@[simp] theorem countN_alive (d : Dev) (e : Ev) (i x c p n : Nat) : (countN d e i x c p n).alive = d.alive := by
  unfold countN; dsimp only; split <;> split <;> simp
@[simp] theorem countN_aliveRun (d : Dev) (e : Ev) (i x c p n : Nat) : (countN d e i x c p n).aliveRun = d.aliveRun := by
  unfold countN; dsimp only; split <;> split <;> simp
@[simp] theorem countN_out (d : Dev) (e : Ev) (i x c p n : Nat) : (countN d e i x c p n).out = d.out := by
  unfold countN; dsimp only; split <;> split <;> simp
@[simp] theorem countN_resetReq (d : Dev) (e : Ev) (i x c p n : Nat) : (countN d e i x c p n).resetReq = d.resetReq := by
  unfold countN; dsimp only; split <;> split <;> simp
@[simp] theorem count_h4 (d : Dev) (e : Ev) (i x c p : Nat) : (count d e i x c p).h4 = d.h4 := countN_h4 ..
@[simp] theorem count_regs (d : Dev) (e : Ev) (i x c p : Nat) : (count d e i x c p).regs = d.regs := countN_regs ..
@[simp] theorem count_latch (d : Dev) (e : Ev) (i x c p : Nat) : (count d e i x c p).latch = d.latch := countN_latch ..
@[simp] theorem count_blocks (d : Dev) (e : Ev) (i x c p : Nat) : (count d e i x c p).blocks = d.blocks := countN_blocks ..
@[simp] theorem count_mem (d : Dev) (e : Ev) (i x c p : Nat) : (count d e i x c p).mem = d.mem := countN_mem ..
@[simp] theorem count_shadow (d : Dev) (e : Ev) (i x c p : Nat) : (count d e i x c p).shadow = d.shadow := countN_shadow ..
@[simp] theorem count_marks (d : Dev) (e : Ev) (i x c p : Nat) : (count d e i x c p).marks = d.marks := countN_marks ..
@[simp] theorem count_free (d : Dev) (e : Ev) (i x c p : Nat) : (count d e i x c p).free = d.free := countN_free ..
@[simp] theorem count_parts (d : Dev) (e : Ev) (i x c p : Nat) : (count d e i x c p).parts = d.parts := countN_parts ..
@[simp] theorem count_rings (d : Dev) (e : Ev) (i x c p : Nat) : (count d e i x c p).rings = d.rings := countN_rings ..
@[simp] theorem count_msix (d : Dev) (e : Ev) (i x c p : Nat) : (count d e i x c p).msix = d.msix := countN_msix ..
@[simp] theorem count_pba (d : Dev) (e : Ev) (i x c p : Nat) : (count d e i x c p).pba = d.pba := countN_pba ..
@[simp] theorem count_flt (d : Dev) (e : Ev) (i x c p : Nat) : (count d e i x c p).flt = d.flt := countN_flt ..
@[simp] theorem count_faults (d : Dev) (e : Ev) (i x c p : Nat) : (count d e i x c p).faults = d.faults := countN_faults ..
@[simp] theorem count_entries (d : Dev) (e : Ev) (i x c p : Nat) : (count d e i x c p).entries = d.entries := countN_entries ..
@[simp] theorem count_cmt (d : Dev) (e : Ev) (i x c p : Nat) : (count d e i x c p).cmt = d.cmt := countN_cmt ..
@[simp] theorem count_tw (d : Dev) (e : Ev) (i x c p : Nat) : (count d e i x c p).tw = d.tw := countN_tw ..
@[simp] theorem count_wgtPend (d : Dev) (e : Ev) (i x c p : Nat) : (count d e i x c p).wgtPend = d.wgtPend := countN_wgtPend ..
@[simp] theorem count_fp (d : Dev) (e : Ev) (i x c p : Nat) : (count d e i x c p).fp = d.fp := countN_fp ..
@[simp] theorem count_fc (d : Dev) (e : Ev) (i x c p : Nat) : (count d e i x c p).fc = d.fc := countN_fc ..
@[simp] theorem count_images (d : Dev) (e : Ev) (i x c p : Nat) : (count d e i x c p).images = d.images := countN_images ..
@[simp] theorem count_alive (d : Dev) (e : Ev) (i x c p : Nat) : (count d e i x c p).alive = d.alive := countN_alive ..
@[simp] theorem count_aliveRun (d : Dev) (e : Ev) (i x c p : Nat) : (count d e i x c p).aliveRun = d.aliveRun := countN_aliveRun ..
@[simp] theorem count_out (d : Dev) (e : Ev) (i x c p : Nat) : (count d e i x c p).out = d.out := countN_out ..
@[simp] theorem count_resetReq (d : Dev) (e : Ev) (i x c p : Nat) : (count d e i x c p).resetReq = d.resetReq := countN_resetReq ..

end Sys2Proof.Machine
end

