-- ==== Sys2Proof/Laws/Reads.lean ====
section
/-! SUPPORT. What each update leaves of what is read through registers, blocks, partitions, rings,
memories and batches. -/
namespace Sys2Proof.Machine

@[simp] theorem rdAt_setTw (d : Dev) (w : Twin) (b' : Blk) (sub' : Nat) (r' : Reg) (i' : Nat) : rdAt (setTw d w) b' sub' r' i' = rdAt d b' sub' r' i' := rfl
@[simp] theorem rdAt_setFp (d : Dev) (f : Fp) (b' : Blk) (sub' : Nat) (r' : Reg) (i' : Nat) : rdAt (setFp d f) b' sub' r' i' = rdAt d b' sub' r' i' := rfl
@[simp] theorem rdAt_setFlt (d : Dev) (f : FltSt) (b' : Blk) (sub' : Nat) (r' : Reg) (i' : Nat) : rdAt (setFlt d f) b' sub' r' i' = rdAt d b' sub' r' i' := rfl
@[simp] theorem rdAt_setFc (d : Dev) (f : FlowCtrs) (b' : Blk) (sub' : Nat) (r' : Reg) (i' : Nat) : rdAt (setFc d f) b' sub' r' i' = rdAt d b' sub' r' i' := rfl
@[simp] theorem rdAt_setBlk (d : Dev) (b : Blk) (x : BlkSt) (b' : Blk) (sub' : Nat) (r' : Reg) (i' : Nat) : rdAt (setBlk d b x) b' sub' r' i' = rdAt d b' sub' r' i' := rfl
@[simp] theorem rdAt_setPart (d : Dev) (p : Nat) (x : Part) (b' : Blk) (sub' : Nat) (r' : Reg) (i' : Nat) : rdAt (setPart d p x) b' sub' r' i' = rdAt d b' sub' r' i' := rfl
@[simp] theorem rdAt_setRing (d : Dev) (k : RingKind) (p r : Nat) (x : Ring) (b' : Blk) (sub' : Nat) (r' : Reg) (i' : Nat) : rdAt (setRing d k p r x) b' sub' r' i' = rdAt d b' sub' r' i' := rfl
@[simp] theorem rdAt_memSet (d : Dev) (m : Mem) (i j v : Nat) (b' : Blk) (sub' : Nat) (r' : Reg) (i' : Nat) : rdAt (memSet d m i j v) b' sub' r' i' = rdAt d b' sub' r' i' := rfl
@[simp] theorem rdAt_memSetD (d : Dev) (m : Mem) (i j x v : Nat) (b' : Blk) (sub' : Nat) (r' : Reg) (i' : Nat) : rdAt (memSetD d m i j x v) b' sub' r' i' = rdAt d b' sub' r' i' := rfl
@[simp] theorem rdAt_send (d : Dev) (o : Out) (b' : Blk) (sub' : Nat) (r' : Reg) (i' : Nat) : rdAt (send d o) b' sub' r' i' = rdAt d b' sub' r' i' := rfl
@[simp] theorem rdAt_setBatch (d : Dev) (b : Batch) (b' : Blk) (sub' : Nat) (r' : Reg) (i' : Nat) : rdAt (setBatch d b) b' sub' r' i' = rdAt d b' sub' r' i' := rfl
@[simp] theorem rdAt_dropBatch (d : Dev) (g : Nat) (b' : Blk) (sub' : Nat) (r' : Reg) (i' : Nat) : rdAt (dropBatch d g) b' sub' r' i' = rdAt d b' sub' r' i' := rfl
@[simp] theorem rdAt_setOwed (d : Dev) (u e v : Nat) (b' : Blk) (sub' : Nat) (r' : Reg) (i' : Nat) : rdAt (setOwed d u e v) b' sub' r' i' = rdAt d b' sub' r' i' := rfl
@[simp] theorem rdAt_ctrBump (d : Dev) (k : BlkKind) (i e x n : Nat) (b' : Blk) (sub' : Nat) (r' : Reg) (i' : Nat) : rdAt (ctrBump d k i e x n) b' sub' r' i' = rdAt d b' sub' r' i' := by simp [rdAt]
@[simp] theorem rdAt_countN (d : Dev) (e : Ev) (i x c p n : Nat) (b' : Blk) (sub' : Nat) (r' : Reg) (i' : Nat) : rdAt (countN d e i x c p n) b' sub' r' i' = rdAt d b' sub' r' i' := by simp [rdAt]
@[simp] theorem rdAt_count (d : Dev) (e : Ev) (i x c p : Nat) (b' : Blk) (sub' : Nat) (r' : Reg) (i' : Nat) : rdAt (count d e i x c p) b' sub' r' i' = rdAt d b' sub' r' i' := by simp [rdAt]
@[simp] theorem rd_setTw (d : Dev) (w : Twin) (b' : Blk) (r' : Reg) (i' : Nat) : rd (setTw d w) b' r' i' = rd d b' r' i' := rfl
@[simp] theorem rd_setFp (d : Dev) (f : Fp) (b' : Blk) (r' : Reg) (i' : Nat) : rd (setFp d f) b' r' i' = rd d b' r' i' := rfl
@[simp] theorem rd_setFlt (d : Dev) (f : FltSt) (b' : Blk) (r' : Reg) (i' : Nat) : rd (setFlt d f) b' r' i' = rd d b' r' i' := rfl
@[simp] theorem rd_setFc (d : Dev) (f : FlowCtrs) (b' : Blk) (r' : Reg) (i' : Nat) : rd (setFc d f) b' r' i' = rd d b' r' i' := rfl
@[simp] theorem rd_setBlk (d : Dev) (b : Blk) (x : BlkSt) (b' : Blk) (r' : Reg) (i' : Nat) : rd (setBlk d b x) b' r' i' = rd d b' r' i' := rfl
@[simp] theorem rd_setPart (d : Dev) (p : Nat) (x : Part) (b' : Blk) (r' : Reg) (i' : Nat) : rd (setPart d p x) b' r' i' = rd d b' r' i' := rfl
@[simp] theorem rd_setRing (d : Dev) (k : RingKind) (p r : Nat) (x : Ring) (b' : Blk) (r' : Reg) (i' : Nat) : rd (setRing d k p r x) b' r' i' = rd d b' r' i' := rfl
@[simp] theorem rd_memSet (d : Dev) (m : Mem) (i j v : Nat) (b' : Blk) (r' : Reg) (i' : Nat) : rd (memSet d m i j v) b' r' i' = rd d b' r' i' := rfl
@[simp] theorem rd_memSetD (d : Dev) (m : Mem) (i j x v : Nat) (b' : Blk) (r' : Reg) (i' : Nat) : rd (memSetD d m i j x v) b' r' i' = rd d b' r' i' := rfl
@[simp] theorem rd_send (d : Dev) (o : Out) (b' : Blk) (r' : Reg) (i' : Nat) : rd (send d o) b' r' i' = rd d b' r' i' := rfl
@[simp] theorem rd_setBatch (d : Dev) (b : Batch) (b' : Blk) (r' : Reg) (i' : Nat) : rd (setBatch d b) b' r' i' = rd d b' r' i' := rfl
@[simp] theorem rd_dropBatch (d : Dev) (g : Nat) (b' : Blk) (r' : Reg) (i' : Nat) : rd (dropBatch d g) b' r' i' = rd d b' r' i' := rfl
@[simp] theorem rd_setOwed (d : Dev) (u e v : Nat) (b' : Blk) (r' : Reg) (i' : Nat) : rd (setOwed d u e v) b' r' i' = rd d b' r' i' := rfl
@[simp] theorem rd_ctrBump (d : Dev) (k : BlkKind) (i e x n : Nat) (b' : Blk) (r' : Reg) (i' : Nat) : rd (ctrBump d k i e x n) b' r' i' = rd d b' r' i' := by simp [rd]
@[simp] theorem rd_countN (d : Dev) (e : Ev) (i x c p n : Nat) (b' : Blk) (r' : Reg) (i' : Nat) : rd (countN d e i x c p n) b' r' i' = rd d b' r' i' := by simp [rd]
@[simp] theorem rd_count (d : Dev) (e : Ev) (i x c p : Nat) (b' : Blk) (r' : Reg) (i' : Nat) : rd (count d e i x c p) b' r' i' = rd d b' r' i' := by simp [rd]
@[simp] theorem rdF_setTw (d : Dev) (w : Twin) (b' : Blk) (r' : Reg) (hi' lo' i' : Nat) : rdF (setTw d w) b' r' hi' lo' i' = rdF d b' r' hi' lo' i' := rfl
@[simp] theorem rdF_setFp (d : Dev) (f : Fp) (b' : Blk) (r' : Reg) (hi' lo' i' : Nat) : rdF (setFp d f) b' r' hi' lo' i' = rdF d b' r' hi' lo' i' := rfl
@[simp] theorem rdF_setFlt (d : Dev) (f : FltSt) (b' : Blk) (r' : Reg) (hi' lo' i' : Nat) : rdF (setFlt d f) b' r' hi' lo' i' = rdF d b' r' hi' lo' i' := rfl
@[simp] theorem rdF_setFc (d : Dev) (f : FlowCtrs) (b' : Blk) (r' : Reg) (hi' lo' i' : Nat) : rdF (setFc d f) b' r' hi' lo' i' = rdF d b' r' hi' lo' i' := rfl
@[simp] theorem rdF_setBlk (d : Dev) (b : Blk) (x : BlkSt) (b' : Blk) (r' : Reg) (hi' lo' i' : Nat) : rdF (setBlk d b x) b' r' hi' lo' i' = rdF d b' r' hi' lo' i' := rfl
@[simp] theorem rdF_setPart (d : Dev) (p : Nat) (x : Part) (b' : Blk) (r' : Reg) (hi' lo' i' : Nat) : rdF (setPart d p x) b' r' hi' lo' i' = rdF d b' r' hi' lo' i' := rfl
@[simp] theorem rdF_setRing (d : Dev) (k : RingKind) (p r : Nat) (x : Ring) (b' : Blk) (r' : Reg) (hi' lo' i' : Nat) : rdF (setRing d k p r x) b' r' hi' lo' i' = rdF d b' r' hi' lo' i' := rfl
@[simp] theorem rdF_memSet (d : Dev) (m : Mem) (i j v : Nat) (b' : Blk) (r' : Reg) (hi' lo' i' : Nat) : rdF (memSet d m i j v) b' r' hi' lo' i' = rdF d b' r' hi' lo' i' := rfl
@[simp] theorem rdF_memSetD (d : Dev) (m : Mem) (i j x v : Nat) (b' : Blk) (r' : Reg) (hi' lo' i' : Nat) : rdF (memSetD d m i j x v) b' r' hi' lo' i' = rdF d b' r' hi' lo' i' := rfl
@[simp] theorem rdF_send (d : Dev) (o : Out) (b' : Blk) (r' : Reg) (hi' lo' i' : Nat) : rdF (send d o) b' r' hi' lo' i' = rdF d b' r' hi' lo' i' := rfl
@[simp] theorem rdF_setBatch (d : Dev) (b : Batch) (b' : Blk) (r' : Reg) (hi' lo' i' : Nat) : rdF (setBatch d b) b' r' hi' lo' i' = rdF d b' r' hi' lo' i' := rfl
@[simp] theorem rdF_dropBatch (d : Dev) (g : Nat) (b' : Blk) (r' : Reg) (hi' lo' i' : Nat) : rdF (dropBatch d g) b' r' hi' lo' i' = rdF d b' r' hi' lo' i' := rfl
@[simp] theorem rdF_setOwed (d : Dev) (u e v : Nat) (b' : Blk) (r' : Reg) (hi' lo' i' : Nat) : rdF (setOwed d u e v) b' r' hi' lo' i' = rdF d b' r' hi' lo' i' := rfl
@[simp] theorem rdF_ctrBump (d : Dev) (k : BlkKind) (i e x n : Nat) (b' : Blk) (r' : Reg) (hi' lo' i' : Nat) : rdF (ctrBump d k i e x n) b' r' hi' lo' i' = rdF d b' r' hi' lo' i' := by simp [rdF]
@[simp] theorem rdF_countN (d : Dev) (e : Ev) (i x c p n : Nat) (b' : Blk) (r' : Reg) (hi' lo' i' : Nat) : rdF (countN d e i x c p n) b' r' hi' lo' i' = rdF d b' r' hi' lo' i' := by simp [rdF]
@[simp] theorem rdF_count (d : Dev) (e : Ev) (i x c p : Nat) (b' : Blk) (r' : Reg) (hi' lo' i' : Nat) : rdF (count d e i x c p) b' r' hi' lo' i' = rdF d b' r' hi' lo' i' := by simp [rdF]
@[simp] theorem blkSt_setTw (d : Dev) (w : Twin) (b' : Blk) : blkSt (setTw d w) b' = blkSt d b' := rfl
@[simp] theorem blkSt_setFp (d : Dev) (f : Fp) (b' : Blk) : blkSt (setFp d f) b' = blkSt d b' := rfl
@[simp] theorem blkSt_setFlt (d : Dev) (f : FltSt) (b' : Blk) : blkSt (setFlt d f) b' = blkSt d b' := rfl
@[simp] theorem blkSt_setFc (d : Dev) (f : FlowCtrs) (b' : Blk) : blkSt (setFc d f) b' = blkSt d b' := rfl
@[simp] theorem blkSt_setPart (d : Dev) (p : Nat) (x : Part) (b' : Blk) : blkSt (setPart d p x) b' = blkSt d b' := rfl
@[simp] theorem blkSt_setRing (d : Dev) (k : RingKind) (p r : Nat) (x : Ring) (b' : Blk) : blkSt (setRing d k p r x) b' = blkSt d b' := rfl
@[simp] theorem blkSt_wrAt (d : Dev) (b : Blk) (sub : Nat) (r : Reg) (i v : Nat) (b' : Blk) : blkSt (wrAt d b sub r i v) b' = blkSt d b' := rfl
@[simp] theorem blkSt_wr (d : Dev) (b : Blk) (r : Reg) (v i : Nat) (b' : Blk) : blkSt (wr d b r v i) b' = blkSt d b' := rfl
@[simp] theorem blkSt_wrF (d : Dev) (b : Blk) (r : Reg) (hi lo v i : Nat) (b' : Blk) : blkSt (wrF d b r hi lo v i) b' = blkSt d b' := rfl
@[simp] theorem blkSt_memSet (d : Dev) (m : Mem) (i j v : Nat) (b' : Blk) : blkSt (memSet d m i j v) b' = blkSt d b' := rfl
@[simp] theorem blkSt_memSetD (d : Dev) (m : Mem) (i j x v : Nat) (b' : Blk) : blkSt (memSetD d m i j x v) b' = blkSt d b' := rfl
@[simp] theorem blkSt_send (d : Dev) (o : Out) (b' : Blk) : blkSt (send d o) b' = blkSt d b' := rfl
@[simp] theorem blkSt_setBatch (d : Dev) (b : Batch) (b' : Blk) : blkSt (setBatch d b) b' = blkSt d b' := rfl
@[simp] theorem blkSt_dropBatch (d : Dev) (g : Nat) (b' : Blk) : blkSt (dropBatch d g) b' = blkSt d b' := rfl
@[simp] theorem blkSt_setOwed (d : Dev) (u e v : Nat) (b' : Blk) : blkSt (setOwed d u e v) b' = blkSt d b' := rfl
@[simp] theorem blkSt_ctrBump (d : Dev) (k : BlkKind) (i e x n : Nat) (b' : Blk) : blkSt (ctrBump d k i e x n) b' = blkSt d b' := by simp [blkSt]
@[simp] theorem blkSt_countN (d : Dev) (e : Ev) (i x c p n : Nat) (b' : Blk) : blkSt (countN d e i x c p n) b' = blkSt d b' := by simp [blkSt]
@[simp] theorem blkSt_count (d : Dev) (e : Ev) (i x c p : Nat) (b' : Blk) : blkSt (count d e i x c p) b' = blkSt d b' := by simp [blkSt]
@[simp] theorem isOn_setTw (d : Dev) (w : Twin) (b' : Blk) : isOn (setTw d w) b' = isOn d b' := rfl
@[simp] theorem isOn_setFp (d : Dev) (f : Fp) (b' : Blk) : isOn (setFp d f) b' = isOn d b' := rfl
@[simp] theorem isOn_setFlt (d : Dev) (f : FltSt) (b' : Blk) : isOn (setFlt d f) b' = isOn d b' := rfl
@[simp] theorem isOn_setFc (d : Dev) (f : FlowCtrs) (b' : Blk) : isOn (setFc d f) b' = isOn d b' := rfl
@[simp] theorem isOn_setPart (d : Dev) (p : Nat) (x : Part) (b' : Blk) : isOn (setPart d p x) b' = isOn d b' := rfl
@[simp] theorem isOn_setRing (d : Dev) (k : RingKind) (p r : Nat) (x : Ring) (b' : Blk) : isOn (setRing d k p r x) b' = isOn d b' := rfl
@[simp] theorem isOn_wrAt (d : Dev) (b : Blk) (sub : Nat) (r : Reg) (i v : Nat) (b' : Blk) : isOn (wrAt d b sub r i v) b' = isOn d b' := rfl
@[simp] theorem isOn_wr (d : Dev) (b : Blk) (r : Reg) (v i : Nat) (b' : Blk) : isOn (wr d b r v i) b' = isOn d b' := rfl
@[simp] theorem isOn_wrF (d : Dev) (b : Blk) (r : Reg) (hi lo v i : Nat) (b' : Blk) : isOn (wrF d b r hi lo v i) b' = isOn d b' := rfl
@[simp] theorem isOn_memSet (d : Dev) (m : Mem) (i j v : Nat) (b' : Blk) : isOn (memSet d m i j v) b' = isOn d b' := rfl
@[simp] theorem isOn_memSetD (d : Dev) (m : Mem) (i j x v : Nat) (b' : Blk) : isOn (memSetD d m i j x v) b' = isOn d b' := rfl
@[simp] theorem isOn_send (d : Dev) (o : Out) (b' : Blk) : isOn (send d o) b' = isOn d b' := rfl
@[simp] theorem isOn_setBatch (d : Dev) (b : Batch) (b' : Blk) : isOn (setBatch d b) b' = isOn d b' := rfl
@[simp] theorem isOn_dropBatch (d : Dev) (g : Nat) (b' : Blk) : isOn (dropBatch d g) b' = isOn d b' := rfl
@[simp] theorem isOn_setOwed (d : Dev) (u e v : Nat) (b' : Blk) : isOn (setOwed d u e v) b' = isOn d b' := rfl
@[simp] theorem isOn_ctrBump (d : Dev) (k : BlkKind) (i e x n : Nat) (b' : Blk) : isOn (ctrBump d k i e x n) b' = isOn d b' := by simp [isOn]
@[simp] theorem isOn_countN (d : Dev) (e : Ev) (i x c p n : Nat) (b' : Blk) : isOn (countN d e i x c p n) b' = isOn d b' := by simp [isOn]
@[simp] theorem isOn_count (d : Dev) (e : Ev) (i x c p : Nat) (b' : Blk) : isOn (count d e i x c p) b' = isOn d b' := by simp [isOn]
@[simp] theorem part_setTw (d : Dev) (w : Twin) (p' : Nat) : part (setTw d w) p' = part d p' := rfl
@[simp] theorem part_setFp (d : Dev) (f : Fp) (p' : Nat) : part (setFp d f) p' = part d p' := rfl
@[simp] theorem part_setFlt (d : Dev) (f : FltSt) (p' : Nat) : part (setFlt d f) p' = part d p' := rfl
@[simp] theorem part_setFc (d : Dev) (f : FlowCtrs) (p' : Nat) : part (setFc d f) p' = part d p' := rfl
@[simp] theorem part_setBlk (d : Dev) (b : Blk) (x : BlkSt) (p' : Nat) : part (setBlk d b x) p' = part d p' := rfl
@[simp] theorem part_setRing (d : Dev) (k : RingKind) (p r : Nat) (x : Ring) (p' : Nat) : part (setRing d k p r x) p' = part d p' := rfl
@[simp] theorem part_wrAt (d : Dev) (b : Blk) (sub : Nat) (r : Reg) (i v : Nat) (p' : Nat) : part (wrAt d b sub r i v) p' = part d p' := rfl
@[simp] theorem part_wr (d : Dev) (b : Blk) (r : Reg) (v i : Nat) (p' : Nat) : part (wr d b r v i) p' = part d p' := rfl
@[simp] theorem part_wrF (d : Dev) (b : Blk) (r : Reg) (hi lo v i : Nat) (p' : Nat) : part (wrF d b r hi lo v i) p' = part d p' := rfl
@[simp] theorem part_memSet (d : Dev) (m : Mem) (i j v : Nat) (p' : Nat) : part (memSet d m i j v) p' = part d p' := rfl
@[simp] theorem part_memSetD (d : Dev) (m : Mem) (i j x v : Nat) (p' : Nat) : part (memSetD d m i j x v) p' = part d p' := rfl
@[simp] theorem part_send (d : Dev) (o : Out) (p' : Nat) : part (send d o) p' = part d p' := rfl
@[simp] theorem part_setBatch (d : Dev) (b : Batch) (p' : Nat) : part (setBatch d b) p' = part d p' := rfl
@[simp] theorem part_dropBatch (d : Dev) (g : Nat) (p' : Nat) : part (dropBatch d g) p' = part d p' := rfl
@[simp] theorem part_setOwed (d : Dev) (u e v : Nat) (p' : Nat) : part (setOwed d u e v) p' = part d p' := rfl
@[simp] theorem part_ctrBump (d : Dev) (k : BlkKind) (i e x n : Nat) (p' : Nat) : part (ctrBump d k i e x n) p' = part d p' := by simp [part]
@[simp] theorem part_countN (d : Dev) (e : Ev) (i x c p n : Nat) (p' : Nat) : part (countN d e i x c p n) p' = part d p' := by simp [part]
@[simp] theorem part_count (d : Dev) (e : Ev) (i x c p : Nat) (p' : Nat) : part (count d e i x c p) p' = part d p' := by simp [part]
@[simp] theorem ring_setTw (d : Dev) (w : Twin) (k' : RingKind) (p' r' : Nat) : ring (setTw d w) k' p' r' = ring d k' p' r' := rfl
@[simp] theorem ring_setFp (d : Dev) (f : Fp) (k' : RingKind) (p' r' : Nat) : ring (setFp d f) k' p' r' = ring d k' p' r' := rfl
@[simp] theorem ring_setFlt (d : Dev) (f : FltSt) (k' : RingKind) (p' r' : Nat) : ring (setFlt d f) k' p' r' = ring d k' p' r' := rfl
@[simp] theorem ring_setFc (d : Dev) (f : FlowCtrs) (k' : RingKind) (p' r' : Nat) : ring (setFc d f) k' p' r' = ring d k' p' r' := rfl
@[simp] theorem ring_setBlk (d : Dev) (b : Blk) (x : BlkSt) (k' : RingKind) (p' r' : Nat) : ring (setBlk d b x) k' p' r' = ring d k' p' r' := rfl
@[simp] theorem ring_setPart (d : Dev) (p : Nat) (x : Part) (k' : RingKind) (p' r' : Nat) : ring (setPart d p x) k' p' r' = ring d k' p' r' := rfl
@[simp] theorem ring_wrAt (d : Dev) (b : Blk) (sub : Nat) (r : Reg) (i v : Nat) (k' : RingKind) (p' r' : Nat) : ring (wrAt d b sub r i v) k' p' r' = ring d k' p' r' := rfl
@[simp] theorem ring_wr (d : Dev) (b : Blk) (r : Reg) (v i : Nat) (k' : RingKind) (p' r' : Nat) : ring (wr d b r v i) k' p' r' = ring d k' p' r' := rfl
@[simp] theorem ring_wrF (d : Dev) (b : Blk) (r : Reg) (hi lo v i : Nat) (k' : RingKind) (p' r' : Nat) : ring (wrF d b r hi lo v i) k' p' r' = ring d k' p' r' := rfl
@[simp] theorem ring_memSet (d : Dev) (m : Mem) (i j v : Nat) (k' : RingKind) (p' r' : Nat) : ring (memSet d m i j v) k' p' r' = ring d k' p' r' := rfl
@[simp] theorem ring_memSetD (d : Dev) (m : Mem) (i j x v : Nat) (k' : RingKind) (p' r' : Nat) : ring (memSetD d m i j x v) k' p' r' = ring d k' p' r' := rfl
@[simp] theorem ring_send (d : Dev) (o : Out) (k' : RingKind) (p' r' : Nat) : ring (send d o) k' p' r' = ring d k' p' r' := rfl
@[simp] theorem ring_setBatch (d : Dev) (b : Batch) (k' : RingKind) (p' r' : Nat) : ring (setBatch d b) k' p' r' = ring d k' p' r' := rfl
@[simp] theorem ring_dropBatch (d : Dev) (g : Nat) (k' : RingKind) (p' r' : Nat) : ring (dropBatch d g) k' p' r' = ring d k' p' r' := rfl
@[simp] theorem ring_setOwed (d : Dev) (u e v : Nat) (k' : RingKind) (p' r' : Nat) : ring (setOwed d u e v) k' p' r' = ring d k' p' r' := rfl
@[simp] theorem ring_ctrBump (d : Dev) (k : BlkKind) (i e x n : Nat) (k' : RingKind) (p' r' : Nat) : ring (ctrBump d k i e x n) k' p' r' = ring d k' p' r' := by simp [ring]
@[simp] theorem ring_countN (d : Dev) (e : Ev) (i x c p n : Nat) (k' : RingKind) (p' r' : Nat) : ring (countN d e i x c p n) k' p' r' = ring d k' p' r' := by simp [ring]
@[simp] theorem ring_count (d : Dev) (e : Ev) (i x c p : Nat) (k' : RingKind) (p' r' : Nat) : ring (count d e i x c p) k' p' r' = ring d k' p' r' := by simp [ring]
@[simp] theorem memGetD_setTw (d : Dev) (w : Twin) (m' : Mem) (i' j' x' : Nat) : memGetD (setTw d w) m' i' j' x' = memGetD d m' i' j' x' := rfl
@[simp] theorem memGetD_setFp (d : Dev) (f : Fp) (m' : Mem) (i' j' x' : Nat) : memGetD (setFp d f) m' i' j' x' = memGetD d m' i' j' x' := rfl
@[simp] theorem memGetD_setFlt (d : Dev) (f : FltSt) (m' : Mem) (i' j' x' : Nat) : memGetD (setFlt d f) m' i' j' x' = memGetD d m' i' j' x' := rfl
@[simp] theorem memGetD_setFc (d : Dev) (f : FlowCtrs) (m' : Mem) (i' j' x' : Nat) : memGetD (setFc d f) m' i' j' x' = memGetD d m' i' j' x' := rfl
@[simp] theorem memGetD_setBlk (d : Dev) (b : Blk) (x : BlkSt) (m' : Mem) (i' j' x' : Nat) : memGetD (setBlk d b x) m' i' j' x' = memGetD d m' i' j' x' := rfl
@[simp] theorem memGetD_setPart (d : Dev) (p : Nat) (x : Part) (m' : Mem) (i' j' x' : Nat) : memGetD (setPart d p x) m' i' j' x' = memGetD d m' i' j' x' := rfl
@[simp] theorem memGetD_setRing (d : Dev) (k : RingKind) (p r : Nat) (x : Ring) (m' : Mem) (i' j' x' : Nat) : memGetD (setRing d k p r x) m' i' j' x' = memGetD d m' i' j' x' := rfl
@[simp] theorem memGetD_wrAt (d : Dev) (b : Blk) (sub : Nat) (r : Reg) (i v : Nat) (m' : Mem) (i' j' x' : Nat) : memGetD (wrAt d b sub r i v) m' i' j' x' = memGetD d m' i' j' x' := rfl
@[simp] theorem memGetD_wr (d : Dev) (b : Blk) (r : Reg) (v i : Nat) (m' : Mem) (i' j' x' : Nat) : memGetD (wr d b r v i) m' i' j' x' = memGetD d m' i' j' x' := rfl
@[simp] theorem memGetD_wrF (d : Dev) (b : Blk) (r : Reg) (hi lo v i : Nat) (m' : Mem) (i' j' x' : Nat) : memGetD (wrF d b r hi lo v i) m' i' j' x' = memGetD d m' i' j' x' := rfl
@[simp] theorem memGetD_send (d : Dev) (o : Out) (m' : Mem) (i' j' x' : Nat) : memGetD (send d o) m' i' j' x' = memGetD d m' i' j' x' := rfl
@[simp] theorem memGetD_setBatch (d : Dev) (b : Batch) (m' : Mem) (i' j' x' : Nat) : memGetD (setBatch d b) m' i' j' x' = memGetD d m' i' j' x' := rfl
@[simp] theorem memGetD_dropBatch (d : Dev) (g : Nat) (m' : Mem) (i' j' x' : Nat) : memGetD (dropBatch d g) m' i' j' x' = memGetD d m' i' j' x' := rfl
@[simp] theorem memGetD_setOwed (d : Dev) (u e v : Nat) (m' : Mem) (i' j' x' : Nat) : memGetD (setOwed d u e v) m' i' j' x' = memGetD d m' i' j' x' := rfl
@[simp] theorem memGetD_ctrBump (d : Dev) (k : BlkKind) (i e x n : Nat) (m' : Mem) (i' j' x' : Nat) : memGetD (ctrBump d k i e x n) m' i' j' x' = memGetD d m' i' j' x' := by simp [memGetD]
@[simp] theorem memGetD_countN (d : Dev) (e : Ev) (i x c p n : Nat) (m' : Mem) (i' j' x' : Nat) : memGetD (countN d e i x c p n) m' i' j' x' = memGetD d m' i' j' x' := by simp [memGetD]
@[simp] theorem memGetD_count (d : Dev) (e : Ev) (i x c p : Nat) (m' : Mem) (i' j' x' : Nat) : memGetD (count d e i x c p) m' i' j' x' = memGetD d m' i' j' x' := by simp [memGetD]
@[simp] theorem memGet_setTw (d : Dev) (w : Twin) (m' : Mem) (i' j' : Nat) : memGet (setTw d w) m' i' j' = memGet d m' i' j' := rfl
@[simp] theorem memGet_setFp (d : Dev) (f : Fp) (m' : Mem) (i' j' : Nat) : memGet (setFp d f) m' i' j' = memGet d m' i' j' := rfl
@[simp] theorem memGet_setFlt (d : Dev) (f : FltSt) (m' : Mem) (i' j' : Nat) : memGet (setFlt d f) m' i' j' = memGet d m' i' j' := rfl
@[simp] theorem memGet_setFc (d : Dev) (f : FlowCtrs) (m' : Mem) (i' j' : Nat) : memGet (setFc d f) m' i' j' = memGet d m' i' j' := rfl
@[simp] theorem memGet_setBlk (d : Dev) (b : Blk) (x : BlkSt) (m' : Mem) (i' j' : Nat) : memGet (setBlk d b x) m' i' j' = memGet d m' i' j' := rfl
@[simp] theorem memGet_setPart (d : Dev) (p : Nat) (x : Part) (m' : Mem) (i' j' : Nat) : memGet (setPart d p x) m' i' j' = memGet d m' i' j' := rfl
@[simp] theorem memGet_setRing (d : Dev) (k : RingKind) (p r : Nat) (x : Ring) (m' : Mem) (i' j' : Nat) : memGet (setRing d k p r x) m' i' j' = memGet d m' i' j' := rfl
@[simp] theorem memGet_wrAt (d : Dev) (b : Blk) (sub : Nat) (r : Reg) (i v : Nat) (m' : Mem) (i' j' : Nat) : memGet (wrAt d b sub r i v) m' i' j' = memGet d m' i' j' := rfl
@[simp] theorem memGet_wr (d : Dev) (b : Blk) (r : Reg) (v i : Nat) (m' : Mem) (i' j' : Nat) : memGet (wr d b r v i) m' i' j' = memGet d m' i' j' := rfl
@[simp] theorem memGet_wrF (d : Dev) (b : Blk) (r : Reg) (hi lo v i : Nat) (m' : Mem) (i' j' : Nat) : memGet (wrF d b r hi lo v i) m' i' j' = memGet d m' i' j' := rfl
@[simp] theorem memGet_send (d : Dev) (o : Out) (m' : Mem) (i' j' : Nat) : memGet (send d o) m' i' j' = memGet d m' i' j' := rfl
@[simp] theorem memGet_setBatch (d : Dev) (b : Batch) (m' : Mem) (i' j' : Nat) : memGet (setBatch d b) m' i' j' = memGet d m' i' j' := rfl
@[simp] theorem memGet_dropBatch (d : Dev) (g : Nat) (m' : Mem) (i' j' : Nat) : memGet (dropBatch d g) m' i' j' = memGet d m' i' j' := rfl
@[simp] theorem memGet_setOwed (d : Dev) (u e v : Nat) (m' : Mem) (i' j' : Nat) : memGet (setOwed d u e v) m' i' j' = memGet d m' i' j' := rfl
@[simp] theorem memGet_ctrBump (d : Dev) (k : BlkKind) (i e x n : Nat) (m' : Mem) (i' j' : Nat) : memGet (ctrBump d k i e x n) m' i' j' = memGet d m' i' j' := by simp [memGet]
@[simp] theorem memGet_countN (d : Dev) (e : Ev) (i x c p n : Nat) (m' : Mem) (i' j' : Nat) : memGet (countN d e i x c p n) m' i' j' = memGet d m' i' j' := by simp [memGet]
@[simp] theorem memGet_count (d : Dev) (e : Ev) (i x c p : Nat) (m' : Mem) (i' j' : Nat) : memGet (count d e i x c p) m' i' j' = memGet d m' i' j' := by simp [memGet]
@[simp] theorem slcState_setTw (d : Dev) (w : Twin) (s' : Nat) : slcState (setTw d w) s' = slcState d s' := rfl
@[simp] theorem slcState_setFp (d : Dev) (f : Fp) (s' : Nat) : slcState (setFp d f) s' = slcState d s' := rfl
@[simp] theorem slcState_setFlt (d : Dev) (f : FltSt) (s' : Nat) : slcState (setFlt d f) s' = slcState d s' := rfl
@[simp] theorem slcState_setFc (d : Dev) (f : FlowCtrs) (s' : Nat) : slcState (setFc d f) s' = slcState d s' := rfl
@[simp] theorem slcState_setBlk (d : Dev) (b : Blk) (x : BlkSt) (s' : Nat) : slcState (setBlk d b x) s' = slcState d s' := rfl
@[simp] theorem slcState_setPart (d : Dev) (p : Nat) (x : Part) (s' : Nat) : slcState (setPart d p x) s' = slcState d s' := rfl
@[simp] theorem slcState_setRing (d : Dev) (k : RingKind) (p r : Nat) (x : Ring) (s' : Nat) : slcState (setRing d k p r x) s' = slcState d s' := rfl
@[simp] theorem slcState_memSet (d : Dev) (m : Mem) (i j v : Nat) (s' : Nat) : slcState (memSet d m i j v) s' = slcState d s' := rfl
@[simp] theorem slcState_memSetD (d : Dev) (m : Mem) (i j x v : Nat) (s' : Nat) : slcState (memSetD d m i j x v) s' = slcState d s' := rfl
@[simp] theorem slcState_send (d : Dev) (o : Out) (s' : Nat) : slcState (send d o) s' = slcState d s' := rfl
@[simp] theorem slcState_setBatch (d : Dev) (b : Batch) (s' : Nat) : slcState (setBatch d b) s' = slcState d s' := rfl
@[simp] theorem slcState_dropBatch (d : Dev) (g : Nat) (s' : Nat) : slcState (dropBatch d g) s' = slcState d s' := rfl
@[simp] theorem slcState_setOwed (d : Dev) (u e v : Nat) (s' : Nat) : slcState (setOwed d u e v) s' = slcState d s' := rfl
@[simp] theorem slcState_ctrBump (d : Dev) (k : BlkKind) (i e x n : Nat) (s' : Nat) : slcState (ctrBump d k i e x n) s' = slcState d s' := by simp [slcState]
@[simp] theorem slcState_countN (d : Dev) (e : Ev) (i x c p n : Nat) (s' : Nat) : slcState (countN d e i x c p n) s' = slcState d s' := by simp [slcState]
@[simp] theorem slcState_count (d : Dev) (e : Ev) (i x c p : Nat) (s' : Nat) : slcState (count d e i x c p) s' = slcState d s' := by simp [slcState]
@[simp] theorem powered_setTw (d : Dev) (w : Twin) : powered (setTw d w) = powered d := rfl
@[simp] theorem powered_setFp (d : Dev) (f : Fp) : powered (setFp d f) = powered d := rfl
@[simp] theorem powered_setFlt (d : Dev) (f : FltSt) : powered (setFlt d f) = powered d := rfl
@[simp] theorem powered_setFc (d : Dev) (f : FlowCtrs) : powered (setFc d f) = powered d := rfl
@[simp] theorem powered_setBlk (d : Dev) (b : Blk) (x : BlkSt) : powered (setBlk d b x) = powered d := rfl
@[simp] theorem powered_setPart (d : Dev) (p : Nat) (x : Part) : powered (setPart d p x) = powered d := rfl
@[simp] theorem powered_setRing (d : Dev) (k : RingKind) (p r : Nat) (x : Ring) : powered (setRing d k p r x) = powered d := rfl
@[simp] theorem powered_wrAt (d : Dev) (b : Blk) (sub : Nat) (r : Reg) (i v : Nat) : powered (wrAt d b sub r i v) = powered d := rfl
@[simp] theorem powered_wr (d : Dev) (b : Blk) (r : Reg) (v i : Nat) : powered (wr d b r v i) = powered d := rfl
@[simp] theorem powered_wrF (d : Dev) (b : Blk) (r : Reg) (hi lo v i : Nat) : powered (wrF d b r hi lo v i) = powered d := rfl
@[simp] theorem powered_send (d : Dev) (o : Out) : powered (send d o) = powered d := rfl
@[simp] theorem powered_setBatch (d : Dev) (b : Batch) : powered (setBatch d b) = powered d := rfl
@[simp] theorem powered_dropBatch (d : Dev) (g : Nat) : powered (dropBatch d g) = powered d := rfl
@[simp] theorem powered_setOwed (d : Dev) (u e v : Nat) : powered (setOwed d u e v) = powered d := rfl
@[simp] theorem powered_ctrBump (d : Dev) (k : BlkKind) (i e x n : Nat) : powered (ctrBump d k i e x n) = powered d := by simp [powered]
@[simp] theorem powered_countN (d : Dev) (e : Ev) (i x c p n : Nat) : powered (countN d e i x c p n) = powered d := by simp [powered]
@[simp] theorem powered_count (d : Dev) (e : Ev) (i x c p : Nat) : powered (count d e i x c p) = powered d := by simp [powered]
@[simp] theorem twinState_setTw (d : Dev) (w : Twin) : twinState (setTw d w) = twinState d := rfl
@[simp] theorem twinState_setFp (d : Dev) (f : Fp) : twinState (setFp d f) = twinState d := rfl
@[simp] theorem twinState_setFlt (d : Dev) (f : FltSt) : twinState (setFlt d f) = twinState d := rfl
@[simp] theorem twinState_setFc (d : Dev) (f : FlowCtrs) : twinState (setFc d f) = twinState d := rfl
@[simp] theorem twinState_setBlk (d : Dev) (b : Blk) (x : BlkSt) : twinState (setBlk d b x) = twinState d := rfl
@[simp] theorem twinState_setPart (d : Dev) (p : Nat) (x : Part) : twinState (setPart d p x) = twinState d := rfl
@[simp] theorem twinState_setRing (d : Dev) (k : RingKind) (p r : Nat) (x : Ring) : twinState (setRing d k p r x) = twinState d := rfl
@[simp] theorem twinState_memSet (d : Dev) (m : Mem) (i j v : Nat) : twinState (memSet d m i j v) = twinState d := rfl
@[simp] theorem twinState_memSetD (d : Dev) (m : Mem) (i j x v : Nat) : twinState (memSetD d m i j x v) = twinState d := rfl
@[simp] theorem twinState_send (d : Dev) (o : Out) : twinState (send d o) = twinState d := rfl
@[simp] theorem twinState_setBatch (d : Dev) (b : Batch) : twinState (setBatch d b) = twinState d := rfl
@[simp] theorem twinState_dropBatch (d : Dev) (g : Nat) : twinState (dropBatch d g) = twinState d := rfl
@[simp] theorem twinState_setOwed (d : Dev) (u e v : Nat) : twinState (setOwed d u e v) = twinState d := rfl
@[simp] theorem twinState_ctrBump (d : Dev) (k : BlkKind) (i e x n : Nat) : twinState (ctrBump d k i e x n) = twinState d := by simp [twinState]
@[simp] theorem twinState_countN (d : Dev) (e : Ev) (i x c p n : Nat) : twinState (countN d e i x c p n) = twinState d := by simp [twinState]
@[simp] theorem twinState_count (d : Dev) (e : Ev) (i x c p : Nat) : twinState (count d e i x c p) = twinState d := by simp [twinState]
@[simp] theorem batchOf_setTw (d : Dev) (w : Twin) (g' : Nat) : batchOf (setTw d w) g' = batchOf d g' := rfl
@[simp] theorem batchOf_setFp (d : Dev) (f : Fp) (g' : Nat) : batchOf (setFp d f) g' = batchOf d g' := rfl
@[simp] theorem batchOf_setFlt (d : Dev) (f : FltSt) (g' : Nat) : batchOf (setFlt d f) g' = batchOf d g' := rfl
@[simp] theorem batchOf_setFc (d : Dev) (f : FlowCtrs) (g' : Nat) : batchOf (setFc d f) g' = batchOf d g' := rfl
@[simp] theorem batchOf_setBlk (d : Dev) (b : Blk) (x : BlkSt) (g' : Nat) : batchOf (setBlk d b x) g' = batchOf d g' := rfl
@[simp] theorem batchOf_setPart (d : Dev) (p : Nat) (x : Part) (g' : Nat) : batchOf (setPart d p x) g' = batchOf d g' := rfl
@[simp] theorem batchOf_setRing (d : Dev) (k : RingKind) (p r : Nat) (x : Ring) (g' : Nat) : batchOf (setRing d k p r x) g' = batchOf d g' := rfl
@[simp] theorem batchOf_wrAt (d : Dev) (b : Blk) (sub : Nat) (r : Reg) (i v : Nat) (g' : Nat) : batchOf (wrAt d b sub r i v) g' = batchOf d g' := rfl
@[simp] theorem batchOf_wr (d : Dev) (b : Blk) (r : Reg) (v i : Nat) (g' : Nat) : batchOf (wr d b r v i) g' = batchOf d g' := rfl
@[simp] theorem batchOf_wrF (d : Dev) (b : Blk) (r : Reg) (hi lo v i : Nat) (g' : Nat) : batchOf (wrF d b r hi lo v i) g' = batchOf d g' := rfl
@[simp] theorem batchOf_memSet (d : Dev) (m : Mem) (i j v : Nat) (g' : Nat) : batchOf (memSet d m i j v) g' = batchOf d g' := rfl
@[simp] theorem batchOf_memSetD (d : Dev) (m : Mem) (i j x v : Nat) (g' : Nat) : batchOf (memSetD d m i j x v) g' = batchOf d g' := rfl
@[simp] theorem batchOf_send (d : Dev) (o : Out) (g' : Nat) : batchOf (send d o) g' = batchOf d g' := rfl
@[simp] theorem batchOf_ctrBump (d : Dev) (k : BlkKind) (i e x n : Nat) (g' : Nat) : batchOf (ctrBump d k i e x n) g' = batchOf d g' := by simp [batchOf]
@[simp] theorem batchOf_countN (d : Dev) (e : Ev) (i x c p n : Nat) (g' : Nat) : batchOf (countN d e i x c p n) g' = batchOf d g' := by simp [batchOf]
@[simp] theorem batchOf_count (d : Dev) (e : Ev) (i x c p : Nat) (g' : Nat) : batchOf (count d e i x c p) g' = batchOf d g' := by simp [batchOf]
@[simp] theorem tagState_setTw (d : Dev) (w : Twin) (g' : Nat) : tagState (setTw d w) g' = tagState d g' := rfl
@[simp] theorem tagState_setFp (d : Dev) (f : Fp) (g' : Nat) : tagState (setFp d f) g' = tagState d g' := rfl
@[simp] theorem tagState_setFlt (d : Dev) (f : FltSt) (g' : Nat) : tagState (setFlt d f) g' = tagState d g' := rfl
@[simp] theorem tagState_setFc (d : Dev) (f : FlowCtrs) (g' : Nat) : tagState (setFc d f) g' = tagState d g' := rfl
@[simp] theorem tagState_setBlk (d : Dev) (b : Blk) (x : BlkSt) (g' : Nat) : tagState (setBlk d b x) g' = tagState d g' := rfl
@[simp] theorem tagState_setPart (d : Dev) (p : Nat) (x : Part) (g' : Nat) : tagState (setPart d p x) g' = tagState d g' := rfl
@[simp] theorem tagState_setRing (d : Dev) (k : RingKind) (p r : Nat) (x : Ring) (g' : Nat) : tagState (setRing d k p r x) g' = tagState d g' := rfl
@[simp] theorem tagState_wrAt (d : Dev) (b : Blk) (sub : Nat) (r : Reg) (i v : Nat) (g' : Nat) : tagState (wrAt d b sub r i v) g' = tagState d g' := rfl
@[simp] theorem tagState_wr (d : Dev) (b : Blk) (r : Reg) (v i : Nat) (g' : Nat) : tagState (wr d b r v i) g' = tagState d g' := rfl
@[simp] theorem tagState_wrF (d : Dev) (b : Blk) (r : Reg) (hi lo v i : Nat) (g' : Nat) : tagState (wrF d b r hi lo v i) g' = tagState d g' := rfl
@[simp] theorem tagState_memSet (d : Dev) (m : Mem) (i j v : Nat) (g' : Nat) : tagState (memSet d m i j v) g' = tagState d g' := rfl
@[simp] theorem tagState_memSetD (d : Dev) (m : Mem) (i j x v : Nat) (g' : Nat) : tagState (memSetD d m i j x v) g' = tagState d g' := rfl
@[simp] theorem tagState_send (d : Dev) (o : Out) (g' : Nat) : tagState (send d o) g' = tagState d g' := rfl
@[simp] theorem tagState_ctrBump (d : Dev) (k : BlkKind) (i e x n : Nat) (g' : Nat) : tagState (ctrBump d k i e x n) g' = tagState d g' := by simp [tagState]
@[simp] theorem tagState_countN (d : Dev) (e : Ev) (i x c p n : Nat) (g' : Nat) : tagState (countN d e i x c p n) g' = tagState d g' := by simp [tagState]
@[simp] theorem tagState_count (d : Dev) (e : Ev) (i x c p : Nat) (g' : Nat) : tagState (count d e i x c p) g' = tagState d g' := by simp [tagState]

end Sys2Proof.Machine
end

