-- ==== Sys2Proof/Laws/Store.lean ====
section
/-! SUPPORT. Laws of sparse storage and of bit fields. -/
namespace Sys2Proof.Machine

theorem SMap.get_insert_same {α : Type} (dflt v : α) (m : SMap α) (i : Nat) :
    SMap.get dflt (SMap.insert m i v) i = v := by
  induction m with
  | nil => simp [SMap.insert, SMap.get]
  | cons e m ih =>
    obtain ⟨k, w⟩ := e
    by_cases h : k = i
    · simp [SMap.insert, SMap.get, h]
    · by_cases h' : i < k <;> simp [SMap.insert, SMap.get, h, h', ih]

theorem SMap.get_insert_ne {α : Type} (dflt v : α) (m : SMap α) {i j : Nat} (h : i ≠ j) :
    SMap.get dflt (SMap.insert m i v) j = SMap.get dflt m j := by
  induction m with
  | nil => simp [SMap.insert, SMap.get, h]
  | cons e m ih =>
    obtain ⟨k, w⟩ := e
    by_cases hk : k = i
    · subst hk; simp [SMap.insert, SMap.get, h]
    · by_cases h' : i < k <;> simp [SMap.insert, SMap.get, hk, h', ih, h]

theorem SMap.get_erase_same {α : Type} (dflt : α) (m : SMap α) (i : Nat) :
    SMap.get dflt (SMap.erase m i) i = dflt := by
  induction m with
  | nil => rfl
  | cons e m ih =>
    obtain ⟨k, w⟩ := e
    by_cases h : k = i <;> simp [SMap.erase, SMap.get, h, ih]

theorem SMap.get_erase_ne {α : Type} (dflt : α) (m : SMap α) {i j : Nat} (h : i ≠ j) :
    SMap.get dflt (SMap.erase m i) j = SMap.get dflt m j := by
  induction m with
  | nil => rfl
  | cons e m ih =>
    obtain ⟨k, w⟩ := e
    by_cases hk : k = i
    · subst hk; simp [SMap.erase, SMap.get, h, ih]
    · simp [SMap.erase, SMap.get, hk, ih]

/-- A store is read back. -/
@[simp] theorem SMap.get_set_same {α : Type} [DecidableEq α] (dflt v : α) (m : SMap α) (i : Nat) :
    SMap.get dflt (SMap.set dflt m i v) i = v := by
  unfold SMap.set
  split
  · next h => rw [SMap.get_erase_same, h]
  · exact SMap.get_insert_same ..

/-- A store leaves every other key, whatever the two defaults are. -/
theorem SMap.get_set_ne {α : Type} [DecidableEq α] (dflt dflt' v : α) (m : SMap α) {i j : Nat} (h : i ≠ j) :
    SMap.get dflt' (SMap.set dflt m i v) j = SMap.get dflt' m j := by
  unfold SMap.set
  split
  · exact SMap.get_erase_ne _ _ h
  · exact SMap.get_insert_ne _ _ _ h

theorem SMap.above_mono {α : Type} {a b : Nat} (h : a ≤ b) (m : SMap α) (hm : SMap.above b m = true) :
    SMap.above a m = true := by
  cases m with
  | nil => rfl
  | cons e m => simp only [SMap.above, Bool.and_eq_true, decide_eq_true_eq] at *; exact ⟨by omega, hm.2⟩

theorem SMap.above_erase {α : Type} (a i : Nat) (m : SMap α) (hm : SMap.above a m = true) :
    SMap.above a (SMap.erase m i) = true := by
  induction m generalizing a with
  | nil => rfl
  | cons e m ih =>
    obtain ⟨k, w⟩ := e
    simp only [SMap.above, Bool.and_eq_true, decide_eq_true_eq] at hm
    by_cases h : k = i
    · simp only [SMap.erase, h, if_true]
      exact ih a (SMap.above_mono (by omega) m hm.2)
    · simp [SMap.erase, h, SMap.above, hm.1, ih k hm.2]

theorem SMap.above_insert {α : Type} (a i : Nat) (v : α) (m : SMap α) (h : a < i) (hm : SMap.above a m = true) :
    SMap.above a (SMap.insert m i v) = true := by
  induction m generalizing a with
  | nil => simp [SMap.insert, SMap.above, h]
  | cons e m ih =>
    obtain ⟨k, w⟩ := e
    simp only [SMap.above, Bool.and_eq_true, decide_eq_true_eq] at hm
    by_cases hk : k = i
    · subst hk; simp [SMap.insert, SMap.above, hm.1, hm.2]
    · by_cases h' : i < k
      · simp [SMap.insert, SMap.above, hk, h', h, hm.2]
      · simp only [SMap.insert, hk, h', if_false, SMap.above, Bool.and_eq_true, decide_eq_true_eq]
        exact ⟨hm.1, ih k (by omega) hm.2⟩

theorem SMap.rising_erase {α : Type} (i : Nat) (m : SMap α) (hm : SMap.rising m = true) :
    SMap.rising (SMap.erase m i) = true := by
  induction m with
  | nil => rfl
  | cons e m ih =>
    obtain ⟨k, w⟩ := e
    have hr : SMap.rising m = true := by
      cases m with
      | nil => rfl
      | cons e' m' => simp only [SMap.rising, SMap.above, Bool.and_eq_true] at hm ⊢; exact hm.2
    by_cases h : k = i
    · simp [SMap.erase, h, ih hr]
    · simp only [SMap.erase, h, if_false, SMap.rising]; exact SMap.above_erase k i m hm

theorem SMap.rising_insert {α : Type} (i : Nat) (v : α) (m : SMap α) (hm : SMap.rising m = true) :
    SMap.rising (SMap.insert m i v) = true := by
  cases m with
  | nil => rfl
  | cons e m =>
    obtain ⟨k, w⟩ := e
    by_cases hk : k = i
    · subst hk; simpa [SMap.insert, SMap.rising] using hm
    · by_cases h' : i < k
      · simp only [SMap.insert, hk, h', if_false, if_true, SMap.rising, SMap.above, decide_true, Bool.true_and]
        exact hm
      · simp only [SMap.insert, hk, h', if_false, SMap.rising]
        exact SMap.above_insert k i v m (by omega) hm

theorem SMap.mem_erase {α : Type} (i : Nat) (m : SMap α) (e : Nat × α) (h : e ∈ SMap.erase m i) : e ∈ m := by
  induction m with
  | nil => exact h
  | cons x m ih =>
    obtain ⟨k, w⟩ := x
    by_cases hk : k = i
    · simp only [SMap.erase, hk, if_true] at h; exact List.mem_cons_of_mem _ (ih h)
    · simp only [SMap.erase, hk, if_false, List.mem_cons] at h ⊢; exact h.imp id ih

theorem SMap.mem_insert {α : Type} (i : Nat) (v : α) (m : SMap α) (e : Nat × α) (h : e ∈ SMap.insert m i v) :
    e = (i, v) ∨ e ∈ m := by
  induction m with
  | nil => simpa [SMap.insert] using h
  | cons x m ih =>
    obtain ⟨k, w⟩ := x
    simp only [SMap.insert] at h
    split at h
    · simp only [List.mem_cons] at h ⊢; exact h.imp id Or.inr
    · split at h
      · simpa using h
      · simp only [List.mem_cons] at h ⊢
        rcases h with h | h
        · exact .inr (.inl h)
        · exact (ih h).imp id Or.inr

/-- A store keeps the canonical form. -/
theorem SMap.wf_set {α : Type} [DecidableEq α] (dflt : Nat → α) (m : SMap α) (i : Nat) (v : α)
    (h : SMap.wf dflt m = true) : SMap.wf dflt (SMap.set (dflt i) m i v) = true := by
  simp only [SMap.wf, Bool.and_eq_true, List.all_eq_true, bne_iff_ne, ne_eq] at *
  unfold SMap.set
  split
  · exact ⟨SMap.rising_erase i m h.1, fun e he => h.2 e (SMap.mem_erase i m e he)⟩
  · next hv =>
    refine ⟨SMap.rising_insert i v m h.1, fun e he => ?_⟩
    rcases SMap.mem_insert i v m e he with rfl | he
    · exact hv
    · exact h.2 e he

end Sys2Proof.Machine
end

