-- ==== Sys2Proof/Laws/Regs.lean ====
section
/-! SUPPORT. A register, memory entry, block, partition or ring that has just been stored is read
back, and a store leaves what has another key. -/
namespace Sys2Proof.Machine

@[simp] theorem rdAt_wrAt_same (d : Dev) (b : Blk) (sub : Nat) (r : Reg) (i v : Nat) :
    rdAt (wrAt d b sub r i v) b sub r i = v % 2 ^ 64 := by
  simp [rdAt, wrAt]

theorem rdAt_wrAt_ne (d : Dev) (b b' : Blk) (sub sub' : Nat) (r r' : Reg) (i i' v : Nat)
    (h : regKey b sub r i ≠ regKey b' sub' r' i') :
    rdAt (wrAt d b sub r i v) b' sub' r' i' = rdAt d b' sub' r' i' := by
  simp only [rdAt, wrAt]
  rw [SMap.get_set_ne _ _ _ _ h]

@[simp] theorem rd_wr_same (d : Dev) (b : Blk) (r : Reg) (v i : Nat) : rd (wr d b r v i) b r i = v % 2 ^ 64 := by
  simp [rd, wr]

theorem rd_wr_ne (d : Dev) (b b' : Blk) (r r' : Reg) (v i i' : Nat)
    (h : regKey b (regSub r) r i ≠ regKey b' (regSub r') r' i') : rd (wr d b r v i) b' r' i' = rd d b' r' i' :=
  rdAt_wrAt_ne _ _ _ _ _ _ _ _ _ _ h

theorem rdAt_lt (d : Dev) (b : Blk) (sub : Nat) (r : Reg) (i : Nat) : rdAt d b sub r i < 2 ^ 64 := BitVec.isLt _
theorem rd_lt (d : Dev) (b : Blk) (r : Reg) (i : Nat) : rd d b r i < 2 ^ 64 := BitVec.isLt _

theorem rd_wrF_same (d : Dev) (b : Blk) (r : Reg) (hi lo v i : Nat) (h : hi < 64) :
    rd (wrF d b r hi lo v i) b r i = putFld (rd d b r i) hi lo v := by
  rw [wrF, rd_wr_same, Nat.mod_eq_of_lt (putFld_lt _ _ _ _ _ (rd_lt ..) h)]

/-- A field of a register that has just been stored. -/
theorem rdF_wrF_same (d : Dev) (b : Blk) (r : Reg) (hi lo v i : Nat) (h : hi < 64) :
    rdF (wrF d b r hi lo v i) b r hi lo i = v % 2 ^ (hi + 1 - lo) := by
  rw [rdF, rd_wrF_same _ _ _ _ _ _ _ h, fld_putFld]

/-- Another field of the same register. -/
theorem rdF_wrF_other (d : Dev) (b : Blk) (r : Reg) (hi lo v i hi' lo' : Nat) (h : hi < 64) (hd : hi < lo' ∨ hi' < lo) :
    rdF (wrF d b r hi lo v i) b r hi' lo' i = rdF d b r hi' lo' i := by
  rw [rdF, rd_wrF_same _ _ _ _ _ _ _ h, fld_putFld_ne _ _ _ _ _ _ hd, rdF]

theorem rd_wrF_ne (d : Dev) (b b' : Blk) (r r' : Reg) (hi lo v i i' : Nat)
    (h : regKey b (regSub r) r i ≠ regKey b' (regSub r') r' i') : rd (wrF d b r hi lo v i) b' r' i' = rd d b' r' i' :=
  rd_wr_ne _ _ _ _ _ _ _ _ h

theorem rdF_wrF_ne (d : Dev) (b b' : Blk) (r r' : Reg) (hi lo v i hi' lo' i' : Nat)
    (h : regKey b (regSub r) r i ≠ regKey b' (regSub r') r' i') : rdF (wrF d b r hi lo v i) b' r' hi' lo' i' = rdF d b' r' hi' lo' i' := by
  rw [rdF, rd_wrF_ne _ _ _ _ _ _ _ _ _ _ h, rdF]

theorem rdF_wr_ne (d : Dev) (b b' : Blk) (r r' : Reg) (v i hi' lo' i' : Nat)
    (h : regKey b (regSub r) r i ≠ regKey b' (regSub r') r' i') : rdF (wr d b r v i) b' r' hi' lo' i' = rdF d b' r' hi' lo' i' := by
  rw [rdF, rd_wr_ne _ _ _ _ _ _ _ _ h, rdF]

theorem pageBase_mod (b : Blk) (sub : Nat) : pageBase b sub % 8 = 0 := by
  simp only [pageBase, regionBase]
  split <;> omega

/-- The place of a register in its block, in 8-byte slots. -/
def slotOf (r : Reg) (i : Nat) : Nat := regSub r * 512 + ((regInfo r).off + (regInfo r).stride * i) / 8

theorem regKey_slot (b : Blk) (r : Reg) (i : Nat) : regKey b (regSub r) r i = pageBase b 0 / 8 + slotOf r i := by
  have h : pageBase b (regSub r) = pageBase b 0 + regSub r * 4096 := by simp only [pageBase]; ring
  have h8 := pageBase_mod b 0
  rw [regKey, regOff, slotOf, h]
  generalize (regInfo r).stride * i = k
  generalize (regInfo r).off = o
  generalize regSub r = u
  omega

/-- Registers of one block with different places do not meet. -/
theorem regKey_ne (b : Blk) (r r' : Reg) (i i' : Nat) (h : slotOf r i ≠ slotOf r' i') :
    regKey b (regSub r) r i ≠ regKey b (regSub r') r' i' := by
  rw [regKey_slot, regKey_slot]; omega

@[simp] theorem memGetD_memSetD_same (d : Dev) (m : Mem) (i j x v : Nat) : memGetD (memSetD d m i j x v) m i j x = v := by
  simp [memGetD, memSetD]

@[simp] theorem memGet_memSet_same (d : Dev) (m : Mem) (i j v : Nat) : memGet (memSet d m i j v) m i j = v := by
  simp [memGet, memSet]

theorem memGet_memSet_ne (d : Dev) (m m' : Mem) (i j v i' j' : Nat) (h : memKey m i j ≠ memKey m' i' j') :
    memGet (memSet d m i j v) m' i' j' = memGet d m' i' j' := by
  simp only [memGet, memGetD, memSet, memSetD]
  rw [SMap.get_set_ne _ _ _ _ h]

@[simp] theorem blkSt_setBlk_same (d : Dev) (b : Blk) (x : BlkSt) : blkSt (setBlk d b x) b = x := by
  simp [blkSt, setBlk]

theorem blkSt_setBlk_ne (d : Dev) (b b' : Blk) (x : BlkSt) (h : blkKey b ≠ blkKey b') :
    blkSt (setBlk d b x) b' = blkSt d b' := by
  simp only [blkSt, setBlk]
  rw [SMap.get_set_ne _ _ _ _ h]

@[simp] theorem part_setPart_same (d : Dev) (p : Nat) (x : Part) : part (setPart d p x) p = x := by
  simp [part, setPart]

theorem part_setPart_ne (d : Dev) (p p' : Nat) (x : Part) (h : p ≠ p') : part (setPart d p x) p' = part d p' := by
  simp only [part, setPart]
  rw [SMap.get_set_ne _ _ _ _ h]

@[simp] theorem ring_setRing_same (d : Dev) (k : RingKind) (p r : Nat) (x : Ring) : ring (setRing d k p r x) k p r = x := by
  simp [ring, setRing]

theorem ring_setRing_ne (d : Dev) (k k' : RingKind) (p r p' r' : Nat) (x : Ring) (h : ringKey k p r ≠ ringKey k' p' r') :
    ring (setRing d k p r x) k' p' r' = ring d k' p' r' := by
  simp only [ring, setRing]
  rw [SMap.get_set_ne _ _ _ _ h]

end Sys2Proof.Machine
end

