-- ==== Sys2Proof/Laws/Settle.lean ====
section
/-! SUPPORT. How a command ends: what `settled` leaves, and what every command does to the queue. -/
namespace Sys2Proof.Machine

theorem findFirst_mem {α : Type} (f : α → Bool) (l : List α) (a : α) (h : findFirst f l = some a) : a ∈ l := by
  induction l with
  | nil => cases h
  | cons b l ih =>
    unfold findFirst at h
    split at h
    · cases h; exact List.mem_cons_self
    · exact List.mem_cons_of_mem _ (ih h)

/-- What serving the ports may touch, flips armed or not. -/
def Touched (d e : Dev) : Prop :=
  (∃ regs mem marks free wf heads, e = { setFp d { d.fp with wf := wf, heads := heads } with
    regs := regs, mem := mem, marks := marks, free := free })
  ∧ (∀ b sub r i, (∀ n < 64, ∀ j < 8, regOff b sub r i / 8 ≠ flipSlot n j) → rdAt e b sub r i = rdAt d b sub r i)
  ∧ (∀ m i j x, (∀ n < 64, ∀ k < 2, ∀ r, memKey m i j ≠ memKey .prot 0 (pregIx ⟨.sch, n⟩ k r)) → memGetD e m i j x = memGetD d m i j x)
  ∧ (∀ b m w, (∀ n < 64, ∀ k < 2, ∀ v < 2 ^ 32, markKey b m w ≠ markKey ⟨.sch, n⟩ k v) → mark e b m w = mark d b m w)

theorem touched_refl (d : Dev) : Touched d d :=
  ⟨⟨d.regs, d.mem, d.marks, d.free, d.fp.wf, d.fp.heads, rfl⟩, fun _ _ _ _ _ => rfl, fun _ _ _ _ _ => rfl, fun _ _ _ _ => rfl⟩

theorem touched_trans {d e f : Dev} (h : Touched d e) (h' : Touched e f) : Touched d f := by
  obtain ⟨⟨r, m, k, n, w, x, he⟩, h1, h2, h3⟩ := h
  obtain ⟨⟨r', m', k', n', w', x', hf⟩, h1', h2', h3'⟩ := h'
  refine ⟨⟨r', m', k', n', w', x', ?_⟩, fun b s r i hk => (h1' b s r i hk).trans (h1 b s r i hk),
    fun m i j x hk => (h2' m i j x hk).trans (h2 m i j x hk), fun b m w hk => (h3' b m w hk).trans (h3 b m w hk)⟩
  rw [hf, he]; rfl

theorem touched_fp (d : Dev) (wf heads : SMap Nat) : Touched d (setFp d { d.fp with wf := wf, heads := heads }) :=
  ⟨⟨d.regs, d.mem, d.marks, d.free, wf, heads, rfl⟩, fun _ _ _ _ _ => rfl, fun _ _ _ _ _ => rfl, fun _ _ _ _ => rfl⟩

theorem touched_mark (d : Dev) (n m w v : Nat) (hn : n < 64) (hm : m < 2) (hw : w < 2 ^ 32) : Touched d (setMark d ⟨.sch, n⟩ m w v) := by
  refine ⟨⟨d.regs, d.mem, _, d.free, d.fp.wf, d.fp.heads, rfl⟩, fun _ _ _ _ _ => rfl, fun _ _ _ _ _ => rfl, fun b k x h => ?_⟩
  unfold setMark mark
  exact SMap.get_set_ne _ _ _ _ (h n hn m hm w hw).symm

theorem touched_flip (d : Dev) (n j v : Nat) (hn : n < 64) (hj : j < 8) : Touched d (wrAt d ⟨.sch, n⟩ j .errFlipC 0 v) := by
  refine ⟨⟨_, d.mem, d.marks, d.free, d.fp.wf, d.fp.heads, rfl⟩, fun b s r i h => ?_, fun _ _ _ _ _ => rfl, fun _ _ _ _ => rfl⟩
  exact rdAt_wrAt_ne _ _ _ _ _ _ _ _ _ _ (h n hn j hj).symm

theorem touched_prot (d : Dev) (n m : Nat) (r : PReg) (v : Nat) (hn : n < 64) (hm : m < 2) : Touched d (setPreg d ⟨.sch, n⟩ m r v) := by
  refine ⟨⟨d.regs, _, d.marks, d.free, d.fp.wf, d.fp.heads, rfl⟩, fun _ _ _ _ _ => rfl, fun k i j x h => ?_, fun _ _ _ _ => rfl⟩
  unfold setPreg memSetD memGetD
  exact SMap.get_set_ne _ _ _ _ (h n hn m hm r).symm

theorem touched_fresh (d : Dev) : Touched d (fresh d).2 :=
  ⟨⟨d.regs, d.mem, d.marks, d.free + 1, d.fp.wf, d.fp.heads, rfl⟩, fun _ _ _ _ _ => rfl, fun _ _ _ _ _ => rfl, fun _ _ _ _ => rfl⟩

/-- Without an armed flip a word that is written is good, and that is all. -/
theorem writeWord_unarmed (d : Dev) (b : Blk) (m w : Nat) (h : armedPage d b m = none) : writeWord d b m w = setMark d b m w 0 := by
  unfold writeWord; rw [h]

theorem touched_writeWord (d : Dev) (n m w : Nat) (hn : n < 64) (hm : m < 2) (hw : w < 2 ^ 32) : Touched d (writeWord d ⟨.sch, n⟩ m w) := by
  unfold writeWord
  cases h : armedPage d ⟨.sch, n⟩ m with
  | none => exact touched_mark d n m w 0 hn hm hw
  | some s =>
    have hs : s < 8 := by
      unfold armedPage at h
      have := findFirst_mem _ _ _ h
      have h8 : BlkKind.sch.info.span = 8 := rfl
      simp only [h8, upto, List.mem_cons, List.not_mem_nil, or_false] at this
      omega
    dsimp only
    have h1 := touched_trans (touched_flip d n s (putFld (rdAt d ⟨.sch, n⟩ s .errFlipC 0) 31 31 0) hn hs)
      (touched_prot (wrAt d ⟨.sch, n⟩ s .errFlipC 0 (putFld (rdAt d ⟨.sch, n⟩ s .errFlipC 0) 31 31 0)) n m .inj (2 ^ 63 + w) hn hm)
    split
    · exact touched_trans h1 (touched_mark _ _ _ _ _ hn hm hw)
    · split
      · exact touched_trans h1 (touched_mark _ _ _ _ _ hn hm hw)
      · split
        · exact touched_trans h1 (touched_mark _ _ _ _ _ hn hm hw)
        · exact touched_trans h1 (touched_trans (touched_fresh _) (touched_mark _ _ _ _ _ hn hm hw))

theorem touched_armed {d e : Dev} (h : Touched d e) (hr : e.regs = d.regs) (b : Blk) (m : Nat) : armedPage e b m = armedPage d b m := by
  obtain ⟨⟨r, k, l, n, w, x, rfl⟩, -⟩ := h
  unfold armedPage rdAt
  rw [hr]; rfl

theorem served_touched {d e : Dev} (h : Served d e) : Touched d e :=
  ⟨⟨_, _, _, _, _, _, h.1⟩, h.2.1, h.2.2.1, h.2.2.2.1⟩

theorem served_of {d e : Dev} (h : Touched d e)
    (h' : (∀ n < 64, ∀ m < 2, armedPage d ⟨.sch, n⟩ m = none) → e.regs = d.regs ∧ e.mem = d.mem ∧ e.free = d.free) : Served d e := by
  obtain ⟨⟨r, m, k, n, w, x, rfl⟩, h1, h2, h3⟩ := h
  exact ⟨rfl, h1, h2, h3, h'⟩

theorem served_refl (d : Dev) : Served d d := served_of (touched_refl d) (fun _ => ⟨rfl, rfl, rfl⟩)

theorem served_trans {d e f : Dev} (h : Served d e) (h' : Served e f) : Served d f := by
  refine served_of (touched_trans (served_touched h) (served_touched h')) (fun hq => ?_)
  obtain ⟨a, b, c⟩ := h.2.2.2.2 hq
  obtain ⟨a', b', c'⟩ := h'.2.2.2.2 (fun n hn m hm => (touched_armed (served_touched h) a _ m).trans (hq n hn m hm))
  exact ⟨a'.trans a, b'.trans b, c'.trans c⟩

theorem served_fp (d : Dev) (wf heads : SMap Nat) : Served d (setFp d { d.fp with wf := wf, heads := heads }) :=
  served_of (touched_fp d wf heads) (fun _ => ⟨rfl, rfl, rfl⟩)

theorem served_nodeWrite (d : Dev) (k : Nat) : Served d (nodeWrite d k) := by
  have word : ∀ n m w, n < 64 → m < 2 → w < 2 ^ 32 → Served d (recWrite d ⟨.sch, n⟩ m w) := by
    intro n m w hn hm hw
    unfold recWrite
    split
    · exact served_refl d
    · refine served_of (touched_writeWord d n m w hn hm hw) (fun hq => ?_)
      rw [writeWord_unarmed _ _ _ _ (hq n hn m hm)]
      exact ⟨rfl, rfl, rfl⟩
  unfold nodeWrite nodeWord
  split
  · next h =>
    dsimp only at h
    split at h
    · split at h
      · next hn => cases h; exact word _ _ _ hn Nat.zero_lt_two (Nat.lt_trans (Nat.mod_lt _ (by decide)) (by decide))
      · cases h
    · split at h
      · next hn => cases h; exact word _ _ _ hn Nat.one_lt_two (Nat.lt_trans (Nat.mod_lt _ (by decide)) (by decide))
      · cases h
    · cases h
  · exact served_refl d

theorem served_setF (d : Dev) (k f cid : Nat) : Served d (setF d k f cid) :=
  served_trans (served_nodeWrite d k) (served_fp (nodeWrite d k) _ _)

theorem served_refreshLevel (d : Dev) (l : List Child) (p : Nat → Bool) : Served d (refreshLevel d l p) := by
  unfold refreshLevel
  dsimp only
  have h0 := served_fp d (d.fp.wf.filter (fun e => !p e.1 || l.any (keepsF d e.1)))
    (d.fp.heads.filter (fun e => !p e.1 || l.any (keepsF d e.1)))
  revert h0
  generalize setFp d _ = d1
  intro h0
  generalize l = l' at *
  refine served_trans h0 ?_
  clear h0
  induction l' generalizing d1 with
  | nil => exact served_refl d1
  | cons c l ih =>
    refine served_trans ?_ (ih _)
    dsimp only
    split
    · exact served_setF ..
    · exact served_refl d1

theorem served_refreshPort (t : TimeState) (d : Dev) (p : Nat) : Served d (refreshPort t d p) := by
  unfold refreshPort
  split
  · exact served_refl d
  · exact served_trans (served_refreshLevel ..) (served_trans (served_refreshLevel ..) (served_refreshLevel ..))

/-- Serving the ports anew changes finish times, and what goes with them, alone. -/
theorem settleSched_served (t : TimeState) (d : Dev) : Served d (settleSched t d) := by
  unfold settleSched
  generalize busyPorts d = l
  induction l generalizing d with
  | nil => exact served_refl d
  | cons p l ih => exact served_trans (served_refreshPort t d p) (ih _)

@[simp] theorem settleSched_h4 (t : TimeState) (d : Dev) : (settleSched t d).h4 = d.h4 := by
  rw [(settleSched_served t d).1]; rfl
@[simp] theorem settleSched_latch (t : TimeState) (d : Dev) : (settleSched t d).latch = d.latch := by
  rw [(settleSched_served t d).1]; rfl
@[simp] theorem settleSched_blocks (t : TimeState) (d : Dev) : (settleSched t d).blocks = d.blocks := by
  rw [(settleSched_served t d).1]; rfl
@[simp] theorem settleSched_ctr (t : TimeState) (d : Dev) : (settleSched t d).ctr = d.ctr := by
  rw [(settleSched_served t d).1]; rfl
@[simp] theorem settleSched_shadow (t : TimeState) (d : Dev) : (settleSched t d).shadow = d.shadow := by
  rw [(settleSched_served t d).1]; rfl
@[simp] theorem settleSched_parts (t : TimeState) (d : Dev) : (settleSched t d).parts = d.parts := by
  rw [(settleSched_served t d).1]; rfl
@[simp] theorem settleSched_rings (t : TimeState) (d : Dev) : (settleSched t d).rings = d.rings := by
  rw [(settleSched_served t d).1]; rfl
@[simp] theorem settleSched_msix (t : TimeState) (d : Dev) : (settleSched t d).msix = d.msix := by
  rw [(settleSched_served t d).1]; rfl
@[simp] theorem settleSched_pba (t : TimeState) (d : Dev) : (settleSched t d).pba = d.pba := by
  rw [(settleSched_served t d).1]; rfl
@[simp] theorem settleSched_flt (t : TimeState) (d : Dev) : (settleSched t d).flt = d.flt := by
  rw [(settleSched_served t d).1]; rfl
@[simp] theorem settleSched_faults (t : TimeState) (d : Dev) : (settleSched t d).faults = d.faults := by
  rw [(settleSched_served t d).1]; rfl
@[simp] theorem settleSched_entries (t : TimeState) (d : Dev) : (settleSched t d).entries = d.entries := by
  rw [(settleSched_served t d).1]; rfl
@[simp] theorem settleSched_cmt (t : TimeState) (d : Dev) : (settleSched t d).cmt = d.cmt := by
  rw [(settleSched_served t d).1]; rfl
@[simp] theorem settleSched_tw (t : TimeState) (d : Dev) : (settleSched t d).tw = d.tw := by
  rw [(settleSched_served t d).1]; rfl
@[simp] theorem settleSched_wgtPend (t : TimeState) (d : Dev) : (settleSched t d).wgtPend = d.wgtPend := by
  rw [(settleSched_served t d).1]; rfl
@[simp] theorem settleSched_fc (t : TimeState) (d : Dev) : (settleSched t d).fc = d.fc := by
  rw [(settleSched_served t d).1]; rfl
@[simp] theorem settleSched_images (t : TimeState) (d : Dev) : (settleSched t d).images = d.images := by
  rw [(settleSched_served t d).1]; rfl
@[simp] theorem settleSched_alive (t : TimeState) (d : Dev) : (settleSched t d).alive = d.alive := by
  rw [(settleSched_served t d).1]; rfl
@[simp] theorem settleSched_aliveRun (t : TimeState) (d : Dev) : (settleSched t d).aliveRun = d.aliveRun := by
  rw [(settleSched_served t d).1]; rfl
@[simp] theorem settleSched_out (t : TimeState) (d : Dev) : (settleSched t d).out = d.out := by
  rw [(settleSched_served t d).1]; rfl
@[simp] theorem settleSched_resetReq (t : TimeState) (d : Dev) : (settleSched t d).resetReq = d.resetReq := by
  rw [(settleSched_served t d).1]; rfl
@[simp] theorem settleSched_watch (t : TimeState) (d : Dev) : (settleSched t d).watch = d.watch := by
  rw [(settleSched_served t d).1]; rfl
@[simp] theorem settleSched_fp_next (t : TimeState) (d : Dev) : (settleSched t d).fp.next = d.fp.next := by
  rw [(settleSched_served t d).1]; rfl
@[simp] theorem settleSched_fp_frames (t : TimeState) (d : Dev) : (settleSched t d).fp.frames = d.fp.frames := by
  rw [(settleSched_served t d).1]; rfl
@[simp] theorem settleSched_fp_flow (t : TimeState) (d : Dev) : (settleSched t d).fp.flow = d.fp.flow := by
  rw [(settleSched_served t d).1]; rfl
@[simp] theorem settleSched_fp_chains (t : TimeState) (d : Dev) : (settleSched t d).fp.chains = d.fp.chains := by
  rw [(settleSched_served t d).1]; rfl
@[simp] theorem settleSched_fp_copies (t : TimeState) (d : Dev) : (settleSched t d).fp.copies = d.fp.copies := by
  rw [(settleSched_served t d).1]; rfl
@[simp] theorem settleSched_fp_xfers (t : TimeState) (d : Dev) : (settleSched t d).fp.xfers = d.fp.xfers := by
  rw [(settleSched_served t d).1]; rfl
@[simp] theorem settleSched_fp_flight (t : TimeState) (d : Dev) : (settleSched t d).fp.flight = d.fp.flight := by
  rw [(settleSched_served t d).1]; rfl
@[simp] theorem settleSched_fp_backs (t : TimeState) (d : Dev) : (settleSched t d).fp.backs = d.fp.backs := by
  rw [(settleSched_served t d).1]; rfl
@[simp] theorem settleSched_fp_repls (t : TimeState) (d : Dev) : (settleSched t d).fp.repls = d.fp.repls := by
  rw [(settleSched_served t d).1]; rfl
@[simp] theorem settleSched_fp_engine (t : TimeState) (d : Dev) : (settleSched t d).fp.engine = d.fp.engine := by
  rw [(settleSched_served t d).1]; rfl
@[simp] theorem settleSched_fp_blocks (t : TimeState) (d : Dev) : (settleSched t d).fp.blocks = d.fp.blocks := by
  rw [(settleSched_served t d).1]; rfl
@[simp] theorem settleSched_fp_tokens (t : TimeState) (d : Dev) : (settleSched t d).fp.tokens = d.fp.tokens := by
  rw [(settleSched_served t d).1]; rfl
@[simp] theorem settleSched_fp_leaks (t : TimeState) (d : Dev) : (settleSched t d).fp.leaks = d.fp.leaks := by
  rw [(settleSched_served t d).1]; rfl
@[simp] theorem settleSched_fp_preds (t : TimeState) (d : Dev) : (settleSched t d).fp.preds = d.fp.preds := by
  rw [(settleSched_served t d).1]; rfl
@[simp] theorem settleSched_fp_pold (t : TimeState) (d : Dev) : (settleSched t d).fp.pold = d.fp.pold := by
  rw [(settleSched_served t d).1]; rfl
@[simp] theorem settleSched_fp_filled (t : TimeState) (d : Dev) : (settleSched t d).fp.filled = d.fp.filled := by
  rw [(settleSched_served t d).1]; rfl
@[simp] theorem settleSched_fp_meters (t : TimeState) (d : Dev) : (settleSched t d).fp.meters = d.fp.meters := by
  rw [(settleSched_served t d).1]; rfl
@[simp] theorem settleSched_fp_shapes (t : TimeState) (d : Dev) : (settleSched t d).fp.shapes = d.fp.shapes := by
  rw [(settleSched_served t d).1]; rfl
@[simp] theorem settleSched_fp_lists (t : TimeState) (d : Dev) : (settleSched t d).fp.lists = d.fp.lists := by
  rw [(settleSched_served t d).1]; rfl
@[simp] theorem settleSched_fp_gates (t : TimeState) (d : Dev) : (settleSched t d).fp.gates = d.fp.gates := by
  rw [(settleSched_served t d).1]; rfl
@[simp] theorem settleSched_fp_wv (t : TimeState) (d : Dev) : (settleSched t d).fp.wv = d.fp.wv := by
  rw [(settleSched_served t d).1]; rfl
@[simp] theorem settleSched_fp_grants (t : TimeState) (d : Dev) : (settleSched t d).fp.grants = d.fp.grants := by
  rw [(settleSched_served t d).1]; rfl
@[simp] theorem settleSched_fp_pause (t : TimeState) (d : Dev) : (settleSched t d).fp.pause = d.fp.pause := by
  rw [(settleSched_served t d).1]; rfl
@[simp] theorem settleSched_fp_deaf (t : TimeState) (d : Dev) : (settleSched t d).fp.deaf = d.fp.deaf := by
  rw [(settleSched_served t d).1]; rfl
@[simp] theorem settleSched_fp_xoff (t : TimeState) (d : Dev) : (settleSched t d).fp.xoff = d.fp.xoff := by
  rw [(settleSched_served t d).1]; rfl
@[simp] theorem settleSched_fp_txts (t : TimeState) (d : Dev) : (settleSched t d).fp.txts = d.fp.txts := by
  rw [(settleSched_served t d).1]; rfl
@[simp] theorem settleSched_fp_arb (t : TimeState) (d : Dev) : (settleSched t d).fp.arb = d.fp.arb := by
  rw [(settleSched_served t d).1]; rfl
@[simp] theorem blkSt_settleSched (t : TimeState) (d : Dev) (b : Blk) : blkSt (settleSched t d) b = blkSt d b := by
  rw [(settleSched_served t d).1]; rfl
@[simp] theorem isOn_settleSched (t : TimeState) (d : Dev) (b : Blk) : isOn (settleSched t d) b = isOn d b := by
  rw [(settleSched_served t d).1]; rfl
@[simp] theorem part_settleSched (t : TimeState) (d : Dev) (p : Nat) : part (settleSched t d) p = part d p := by
  rw [(settleSched_served t d).1]; rfl
@[simp] theorem ring_settleSched (t : TimeState) (d : Dev) (k : RingKind) (p r : Nat) : ring (settleSched t d) k p r = ring d k p r := by
  rw [(settleSched_served t d).1]; rfl
@[simp] theorem batchOf_settleSched (t : TimeState) (d : Dev) (g : Nat) : batchOf (settleSched t d) g = batchOf d g := by
  rw [(settleSched_served t d).1]; rfl
@[simp] theorem tagState_settleSched (t : TimeState) (d : Dev) (g : Nat) : tagState (settleSched t d) g = tagState d g := by
  rw [(settleSched_served t d).1]; rfl

theorem rdAt_settleSched (t : TimeState) (d : Dev) (b : Blk) (sub : Nat) (r : Reg) (i : Nat)
    (h : ∀ n < 64, ∀ j < 8, regOff b sub r i / 8 ≠ flipSlot n j) : rdAt (settleSched t d) b sub r i = rdAt d b sub r i :=
  (settleSched_served t d).2.1 b sub r i h

/-- The protection registers lie before every other store. -/
theorem prot_first (m : Mem) (i j n k : Nat) (r : PReg) (hm : m ≠ .prot) (hn : n < 64) (hk : k < 2) :
    memKey m i j ≠ memKey .prot 0 (pregIx ⟨.sch, n⟩ k r) := by
  have h1 : 1 ≤ memCode m := by cases m <;> first | exact absurd rfl hm | decide
  have h2 : kindIx .sch < 64 := by decide
  have h3 : r.ctorIdx < 8 := by cases r <;> decide
  have h4 : memCode .prot = 0 := rfl
  unfold memKey pregIx blkKey
  rw [h4]
  dsimp only
  generalize kindIx .sch = a at *
  generalize r.ctorIdx = c at *
  generalize memCode m = e at *
  omega

@[simp] theorem memGetD_settleSched (t : TimeState) (d : Dev) (m : Mem) (i j x : Nat) (h : m ≠ .prot) :
    memGetD (settleSched t d) m i j x = memGetD d m i j x :=
  (settleSched_served t d).2.2.1 m i j x (fun n hn k hk r => prot_first m i j n k r h hn hk)

@[simp] theorem memGet_settleSched (t : TimeState) (d : Dev) (m : Mem) (i j : Nat) (h : m ≠ .prot) :
    memGet (settleSched t d) m i j = memGet d m i j := memGetD_settleSched t d m i j 0 h

/-- A flip's place lies above the pages of the device. -/
theorem flipSlot_ge (n j : Nat) : 0x200000 ≤ flipSlot n j := by
  show 0x200000 ≤ (regionBase .slice _ + _ + _ + _) / 8
  unfold regionBase
  dsimp only
  omega

theorem rd_settleSched (t : TimeState) (d : Dev) (b : Blk) (r : Reg) (i : Nat) (h : regOff b (regSub r) r i / 8 < 0x200000) :
    rd (settleSched t d) b r i = rd d b r i :=
  rdAt_settleSched t d b _ r i (fun n _ j _ hc => by have := flipSlot_ge n j; omega)

@[simp] theorem twinState_settleSched (t : TimeState) (d : Dev) : twinState (settleSched t d) = twinState d := by
  unfold twinState rdF; rw [rd_settleSched _ _ _ _ _ (by decide)]

/-- A detach is not over while its partner has not acknowledged it. -/
theorem detachEnd_open (t : TimeState) (d : Dev) (h : d.tw.acked = false) : detachEnd t d = d := by
  simp [detachEnd, h]

/-- How a command ends when no detach is over and no system reset is owed: the ports are served anew. -/
theorem settled_calm (s : State) (d : Dev) (h : d.tw.acked = false) (hr : d.resetReq = false) :
    settled s d = { s with dev := settleSched s.tim d } := by
  simp [settled, detachEnd_open _ _ h, hr]

theorem ends_calm (s : State) (d : Dev) (h : d.tw.acked = false) (hr : d.resetReq = false) :
    ends s d = .next { s with dev := settleSched s.tim d } := by
  rw [ends, settled_calm _ _ h hr]

theorem act_calm (s : State) (d : Dev) (h : d.tw.acked = false) (hr : d.resetReq = false) :
    act s true d = .next { s with dev := settleSched s.tim d } := by
  rw [act, if_pos rfl, ends_calm _ _ h hr]

@[simp] theorem settled_pending (s : State) (d : Dev) : (settled s d).pending = s.pending := by
  unfold settled; dsimp only; split <;> rfl

/-- A command answers, and leaves the queue. -/
theorem ends_next (s : State) (d : Dev) : ∃ t, ends s d = .next t ∧ t.pending = s.pending :=
  ⟨_, rfl, settled_pending s d⟩

theorem act_next (s : State) (ok : Bool) (d : Dev) : ∃ t, act s ok d = .next t ∧ t.pending = s.pending :=
  ends_next ..

end Sys2Proof.Machine
end

