-- ==== Sys2Proof/Laws/Bus.lean ====
section
/-! SUPPORT. Accesses by name: the page of a register's offset is its block's page, and a permitted access does
what the register's own read or write does. -/
namespace Sys2Proof.Machine

/-- The block that counts violations of a unit. -/
def homeOf : Level → Nat → Blk
  | .device, _ => devBlk .dev
  | .cluster, c => ⟨.clu, c⟩
  | .slice, s => ⟨.slc, s⟩

/-- Pages of a region of a level (R31). -/
def levelPages : Level → Nat
  | .device => 4096
  | .cluster => 512
  | .slice => 64

theorem bar0Home_device (x : Nat) (h : x < 0x1000000) : bar0Home x = devBlk .dev := by
  unfold bar0Home
  rw [if_pos]
  rw [Bool.or_eq_true, decide_eq_true_eq]
  exact .inl h

theorem bar0Home_above (x : Nat) (h : 0x1000000 ≤ x) (h' : x < 0x3000000) :
    bar0Home x = if (x - 0x1000000) % 0x400000 < 0x200000 then ⟨.clu, (x - 0x1000000) / 0x400000⟩
      else ⟨.slc, (x - 0x1000000) / 0x400000 * 8 + ((x - 0x1000000) % 0x400000 - 0x200000) / 0x40000⟩ := by
  unfold bar0Home
  rw [if_neg]
  rw [Bool.or_eq_true, decide_eq_true_eq, decide_eq_true_eq]
  omega

theorem bar0Home_region (L : Level) (u g o : Nat) (hu : u < L.units) (hg : g < levelPages L) (ho : o < 0x1000) :
    bar0Home (regionBase L u + g * 0x1000 + o) = homeOf L u := by
  cases L with
  | device =>
    simp only [levelPages, Level.units] at *
    exact bar0Home_device _ (by simp only [regionBase]; omega)
  | cluster =>
    simp only [levelPages, Level.units] at *
    simp only [regionBase, homeOf]
    generalize hx : 0x1000000 + u * 0x400000 + g * 0x1000 + o = x
    have h1 : (x - 0x1000000) / 0x400000 = u := by omega
    rw [bar0Home_above x (by omega) (by omega), if_pos (by omega), h1]
  | slice =>
    simp only [levelPages, Level.units] at *
    simp only [regionBase, homeOf]
    generalize hx : 0x1000000 + u / 8 * 0x400000 + 0x200000 + u % 8 * 0x40000 + g * 0x1000 + o = x
    have h3 : (x - 0x1000000) / 0x400000 * 8 + ((x - 0x1000000) % 0x400000 - 0x200000) / 0x40000 = u := by omega
    rw [bar0Home_above x (by omega) (by omega), if_neg (by omega), h3]

/-- The kind, its number within the unit and its page, of a page of a level's region. -/
def pageIx (L : Level) (g : Nat) : Option (BlkKind × Nat × Nat) :=
  allKinds.findSome? (fun k =>
    if k.info.level == L && k.info.page ≤ g && g < k.info.page + k.info.per * k.info.span then
      some (k, (g - k.info.page) / k.info.span, (g - k.info.page) % k.info.span)
    else none)

theorem pageIx_page (k : BlkKind) :
    ∀ j < k.info.per, ∀ sub < k.info.span,
      pageIx k.info.level (k.info.page + j * k.info.span + sub) = some (k, j, sub) := by
  cases k <;> decide

theorem homeOf_level (L : Level) (u : Nat) : (homeOf L u).kind.info.level = L := by cases L <;> rfl
theorem homeOf_region (L : Level) (u : Nat) : regionBase L (homeOf L u).inst = regionBase L u := by cases L <;> rfl
theorem homeOf_inst (L : Level) (u : Nat) (hu : u < L.units) : (homeOf L u).inst = u := by
  cases L <;> simp [homeOf, devBlk, Level.units] at *
  omega

theorem page_lt (k : BlkKind) : k.info.page + k.info.per * k.info.span ≤ levelPages k.info.level := by
  cases k <;> decide

theorem region_lt (L : Level) (u g o : Nat) (hu : u < L.units) (hg : g < levelPages L) (ho : o < 0x1000) :
    regionBase L u + g * 0x1000 + o < 0x3000000 := by
  cases L <;> simp only [levelPages, Level.units, regionBase] at * <;> omega

/-- The page at an offset of a page of a block is that page of that block (Tables 2.1, 2.17). -/
theorem pageAt_page (b : Blk) (sub o : Nat) (hi : b.inst < b.kind.count) (hs : sub < b.kind.info.span) (ho : o < 0x1000) :
    pageAt (pageBase b sub + o) = some (b, sub) := by
  obtain ⟨k, i⟩ := b
  simp only [BlkKind.count] at hi hs
  have hp : 0 < k.info.per := by cases k <;> decide
  have hsp : 0 < k.info.span := by omega
  have hj : i % k.info.per < k.info.per := Nat.mod_lt _ hp
  have hu : i / k.info.per < k.info.level.units := Nat.div_lt_of_lt_mul (by rwa [Nat.mul_comm])
  have hpl := page_lt k
  have hjs : i % k.info.per * k.info.span + sub < k.info.per * k.info.span := by
    calc i % k.info.per * k.info.span + sub < i % k.info.per * k.info.span + k.info.span := by omega
      _ = (i % k.info.per + 1) * k.info.span := by ring
      _ ≤ k.info.per * k.info.span := Nat.mul_le_mul_right _ hj
  have hg : k.info.page + i % k.info.per * k.info.span + sub < levelPages k.info.level := by omega
  have hb := pageIx_page k (i % k.info.per) hj sub hs
  have hh := bar0Home_region k.info.level (i / k.info.per) _ o hu hg ho
  have hlt := region_lt k.info.level (i / k.info.per) _ o hu hg ho
  have hpb : pageBase ⟨k, i⟩ sub + o
      = regionBase k.info.level (i / k.info.per) + (k.info.page + i % k.info.per * k.info.span + sub) * 0x1000 + o := rfl
  rw [hpb]
  generalize k.info.page + i % k.info.per * k.info.span + sub = g at *
  unfold pageAt
  dsimp only
  rw [hh, homeOf_level, homeOf_region, if_neg (by omega)]
  have hd : (regionBase k.info.level (i / k.info.per) + g * 0x1000 + o - regionBase k.info.level (i / k.info.per)) / 0x1000 = g := by omega
  rw [hd, homeOf_inst _ _ hu]
  have hm : ∀ l : List BlkKind, (l.findSome? (fun k' =>
      if k'.info.level == k.info.level && k'.info.page ≤ g && g < k'.info.page + k'.info.per * k'.info.span then
        some ((⟨k', i / k.info.per * k'.info.per + (g - k'.info.page) / k'.info.span⟩ : Blk), (g - k'.info.page) % k'.info.span)
      else none))
      = (l.findSome? (fun k' => if k'.info.level == k.info.level && k'.info.page ≤ g && g < k'.info.page + k'.info.per * k'.info.span then
          some (k', (g - k'.info.page) / k'.info.span, (g - k'.info.page) % k'.info.span) else none)).map
        (fun x => ((⟨x.1, i / k.info.per * x.1.info.per + x.2.1⟩ : Blk), x.2.2)) := by
    intro l
    induction l with
    | nil => rfl
    | cons a l ih =>
      simp only [List.findSome?_cons]
      split
      · next h =>
        split at h
        · next hc => cases h; rw [if_pos hc]; rfl
        · cases h
      · next h =>
        split at h
        · cases h
        · next hc => rw [if_neg hc, ih]
  rw [hm]
  unfold pageIx at hb
  rw [hb]
  simp only [Option.map_some, Option.some.injEq, Prod.mk.injEq, and_true, Blk.mk.injEq, true_and]
  exact Nat.div_add_mod' i k.info.per

theorem pageBase_page (b : Blk) (sub : Nat) : pageBase b sub % 0x1000 = 0 := by
  simp only [pageBase, regionBase]
  split <;> omega

/-- An awake slice's register file is as it was after an access. -/
theorem wakeRegs_open (d : Dev) (b : Blk) (h : Open d b) : wakeRegs d b = d := by
  obtain ⟨_, _, _, h⟩ := h
  unfold wakeRegs regsAwake
  split
  · next hl => rw [if_neg (h (by simpa using hl))]
  · rfl

theorem livePage_open (d : Dev) (b : Blk) (sub : Nat) (r : Reg) (i : Nat) (hs : Spot b sub r i) (h : Open d b) :
    livePage d (regOff b sub r i) = some (b, sub) := by
  obtain ⟨h1, h2, h3, _, _⟩ := hs
  unfold livePage
  rw [regOff, Nat.add_assoc, pageAt_page b sub _ h1 h2 h3]
  simp [h.2.1]

theorem regOff_mod (b : Blk) (sub : Nat) (r : Reg) (i : Nat) (hs : Spot b sub r i) :
    regOff b sub r i % 0x1000 = (regInfo r).off + (regInfo r).stride * i := by
  obtain ⟨_, _, h3, _, _⟩ := hs
  have := pageBase_page b sub
  rw [regOff]
  generalize (regInfo r).stride * i = k at *
  generalize (regInfo r).off = o at *
  omega

theorem regAt_open (d : Dev) (b : Blk) (sub : Nat) (r : Reg) (i : Nat) (hs : Spot b sub r i)
    (hr : reservedNow d b r = false) (hi : innerLane d b = false ∨ (regInfo r).place = .header ∨ r = .macCfg) :
    regAt d b sub (regOff b sub r i) = some (r, i) := by
  unfold regAt
  rw [regOff_mod b sub r i hs, hs.2.2.2.1]
  simp only [hr, Bool.false_or]
  rw [if_neg]
  rcases hi with h | h | h <;> simp [h]

theorem accHalf_whole (b : Blk) (sub : Nat) (r : Reg) (i : Nat) (hs : Spot b sub r i) :
    accHalf 8 (regOff b sub r i) = some .whole := by
  have h1 := pageBase_mod b sub
  have h2 := hs.2.2.2.2
  have : regOff b sub r i % 8 = 0 := by
    rw [regOff]
    generalize (regInfo r).stride * i = k at *
    generalize (regInfo r).off = o at *
    omega
  simp [accHalf, this]

/-- A 64-bit write of a register that answers is what `regWrite` makes of it (R34). -/
theorem bar0Write_open (t : TimeState) (d : Dev) (b : Blk) (sub : Nat) (r : Reg) (i w : Nat) (sm : Bool) (hs : Spot b sub r i)
    (h : Open d b) (hr : reservedNow d b r = false) (hi : innerLane d b = false ∨ (regInfo r).place = .header ∨ r = .macCfg) :
    bar0Write t d 8 (regOff b sub r i) w sm =
      (match regWrite t d b sub r i (regOff b sub r i) .whole w sm with
       | .ok d => d
       | .no => violate t d b sub 3 (regOff b sub r i)
       | .part d => violate t d b sub 3 (regOff b sub r i)) := by
  unfold bar0Write
  rw [livePage_open d b sub r i hs h, accHalf_whole b sub r i hs]
  simp only [h.1, Bool.not_true, Bool.false_eq_true, if_false, wakeRegs_open d b h, regAt_open d b sub r i hs hr hi]
  rw [if_neg (by decide)]
  all_goals (cases regWrite t d b sub r i (regOff b sub r i) .whole w sm <;> rfl)

theorem land_mask (w : Nat) (h : w < 2 ^ 64) : w.land Half.whole.mask = w := by
  have : w &&& (2 ^ 64 - 1) = w := by rw [Nat.and_two_pow_sub_one_eq_mod, Nat.mod_eq_of_lt h]
  exact this

/-- The write of a register whose own effect is `d'`. -/
theorem regWrite_ok (t : TimeState) (d d' : Dev) (b : Blk) (sub : Nat) (r : Reg) (i off w : Nat) (sm : Bool) (hw : w < 2 ^ 64)
    (hsr : (blkSt d b).softReset = false)
    (hm : ∀ lock, Half.whole.mask.land (accMask r (codeWrites lock)) ≠ 0)
    (he : writeEffect t d b sub r i off .whole w (mergeWrite d b sub r .whole (regView t d b sub r i) w) sm = .ok d') :
    regWrite t d b sub r i off .whole w sm = .ok d' := by
  unfold regWrite
  simp only [hsr, Bool.false_and, Bool.false_eq_true, if_false, ne_eq, not_true_eq_false, land_mask w hw]
  rw [if_neg, if_neg (hm _), he]
  simp

/-- A 64-bit write of a register by its name, where the page answers. -/
theorem hostWrite_ok (t : TimeState) (d d' : Dev) (b : Blk) (r : Reg) (i w : Nat) (hw : w < 2 ^ 64)
    (hs : Spot b (regSub r) r i) (h : Open d b) (hr : reservedNow d b r = false)
    (hi : innerLane d b = false ∨ (regInfo r).place = .header ∨ r = .macCfg)
    (hm : ∀ lock, Half.whole.mask.land (accMask r (codeWrites lock)) ≠ 0)
    (he : writeEffect t d b (regSub r) r i (regOff b (regSub r) r i) .whole w
      (mergeWrite d b (regSub r) r .whole (regView t d b (regSub r) r i) w) false = .ok d') :
    hostWrite t d b r i w = d' := by
  unfold hostWrite
  have hb : blkPage b (regSub r) = true := by simp [blkPage, hs.1, hs.2.1]
  rw [if_pos hb, bar0Write_open t d b _ r i w false hs h hr hi, regWrite_ok t d d' b _ r i _ w false hw h.2.2.1 hm he]

/-- A 64-bit read of a register that answers (R34). -/
theorem bar0Read_open (t : TimeState) (d : Dev) (b : Blk) (sub : Nat) (r : Reg) (i : Nat)
    (hs : Spot b sub r i) (h : Open d b) (hr : reservedNow d b r = false)
    (hi : innerLane d b = false ∨ (regInfo r).place = .header ∨ r = .macCfg) (hd : readDenied d b r = false) :
    bar0Read t d 8 (regOff b sub r i) = answer (regRead t d b sub r i (regOff b sub r i) .whole).2
      (regRead t d b sub r i (regOff b sub r i) .whole).1 := by
  unfold bar0Read
  rw [livePage_open d b sub r i hs h, accHalf_whole b sub r i hs]
  simp only [h.1, Bool.not_true, Bool.false_eq_true, if_false, wakeRegs_open d b h, regAt_open d b sub r i hs hr hi, hd]

/-- A 64-bit read of a register by its name, where the page answers. -/
theorem hostRead_ok (t : TimeState) (d : Dev) (b : Blk) (r : Reg) (i : Nat)
    (hs : Spot b (regSub r) r i) (h : Open d b) (hr : reservedNow d b r = false)
    (hi : innerLane d b = false ∨ (regInfo r).place = .header ∨ r = .macCfg) (hd : readDenied d b r = false) :
    hostRead t d b r i = answer (regRead t d b (regSub r) r i (regOff b (regSub r) r i) .whole).2
      (regRead t d b (regSub r) r i (regOff b (regSub r) r i) .whole).1 := by
  unfold hostRead
  have hb : blkPage b (regSub r) = true := by simp [blkPage, hs.1, hs.2.1]
  rw [if_pos hb, bar0Read_open t d b _ r i hs h hr hi hd]

@[simp] theorem done_tim (s : State) (d : Dev) : (done s d).tim = s.tim := rfl
@[simp] theorem done_pending (s : State) (d : Dev) : (done s d).pending = s.pending := rfl
@[simp] theorem done_dev (s : State) (d : Dev) : (done s d).dev = settleSched s.tim d := rfl

/-- How a command ends that leaves nothing owed. -/
theorem ends_done {s : State} {d : Dev} (hr : d.resetReq = false) (h : d.tw.acked = false) : ends s d = .next (done s d) :=
  ends_calm s d h hr

theorem act_done {s : State} {d : Dev} {ok : Bool} (hok : ok = true) (hr : d.resetReq = false) (h : d.tw.acked = false) :
    act s ok d = .next (done s d) := by
  rw [act, if_pos hok, ends_done hr h]

end Sys2Proof.Machine
end

