-- ==== Sys2Proof/Laws/Access.lean ====
section
/-! SUPPORT. What a permitted write leaves, field by field, and what the writes of header, locked and ring registers
by their names do. -/
namespace Sys2Proof.Machine

/-- `bit` is the bit test of numbers. -/
theorem bit_testBit (n i : Nat) : bit n i = n.testBit i := by
  rw [bit, Nat.testBit_eq_decide_div_mod_eq, Nat.shiftRight_eq_div_pow]; rfl

/-- A bit lies in the mask of the access codes of which `p` holds. -/
theorem testBit_accMask (r : Reg) (p : Sys2Proof.Acc → Bool) (n : Nat) :
    (accMask r p).testBit n = (regInfo r).fields.any (fun f => p f.acc && decide (f.lo ≤ n ∧ n < f.lo + (f.hi + 1 - f.lo))) := by
  unfold accMask
  generalize (regInfo r).fields = l
  have h : ∀ m : Nat, (l.foldl (fun m (f : Field) =>
      if p f.acc then m.lor ((2 ^ (f.hi + 1 - f.lo) - 1) <<< f.lo) else m) m).testBit n
      = (m.testBit n || l.any (fun f => p f.acc && decide (f.lo ≤ n ∧ n < f.lo + (f.hi + 1 - f.lo)))) := by
    induction l with
    | nil => simp
    | cons f l ih =>
      intro m
      rw [List.foldl_cons, ih, List.any_cons]
      by_cases hp : p f.acc = true
      · rw [if_pos hp]
        have e : (m.lor ((2 ^ (f.hi + 1 - f.lo) - 1) <<< f.lo)).testBit n
            = (m.testBit n || decide (f.lo ≤ n ∧ n < f.lo + (f.hi + 1 - f.lo))) := by
          show (m ||| _).testBit n = _
          rw [Nat.testBit_or, Nat.testBit_shiftLeft, Nat.testBit_two_pow_sub_one]
          congr 1
          by_cases a : f.lo ≤ n
          · by_cases b : n - f.lo < f.hi + 1 - f.lo
            · simp [a, b, show n < f.lo + (f.hi + 1 - f.lo) by omega]
            · simp [a, b, show ¬ n < f.lo + (f.hi + 1 - f.lo) by omega]
          · simp [a]
        rw [e, hp, Bool.or_assoc]; rfl
      · rw [if_neg hp]; simp [hp]
  rw [h 0]; simp

/-- A bit of the value that a write leaves, by the codes whose masks hold it. -/
theorem testBit_mergeWrite (d : Dev) (b : Blk) (sub : Nat) (r : Reg) (h : Half) (old w n : Nat) (hn : n < 64) :
    (mergeWrite d b sub r h old w).testBit n =
      let m := h.mask.testBit n && (definedBits b r).testBit n
      let rw := m && (accMask r (fun a => a == .rw || a == .wo || (a == .rwl && !locked d b sub))).testBit n
      let c := w.testBit n && (m && (accMask r (fun a => a == .w1c)).testBit n)
      let s := w.testBit n && (m && (accMask r (fun a => a == .w1s)).testBit n)
      ((old.testBit n && !rw || w.testBit n && rw) && !c) || s := by
  have ho : (2 ^ 64 - 1).testBit n = true := by rw [Nat.testBit_two_pow_sub_one]; simpa using hn
  simp only [mergeWrite]
  show (_ ||| _ : Nat).testBit n = _
  rw [Nat.testBit_or]
  show (((_ ||| _) &&& (_ ^^^ _) : Nat).testBit n || (_ &&& (_ &&& _) : Nat).testBit n) = _
  rw [Nat.testBit_and, Nat.testBit_or, Nat.testBit_xor, ho]
  show (((_ &&& (_ ^^^ _) : Nat).testBit n || (_ &&& _ : Nat).testBit n) && ((_ &&& (_ &&& _) : Nat).testBit n ^^ true) || _) = _
  simp only [Nat.testBit_and, Nat.testBit_xor, ho, Bool.xor_true]
  simp

/-- A bit that software may write takes what is written; `h` holds of each such bit of each register by evaluation. -/
theorem bit_written_rw (s : State) (b : Blk) (r : Reg) (w n : Nat) (hn : n < 64) (hd : (definedBits b r).testBit n = true)
    (h : ∃ f ∈ (regInfo r).fields, f.acc = .rw ∧ f.lo ≤ n ∧ n ≤ f.hi)
    (h' : ∀ f ∈ (regInfo r).fields, f.acc = .w1c ∨ f.acc = .w1s → ¬ (f.lo ≤ n ∧ n ≤ f.hi)) :
    bit (written s b r w) n = bit w n := by
  have ho : Half.whole.mask.testBit n = true := by
    show (2 ^ 64 - 1).testBit n = true
    rw [Nat.testBit_two_pow_sub_one]; simpa using hn
  rw [bit_testBit, bit_testBit, written, testBit_mergeWrite _ _ _ _ _ _ _ _ hn]
  simp only [ho, hd, Bool.and_self, Bool.true_and]
  have e1 : (accMask r (fun a => a == .rw || a == .wo || (a == .rwl && !locked s.dev b (regSub r)))).testBit n = true := by
    rw [testBit_accMask, List.any_eq_true]
    obtain ⟨f, hf, ha, h1, h2⟩ := h
    refine ⟨f, hf, ?_⟩
    rw [ha]
    simp; omega
  have e2 : ∀ a : Sys2Proof.Acc, a = .w1c ∨ a = .w1s → (accMask r (fun x => x == a)).testBit n = false := by
    intro a ha
    rw [testBit_accMask, List.any_eq_false]
    intro f hf hc
    rw [Bool.and_eq_true, decide_eq_true_eq, beq_iff_eq] at hc
    exact h' f hf (by rw [hc.1]; exact ha) (by omega)
  rw [e1, e2 _ (.inl rfl), e2 _ (.inr rfl)]
  simp

/-- A bit that software may write takes what a write that covers it brings. -/
theorem bit_merge_rw (d : Dev) (b : Blk) (r : Reg) (h : Half) (old w n : Nat) (hn : n < 64) (hh : h.mask.testBit n = true)
    (hd : (definedBits b r).testBit n = true) (hf : ∃ f ∈ (regInfo r).fields, f.acc = .rw ∧ f.lo ≤ n ∧ n ≤ f.hi)
    (h' : ∀ f ∈ (regInfo r).fields, f.acc = .w1c ∨ f.acc = .w1s → ¬ (f.lo ≤ n ∧ n ≤ f.hi)) :
    bit (mergeWrite d b (regSub r) r h old w) n = bit w n := by
  rw [bit_testBit, bit_testBit, testBit_mergeWrite _ _ _ _ _ _ _ _ hn]
  simp only [hh, hd, Bool.and_self, Bool.true_and]
  have e1 : (accMask r (fun a => a == .rw || a == .wo || (a == .rwl && !locked d b (regSub r)))).testBit n = true := by
    rw [testBit_accMask, List.any_eq_true]
    obtain ⟨f, hf, ha, h1, h2⟩ := hf
    refine ⟨f, hf, ?_⟩
    rw [ha]
    simp; omega
  have e2 : ∀ a : Sys2Proof.Acc, a = .w1c ∨ a = .w1s → (accMask r (fun x => x == a)).testBit n = false := by
    intro a ha
    rw [testBit_accMask, List.any_eq_false]
    intro f hf hc
    rw [Bool.and_eq_true, decide_eq_true_eq, beq_iff_eq] at hc
    exact h' f hf (by rw [hc.1]; exact ha) (by omega)
  rw [e1, e2 _ (.inl rfl), e2 _ (.inr rfl)]
  simp

/-- The fields of which each bit is such a bit. -/
def plainField (b : Blk) (r : Reg) (hi lo : Nat) : Bool :=
  decide (hi < 64) && (upto lo (hi + 1 - lo)).all (fun n => (definedBits b r).testBit n
    && (regInfo r).fields.any (fun f => f.acc == .rw && decide (f.lo ≤ n ∧ n ≤ f.hi))
    && (regInfo r).fields.all (fun f => !((f.acc == .w1c || f.acc == .w1s) && decide (f.lo ≤ n ∧ n ≤ f.hi))))

/-- What `upto` lists. -/
theorem mem_upto (a n x : Nat) : x ∈ upto a n ↔ a ≤ x ∧ x < a + n := by
  induction n generalizing a with
  | zero => simp [upto]
  | succ n ih => simp only [upto, List.mem_cons, ih]; omega

/-- A field of such bits takes what a write that covers it brings. -/
theorem fld_merge_rw (d : Dev) (b : Blk) (r : Reg) (h : Half) (old w hi lo : Nat) (hp : plainField b r hi lo = true)
    (hh : ∀ n, lo ≤ n → n ≤ hi → h.mask.testBit n = true) :
    fld (mergeWrite d b (regSub r) r h old w) hi lo = fld w hi lo := by
  unfold plainField at hp
  rw [Bool.and_eq_true, decide_eq_true_eq, List.all_eq_true] at hp
  apply Nat.eq_of_testBit_eq
  intro i
  rw [testBit_fld, testBit_fld]
  by_cases hi' : i < hi + 1 - lo
  · have h1 := hp.2 (lo + i) ((mem_upto _ _ _).2 (by omega))
    simp only [Bool.and_eq_true, List.any_eq_true, List.all_eq_true, beq_iff_eq, decide_eq_true_eq, Bool.not_eq_true'] at h1
    have e := bit_merge_rw d b r h old w (lo + i) (by omega) (hh _ (by omega) (by omega)) h1.1.1
      (by obtain ⟨f, a, b, c⟩ := h1.1.2; exact ⟨f, a, b, c⟩)
      (by intro f hf ha hc
          have := h1.2 f hf
          rcases ha with ha | ha <;> simp [ha, hc] at this)
    rw [bit_testBit, bit_testBit] at e
    rw [e]
  · simp [hi']

/-- A field that software may write takes what is written. -/
theorem fld_written_rw (s : State) (b : Blk) (r : Reg) (w hi lo : Nat) (hp : plainField b r hi lo = true) (i : Nat := 0) :
    fld (written s b r w i) hi lo = fld w hi lo := by
  refine fld_merge_rw _ _ _ _ _ _ _ _ hp ?_
  intro n h1 h2
  unfold plainField at hp
  rw [Bool.and_eq_true, decide_eq_true_eq] at hp
  show (2 ^ 64 - 1).testBit n = true
  rw [Nat.testBit_two_pow_sub_one]; simp; omega

/-- The same of a 32-bit write of the high half. -/
theorem fld_writtenHigh_rw (s : State) (b : Blk) (r : Reg) (w hi lo : Nat) (hp : plainField b r hi lo = true) (hl : 32 ≤ lo) (hlh : lo ≤ hi) (i : Nat := 0) :
    fld (writtenHigh s b r w i) hi lo = fld w (hi - 32) (lo - 32) := by
  have hp' := hp
  unfold plainField at hp'
  rw [Bool.and_eq_true, decide_eq_true_eq] at hp'
  unfold writtenHigh
  rw [fld_merge_rw _ _ _ _ _ _ _ _ hp]
  · apply Nat.eq_of_testBit_eq
    intro j
    rw [testBit_fld, testBit_fld, Nat.testBit_shiftLeft, Nat.testBit_mod_two_pow]
    by_cases hj : j < hi + 1 - lo
    · have h1 : lo + j - 32 < 32 := by omega
      have h2 : j < hi - 32 + 1 - (lo - 32) := by omega
      have h3 : 32 ≤ lo + j := by omega
      have h4 : lo + j - 32 = lo - 32 + j := by omega
      have h3' : lo + j ≥ 32 := h3
      rw [decide_eq_true hj, decide_eq_true h3', decide_eq_true h1, decide_eq_true h2, h4]; rfl
    · have h2 : ¬ j < hi - 32 + 1 - (lo - 32) := by omega
      simp [hj, h2]
  · intro n h1 h2
    show ((2 ^ 32 - 1) <<< 32).testBit n = true
    rw [Nat.testBit_shiftLeft, Nat.testBit_two_pow_sub_one]; simp; omega

/-- A bit is a field of one bit. -/
theorem bit_eq_fld (n i : Nat) : bit n i = (fld n i i == 1) := by
  simp [bit, fld]

/-- A register has its place in a page when evaluation says so. -/
theorem spot_of (k : BlkKind) (r : Reg) (n i : Nat) (hi : i < k.count)
    (h : (decide (regSub r < k.info.span) && decide ((regInfo r).off + (regInfo r).stride * n < 0x1000)
      && (findReg k (regSub r) (((regInfo r).off + (regInfo r).stride * n) / 8 * 8) == some (r, n))
      && (((regInfo r).off + (regInfo r).stride * n) % 8 == 0)) = true) : Spot ⟨k, i⟩ (regSub r) r n := by
  simp only [Bool.and_eq_true, decide_eq_true_eq, beq_iff_eq] at h
  exact ⟨hi, h.1.1.1, h.1.1.2, h.1.2, h.2⟩

/-- A 64-bit write of a header register, where the page answers. -/
theorem headWrite_ok (t : TimeState) (d d' : Dev) (b : Blk) (sub : Nat) (r : Reg) (w : Nat) (hw : w < 2 ^ 64)
    (hs : Spot b sub r 0) (h : Open d b) (hr : reservedNow d b r = false)
    (hi : innerLane d b = false ∨ (regInfo r).place = .header ∨ r = .macCfg)
    (hm : ∀ lock, Half.whole.mask.land (accMask r (codeWrites lock)) ≠ 0)
    (he : writeEffect t d b sub r 0 (regOff b sub r 0) .whole w
      (mergeWrite d b sub r .whole (regView t d b sub r 0) w) false = .ok d') :
    headWrite t d b sub r w = d' := by
  unfold headWrite
  have hb : blkPage b sub = true := by simp [blkPage, hs.1, hs.2.1]
  rw [if_pos hb, bar0Write_open t d b sub r 0 w false hs h hr hi, regWrite_ok t d d' b sub r 0 _ w false hw h.2.2.1 hm he]

/-- The header registers stand in every page of every block (R38). -/
theorem findReg_header (k : BlkKind) (r : Reg) (hr : r = .ctrl ∨ r = .errStatus ∨ r = .violationCount ∨ r = .errFlipC ∨ r = .errMask) :
    ∀ sub < k.info.span, findReg k sub ((regInfo r).off / 8 * 8) = some (r, 0) := by
  rcases hr with rfl | rfl | rfl | rfl | rfl <;> cases k <;> decide

/-- The same as a place. -/
theorem spot_header (b : Blk) (sub : Nat) (r : Reg) (hb : b.inst < b.kind.count) (hs : sub < b.kind.info.span)
   (hr : r = .ctrl ∨ r = .errStatus ∨ r = .violationCount ∨ r = .errFlipC ∨ r = .errMask) : Spot b sub r 0 := by
  refine ⟨hb, hs, ?_, ?_, ?_⟩
  · rcases hr with rfl | rfl | rfl | rfl | rfl <;> decide
  · exact findReg_header _ _ hr _ hs
  · rcases hr with rfl | rfl | rfl | rfl | rfl <;> decide

/-- A write of the high half of a register by its name, where the page answers. -/
theorem highWrite_ok (t : TimeState) (d d' : Dev) (b : Blk) (r : Reg) (w : Nat) (hs : Spot b (regSub r) r 0) (h : Open d b)
    (hr : reservedNow d b r = false) (hi : innerLane d b = false) (hw : wideOnly r = false) (hp : ∀ l, spansHalves l r = false)
    (hm : ∀ lock, Half.high.mask.land (accMask r (codeWrites lock)) ≠ 0)
    (he : writeEffect t d b (regSub r) r 0 (regOff b (regSub r) r 0 + 4) .high (((w % 2 ^ 32) <<< 32).land Half.high.mask)
      (mergeWrite d b (regSub r) r .high (regView t d b (regSub r) r 0) (((w % 2 ^ 32) <<< 32).land Half.high.mask)) false = .ok d') :
    highWrite t d b r w = d' := by
  have hb : blkPage b (regSub r) = true := by simp [blkPage, hs.1, hs.2.1]
  obtain ⟨h1, h2, h3, h4, h5⟩ := hs
  have hl : livePage d (regOff b (regSub r) r 0 + 4) = some (b, regSub r) := by
    unfold livePage
    rw [regOff, Nat.add_assoc, Nat.add_assoc, pageAt_page b (regSub r) _ h1 h2 (by omega)]
    simp [h.2.1]
  have hpb := pageBase_page b (regSub r)
  have hm' : (regOff b (regSub r) r 0 + 4) % 0x1000 / 8 * 8 = ((regInfo r).off + (regInfo r).stride * 0) / 8 * 8 := by
    rw [regOff]; omega
  have ha : regAt d b (regSub r) (regOff b (regSub r) r 0 + 4) = some (r, 0) := by
    unfold regAt
    rw [hm', h4]
    simp only [hr, hi, Bool.false_and, Bool.or_self]
    rfl
  have hh : accHalf 4 (regOff b (regSub r) r 0 + 4) = some .high := by
    have e1 : (regOff b (regSub r) r 0 + 4) % 8 = 4 := by rw [regOff]; omega
    have e2 : (regOff b (regSub r) r 0 + 4) % 4 = 0 := by omega
    simp [accHalf, e1, e2]
  unfold highWrite
  rw [if_pos hb]
  unfold bar0Write
  rw [hl, hh]
  simp only [h.1, Bool.not_true, Bool.false_eq_true, if_false, wakeRegs_open d b h, ha, if_true]
  have : regWrite t d b (regSub r) r 0 (regOff b (regSub r) r 0 + 4) .high ((w % 2 ^ 32) <<< 32) false = .ok d' := by
    unfold regWrite
    simp only [h.2.2.1, Bool.false_and, Bool.false_eq_true, if_false, hw, hp, Bool.or_self, Bool.and_false]
    rw [if_neg (hm _), he]
  rw [this]

/-- A bit of a value of which the bits of a mask were replaced. -/
theorem testBit_mix (x w m n : Nat) (hn : n < 64) :
    ((x.land (m.xor (2 ^ 64 - 1))).lor (w.land m)).testBit n = if m.testBit n then w.testBit n else x.testBit n := by
  have ho : (2 ^ 64 - 1).testBit n = true := by rw [Nat.testBit_two_pow_sub_one]; simpa using hn
  show (((x &&& (m ^^^ (2 ^ 64 - 1))) ||| (w &&& m)).testBit n) = _
  rw [Nat.testBit_or, Nat.testBit_and, Nat.testBit_xor, Nat.testBit_and, ho]
  cases m.testBit n <;> simp

/-- A field of such a value, all of whose bits the mask holds, or none. -/
theorem fld_mix (x w m hi lo : Nat) (b : Bool) (hh : hi < 64) (h : ∀ n, lo ≤ n → n ≤ hi → m.testBit n = b) :
    fld ((x.land (m.xor (2 ^ 64 - 1))).lor (w.land m)) hi lo = fld (if b then w else x) hi lo := by
  apply Nat.eq_of_testBit_eq
  intro i
  rw [testBit_fld, testBit_fld]
  by_cases hi' : i < hi + 1 - lo
  · rw [testBit_mix _ _ _ _ (by omega), h (lo + i) (by omega) (by omega)]; cases b <;> rfl
  · simp [hi']

/-- The low half of a value of which the low half was replaced. -/
theorem low_mix (x w : Nat) (hw : w < 2 ^ 32) : ((x.land ((0xFFFFFFFF : Nat).xor (2 ^ 64 - 1))).lor (w.land 0xFFFFFFFF)) % 2 ^ 32 = w := by
  have := fld_mix x w 0xFFFFFFFF 31 0 true (by decide) (by intro n h1 h2; interval_cases n <;> decide)
  have e : ∀ v, fld v 31 0 = v % 2 ^ 32 := fun v => by simp [fld]
  rw [e, e] at this
  rw [this]; simp; omega

/-- The window page of a kind of ring (R367). -/
def ringPage : RingKind → Nat
  | .command => 1
  | .event => 2
  | .spore => 3

/-- The slot of a ring register in its ring's block. -/
theorem ringOff_slot (k : RingKind) (p r : Nat) (x : RingReg) (h : ∃ n < 8, ringRegAt k n = some x) :
    ∃ n < 8, ringRegAt k n = some x ∧ ringOff k p r x = p * 0x10000
      + ringPage k * 0x1000 + r * (if k = .event then 0x400 else 0x100) + n * 8 := by
  have key : ∀ k x, (∃ n < 8, ringRegAt k n = some x) →
      ringRegAt k (((upto 0 8).find? (fun n => ringRegAt k n == some x)).getD 31) = some x
      ∧ ((upto 0 8).find? (fun n => ringRegAt k n == some x)).getD 31 < 8 := by
    intro k x; cases k <;> cases x <;> decide
  refine ⟨_, (key k x h).2, (key k x h).1, ?_⟩
  unfold ringOff ringPage; cases k <;> rfl

/-- A ring register that the window holds is found at its offset (R367, Table 13.4). -/
theorem winSpot_ring (d : Dev) (k : RingKind) (p r : Nat) (x : RingReg) (hp : p < 4096)
    (hr : r < (if k = .event then 4 else 16)) (hv : recovering d = false) (hs : (part d p).st ≠ 0) (hh : r < ringsHeld d p k)
    (h : ∃ n < 8, ringRegAt k n = some x) :
    ringOff k p r x / 0x10000 % 4096 = p ∧ winSpot d p (ringOff k p r x % 0x10000) = .ring k r x
      ∧ winSpot d p ((ringOff k p r x + 4) % 0x10000) = .ring k r x ∧ (ringOff k p r x + 4) / 0x10000 % 4096 = p
      ∧ ringOff k p r x % 8 = 0 := by
  obtain ⟨n, hn, he, ho⟩ := ringOff_slot k p r x h
  rw [ho]
  have spot : ∀ e, e = 0 ∨ e = 4 → ∀ size page, size = (if k = RingKind.event then 0x400 else 0x100) → 
      page = ringPage k → 
      (p * 0x10000 + page * 0x1000 + r * size + n * 8 + e) / 0x10000 % 4096 = p
      ∧ winSpot d p ((p * 0x10000 + page * 0x1000 + r * size + n * 8 + e) % 0x10000) = .ring k r x := by
    intro e he' size page hsz hpg
    cases k <;> simp only [ringPage, reduceCtorEq, if_true, if_false] at hsz hpg hr <;> subst hsz hpg
    all_goals
      refine ⟨by omega, ?_⟩
      unfold winSpot ringSpot
      simp only [hv, Bool.false_eq_true, if_false]
    · have e1 : (p * 0x10000 + 1 * 0x1000 + r * 0x100 + n * 8 + e) % 0x10000 / 0x1000 = 1 := by omega
      have e2 : (p * 0x10000 + 1 * 0x1000 + r * 0x100 + n * 8 + e) % 0x10000 % 0x1000 / 0x100 = r := by omega
      have e3 : (p * 0x10000 + 1 * 0x1000 + r * 0x100 + n * 8 + e) % 0x10000 % 0x1000 % 0x100 / 8 = n := by omega
      simp only [e1, e2, e3, he]
      rw [if_neg (by decide), if_pos trivial, if_neg (by simp [hs, hh])]
    · have e1 : (p * 0x10000 + 2 * 0x1000 + r * 0x400 + n * 8 + e) % 0x10000 / 0x1000 = 2 := by omega
      have e2 : (p * 0x10000 + 2 * 0x1000 + r * 0x400 + n * 8 + e) % 0x10000 % 0x1000 / 0x400 = r := by omega
      have e3 : (p * 0x10000 + 2 * 0x1000 + r * 0x400 + n * 8 + e) % 0x10000 % 0x1000 % 0x400 / 8 = n := by omega
      simp only [e1, e2, e3, he]
      rw [if_neg (by decide), if_neg (by decide), if_pos trivial, if_neg (by simp [hs, hh])]
    · have e1 : (p * 0x10000 + 3 * 0x1000 + r * 0x100 + n * 8 + e) % 0x10000 / 0x1000 = 3 := by omega
      have e2 : (p * 0x10000 + 3 * 0x1000 + r * 0x100 + n * 8 + e) % 0x10000 % 0x1000 / 0x100 = r := by omega
      have e3 : (p * 0x10000 + 3 * 0x1000 + r * 0x100 + n * 8 + e) % 0x10000 % 0x1000 % 0x100 / 8 = n := by omega
      simp only [e1, e2, e3, he]
      rw [if_neg (by decide), if_neg (by decide), if_neg (by decide), if_pos trivial, if_neg (by simp [hs, hh])]
  have s0 := spot 0 (.inl rfl) _ _ rfl rfl
  have s4 := spot 4 (.inr rfl) _ _ rfl rfl
  rw [Nat.add_zero] at s0
  refine ⟨s0.1, s0.2, s4.2, s4.1, ?_⟩
  cases k <;> simp [ringPage] <;> omega

/-- A 64-bit write of a ring register through its window. -/
theorem ringRegWrite_ok (t : TimeState) (d d' : Dev) (k : RingKind) (p r : Nat) (x : RingReg) (w : Nat) (hp : p < 4096)
    (hr : r < (if k = .event then 4 else 16)) (hpw : powered d = true) (hv : recovering d = false) (hs : (part d p).st ≠ 0)
    (hh : r < ringsHeld d p k) (h : ∃ n < 8, ringRegAt k n = some x) (he : ringWrite t d k p r x .whole w = .ok d') :
    ringRegWrite t d k p r x w = d' := by
  obtain ⟨h1, h2, -, -, h5⟩ := winSpot_ring d k p r x hp hr hv hs hh h
  unfold ringRegWrite bar2Write
  have ha : accHalf 8 (ringOff k p r x) = some .whole := by simp [accHalf, h5]
  simp only [h1, h2, hpw, ha, Bool.not_true, Bool.false_eq_true, if_false]
  rw [if_neg (by decide), he]

/-- A 32-bit write of the high half of a ring register through its window. -/
theorem ringHighWrite_ok (t : TimeState) (d d' : Dev) (k : RingKind) (p r : Nat) (x : RingReg) (w : Nat) (hp : p < 4096)
    (hr : r < (if k = .event then 4 else 16)) (hpw : powered d = true) (hv : recovering d = false) (hs : (part d p).st ≠ 0)
    (hh : r < ringsHeld d p k) (h : ∃ n < 8, ringRegAt k n = some x)
    (he : ringWrite t d k p r x .high ((w % 2 ^ 32) <<< 32) = .ok d') :
    bar2Write t d 4 (ringOff k p r x + 4) w = d' := by
  obtain ⟨-, -, h3, h4, h5⟩ := winSpot_ring d k p r x hp hr hv hs hh h
  unfold bar2Write
  have ha : accHalf 4 (ringOff k p r x + 4) = some .high := by
    have : (ringOff k p r x + 4) % 8 ≠ 0 := by omega
    have : (ringOff k p r x + 4) % 4 = 0 := by omega
    simp [accHalf, *]
  simp only [h4, h3, hpw, ha, Bool.not_true, Bool.false_eq_true, if_false, if_true]
  rw [he]

/-- A 64-bit write of a register whose fields the lock protects, in a page that is not locked (R41). -/
theorem lockWrite_ok (t : TimeState) (d d' : Dev) (b : Blk) (r : Reg) (i w : Nat) (hw : w < 2 ^ 64)
    (hs : Spot b (regSub r) r i) (h : Open d b) (hr : reservedNow d b r = false)
    (hi : innerLane d b = false ∨ (regInfo r).place = .header ∨ r = .macCfg) (hl : locked d b (regSub r) = false)
    (hm : Half.whole.mask.land (accMask r (codeWrites false)) ≠ 0)
    (he : writeEffect t d b (regSub r) r i (regOff b (regSub r) r i) .whole w
      (mergeWrite d b (regSub r) r .whole (regView t d b (regSub r) r i) w) false = .ok d') :
    hostWrite t d b r i w = d' := by
  unfold hostWrite
  have hb : blkPage b (regSub r) = true := by simp [blkPage, hs.1, hs.2.1]
  rw [if_pos hb, bar0Write_open t d b _ r i w false hs h hr hi]
  have : regWrite t d b (regSub r) r i (regOff b (regSub r) r i) .whole w false = .ok d' := by
    unfold regWrite
    simp only [h.2.2.1, Bool.false_and, Bool.false_eq_true, if_false, ne_eq, not_true_eq_false, land_mask w hw, hl]
    rw [if_neg, if_neg hm, he]
    simp
  rw [this]

/-- The same in a page that is locked: nothing but a violation. -/
theorem lockWrite_no (t : TimeState) (d : Dev) (b : Blk) (r : Reg) (i w : Nat) 
    (hs : Spot b (regSub r) r i) (h : Open d b) (hr : reservedNow d b r = false)
    (hi : innerLane d b = false ∨ (regInfo r).place = .header ∨ r = .macCfg) (hl : locked d b (regSub r) = true)
    (hm : Half.whole.mask.land (accMask r (codeWrites true)) = 0) :
    hostWrite t d b r i w = violate t d b (regSub r) 3 (regOff b (regSub r) r i) := by
  unfold hostWrite
  have hb : blkPage b (regSub r) = true := by simp [blkPage, hs.1, hs.2.1]
  rw [if_pos hb, bar0Write_open t d b _ r i w false hs h hr hi]
  have : regWrite t d b (regSub r) r i (regOff b (regSub r) r i) .whole w false = .no := by
    unfold regWrite
    simp only [h.2.2.1, Bool.false_and, Bool.false_eq_true, if_false, ne_eq, not_true_eq_false, hl]
    rw [if_neg, if_pos hm]
    simp
  rw [this]

/-- No two fields of a register share a bit. -/
def disjointFields : List Field → Bool
  | [] => true
  | f :: l => l.all (fun g => decide (f.hi < g.lo ∨ g.hi < f.lo)) && disjointFields l

/-- The fields of every register are such. -/
theorem fields_disjoint (r : Reg) : disjointFields (regInfo r).fields = true := by cases r <;> decide

/-- A test that only a field over bit `n` can pass is that of the one field over it. -/
theorem any_of_disjoint (n : Nat) (q : Field → Bool) (hq : ∀ f, q f = true → f.lo ≤ n ∧ n ≤ f.hi) :
    ∀ (l : List Field), disjointFields l = true → ∀ f ∈ l, f.lo ≤ n → n ≤ f.hi → l.any q = q f := by
  intro l; induction l with
  | nil => intro _ f hf; cases hf
  | cons a l ih =>
    intro hd f hf h1 h2
    simp only [disjointFields, Bool.and_eq_true, List.all_eq_true, decide_eq_true_eq] at hd
    rw [List.any_cons]
    rcases List.mem_cons.1 hf with rfl | hf
    · have : l.any q = false := by
        rw [List.any_eq_false]; intro g hg hc
        have := hq g hc; have := hd.1 g hg; omega
      rw [this, Bool.or_false]
    · have : q a = false := by
        rw [Bool.eq_false_iff]; intro hc
        have := hq a hc; have := hd.1 f hf; omega
      rw [this, Bool.false_or]; exact ih hd.2 f hf h1 h2

/-- A bit lies in the mask of some access codes when its field has one of them. -/
theorem accMask_field (r : Reg) (p : Sys2Proof.Acc → Bool) (n : Nat) (f : Field) (hf : f ∈ (regInfo r).fields) (h1 : f.lo ≤ n) (h2 : n ≤ f.hi) :
    (accMask r p).testBit n = p f.acc := by
  rw [testBit_accMask, any_of_disjoint n _ _ _ (fields_disjoint r) f hf h1 h2]
  · simp; omega
  · intro g hg; simp at hg; omega

end Sys2Proof.Machine
end

