-- ==== Sys2Proof/Laws/Effects.lean ====
section
/-! SUPPORT. What shared operations can do: how a command ends, events and the twin's states, device time, meters, searches,
and the commands of partitions and of the twin. -/
namespace Sys2Proof.Machine

/-- A command whose unit exists leaves its effect, settled. -/
theorem act_ok {s : State} {ok : Bool} {d d' : Dev} (h : ok = true) (e : d = d') : act s ok d = .next (settled s d') := by
  subst e; rw [act, if_pos h]; rfl

/-- A command without a unit leaves its effect, settled. -/
theorem ends_ok {s : State} {d d' : Dev} (e : d = d') : ends s d = .next (settled s d') := by subst e; rfl

/-- With nothing owed, a command leaves its effect with the ports served anew. -/
theorem ends_leaves {s t : State} {d : Dev} (hr : d.resetReq = false) (ha : d.tw.acked = false) (h : ends s d = .next t) :
    Leaves s t d := by
  rw [ends_done hr ha] at h; cases h
  exact ⟨rfl, rfl, settleSched_served s.tim d⟩

/-- Every command answers with its effect settled, on device time as it was but for TIME_ADJUST_APPLY and power-on. -/
theorem exec_settles (c : Instr) (s : State) : ∃ tm d, exec c s = .next (settled { s with tim := tm } d)
    ∧ (c ≠ .timeAdjustApply → (∀ a b r n, c ≠ .powerOnReset a b r n) → tm = s.tim) := by
  cases c
  case timeAdjustApply => exact ⟨_, _, rfl, fun h => absurd rfl h⟩
  case powerOnReset a b r n => exact ⟨_, _, rfl, fun _ h => absurd rfl (h a b r n)⟩
  all_goals exact ⟨s.tim, _, rfl, fun _ _ => rfl⟩

/-- Raising a vector leaves the twin. -/
theorem raiseVector_tw (d : Dev) (v : Nat) : (raiseVector d v).tw = d.tw := by
  unfold raiseVector; split <;> rfl

/-- So does raising a ring's vector. -/
theorem raiseRing_tw (d k p r) : (raiseRing d k p r).tw = d.tw := by
  unfold raiseRing; dsimp only; rw [raiseVector_tw]; rfl

/-- So does counting a record. -/
theorem ringCounted_tw (d k p r) : (ringCounted d k p r).tw = d.tw := by
  unfold ringCounted; dsimp only; split
  · split
    · exact raiseRing_tw ..
    · rfl
  · rfl

/-- So does an event record. -/
theorem eventTo_tw (t d p r kind tag e1 e2 e3) : (eventTo t d p r kind tag e1 e2 e3).1.tw = d.tw := by
  unfold eventTo; dsimp only; split
  · split
    · rfl
    · dsimp only; rw [ringCounted_tw]; rfl
  · rfl

/-- A new state of the pair leaves the rest of the twin. -/
theorem enterTwin_tw (t d st c) : (enterTwin t d st c).tw = d.tw := by
  unfold enterTwin eventMgr; dsimp only; rw [eventTo_tw]; rfl

/-- After the end of a detach none is left to end (R320). -/
theorem detachEnd_acked (t : TimeState) (d : Dev) : (twinIn (detachEnd t d) [5] && (detachEnd t d).tw.acked && !(detachEnd t d).tw.leaving) = false := by
  unfold detachEnd
  split
  · have : (enterTwin t (endPair t (endSent d)) 6 5).tw.acked = false := by
      rw [enterTwin_tw]; rfl
    rw [this]; simp
  · rename_i h; simpa using h

/-- Keeping boot's cells leaves the twin. -/
theorem bootCells_tw (f : Dev → Nat → Nat) : ∀ (l : List Nat) (n : Dev), (l.foldl (fun n i => memSet n .boot 0 i (f n i)) n).tw = n.tw := by
  intro l; induction l with
  | nil => intro n; rfl
  | cons a l ih => intro n; rw [List.foldl_cons, ih]; rfl

/-- It asks for no reset. -/
theorem bootCells_resetReq (f : Dev → Nat → Nat) : ∀ (l : List Nat) (n : Dev), (l.foldl (fun n i => memSet n .boot 0 i (f n i)) n).resetReq = n.resetReq := by
  intro l; induction l with
  | nil => intro n; rfl
  | cons a l ih => intro n; rw [List.foldl_cons, ih]; rfl

/-- What settling leaves owes nothing (R320, R379). -/
theorem owes_settled (s : State) (d : Dev) : owes (settled s d) = false := by
  have hd := detachEnd_acked s.tim d
  revert hd
  unfold settled
  generalize detachEnd s.tim d = d'
  intro hd
  dsimp only
  split
  · unfold owes
    have h1 : (systemReset d').tw = (blank d').tw := by
      unfold systemReset; dsimp only; rw [bootCells_tw (fun _ i => memGet d' .boot 0 i)]; rfl
    have h2 : (systemReset d').resetReq = false := by
      unfold systemReset; dsimp only; rw [bootCells_resetReq (fun _ i => memGet d' .boot 0 i)]; rfl
    dsimp only
    rw [h1, h2]; simp [blank, Dev.reset]
    intro _ h; exact absurd h (by decide)
  · rename_i h
    unfold owes; dsimp only
    have ht : twinIn (settleSched s.tim d') [5] = twinIn d' [5] := by
      unfold twinIn; rw [isOn_settleSched, twinState_settleSched]
    rw [ht]; simp only [settleSched_tw, settleSched_resetReq, hd]; simpa using h

/-- A step of device time leaves a time (R218). -/
theorem legalTime_stepTime (t : DTime) (h : legalTime t) (w : Nat) : legalTime (stepTime t w) := by
  unfold stepTime
  dsimp only
  obtain ⟨h1, h2, h3⟩ := h
  split
  · exact ⟨Nat.mod_lt _ (by decide), Nat.mod_lt _ (by decide), Nat.mod_lt _ (by decide)⟩
  · have key : ∀ m k, m < 2 ^ 80 * 1000000000 → (m - k) / 2 ^ 32 / 1000000000 < 2 ^ 48 := by intro m k hm; omega
    refine ⟨key _ _ ?_, Nat.mod_lt _ (by decide), Nat.mod_lt _ (by decide)⟩
    unfold dtNum; omega

/-- So does a tick (R217). -/
theorem legalTime_advance (t : TimeState) : legalTime (advance t).now := by
  exact ⟨Nat.mod_lt _ (by decide), Nat.mod_lt _ (by decide), Nat.mod_lt _ (by decide)⟩

/-- Settling leaves device time, or resets it and keeps the count of ticks. -/
theorem settled_tim (s : State) (d : Dev) : (settled s d).tim = s.tim ∨ (settled s d).tim = timeReset s.tim := by
  unfold settled; dsimp only
  split
  · exact .inr rfl
  · exact .inl rfl

/-- A request that stands alone takes effect when it is applied (R218). -/
theorem timeApply_ask (t : TimeState) (d : Dev) (k v : Nat) (h0 : memGet d .timReq 0 0 = 0) (h1 : memGet d .timReq 0 1 = 0) (_h : k = 1 ∨ k = 2) :
   (timeApply t (timeAsk d k v)).1 = if k = 1 then { t with now := stepTime t.now v, hist := [(t.tick, dtNum (stepTime t.now v), t.incr)] }
      else { t with incr := v, hist := (t.tick, dtNum t.now, v) :: t.hist } := by
  have a0 : memGet (timeAsk d k v) .timReq 0 0 = 0 := by
    simp only [timeAsk, h1]; rw [memGet_memSet_ne _ _ _ _ _ _ _ _ (by decide), memGet_memSet_ne _ _ _ _ _ _ _ _ (by decide), memGet_memSet_ne _ _ _ _ _ _ _ _ (by decide), h0]
  have a1 : memGet (timeAsk d k v) .timReq 0 1 = 1 := by
    simp only [timeAsk, h1]; rw [memGet_memSet_same]
  have a2 : memGet (timeAsk d k v) .timReq 0 16 = k := by
    simp only [timeAsk, h1]; rw [memGet_memSet_ne _ _ _ _ _ _ _ _ (by decide), memGet_memSet_ne _ _ _ _ _ _ _ _ (by decide), memGet_memSet_same]
  have a3 : memGet (timeAsk d k v) .timReq 0 17 = v := by
    simp only [timeAsk, h1]; rw [memGet_memSet_ne _ _ _ _ _ _ _ _ (by decide), memGet_memSet_same]
  unfold timeApply
  simp only [a0, a1, Nat.mul_zero, Nat.add_zero, a2, a3]
  rw [if_neg (by decide)]

/-- Applying one leaves what settling looks at. -/
theorem timeApply_rest {t : TimeState} {d : Dev} : (timeApply t d).2.resetReq = d.resetReq ∧ (timeApply t d).2.tw = d.tw := by
  unfold timeApply; dsimp only; split <;> simp

/-- A refill adds no more than the rate, within the sizes (R214). -/
theorem meterRefill_bounds (x t) : (meterRefill x t).tc ≤ x.tc + (t - x.last) * x.cir ∧ (meterRefill x t).tc ≤ x.cbs ∧ (meterRefill x t).tp ≤ x.pbs := by
  unfold meterRefill; dsimp only; exact ⟨Nat.min_le_left _ _, Nat.min_le_right _ _, Nat.min_le_right _ _⟩

/-- A charge takes from the buckets, and from the committed one what passes as green (R214). -/
theorem meterCharge_bounds (x : Meter) (len c t) : let y := meterCharge x len c t
   y.2.last = t ∧ y.2.rate = x.rate ∧ y.2.burst = x.burst ∧ y.2.tp ≤ (meterRefill x t).tp ∧ y.2.tc ≤ (meterRefill x t).tc ∧ (y.1 = 1 → y.2.tc + len * unitsPerByte ≤ (meterRefill x t).tc) := by
  have h : (meterRefill x t).last = t ∧ (meterRefill x t).rate = x.rate ∧ (meterRefill x t).burst = x.burst := ⟨rfl, rfl, rfl⟩
  unfold meterCharge
  dsimp only
  generalize meterRefill x t = r at *
  obtain ⟨h1, h2, h3⟩ := h
  generalize (if (r.aware && decide (c ≠ 0)) = true then c else 1) = cin
  split
  · split
    · rename_i hc; simp at hc; simp [*]
    · split <;> simp [*]
  · split
    · simp [*]
    · split
      · simp [*]
      · rename_i hc; simp at hc; simp [*]

/-- Something wins where something matches. -/
theorem bestPrio_none (l : List Entry) : bestPrio l = none ↔ l = [] := by
  cases l with
  | nil => simp [bestPrio]
  | cons a l =>
    simp only [bestPrio, reduceCtorEq, iff_false]
    split
    · split <;> simp
    · simp

/-- The winner is a match, and the least by PRIORITY and then by place (R101). -/
theorem bestPrio_least (l : List Entry) : ∀ e, bestPrio l = some e → e ∈ l ∧ ∀ f ∈ l, prioOf e < prioOf f ∨ (prioOf e = prioOf f ∧ e.place ≤ f.place) := by
  induction l with
  | nil => intro e h; cases h
  | cons a l ih =>
    intro e h
    simp only [bestPrio] at h
    cases hb : bestPrio l with
    | none =>
      rw [hb] at h; cases h
      rw [bestPrio_none] at hb; subst hb
      simp
    | some g =>
      rw [hb] at h; dsimp only at h
      obtain ⟨h1, h2⟩ := ih g hb
      split at h
      · rename_i hc
        cases h
        refine ⟨List.mem_cons_of_mem _ h1, ?_⟩
        intro f hf
        rcases List.mem_cons.1 hf with rfl | hf
        · simp at hc; omega
        · exact h2 f hf
      · rename_i hc
        cases h
        refine ⟨by simp, ?_⟩
        intro f hf
        rcases List.mem_cons.1 hf with rfl | hf
        · omega
        · have := h2 f hf; simp at hc; omega

/-- The longest prefix is one of those that match (R96). -/
theorem longest_mem (l : List Entry) : ∀ e, longest l = some e → e ∈ l := by
  induction l with
  | nil => intro e h; cases h
  | cons a l ih =>
    intro e h
    simp only [longest] at h
    cases hb : longest l with
    | none => rw [hb] at h; cases h; simp
    | some g =>
      rw [hb] at h; dsimp only at h
      split at h <;> cases h
      · exact List.mem_cons_of_mem _ (ih _ hb)
      · simp

/-- The lowest index is one of those that match (R102). -/
theorem lowestIx_mem (l : List Entry) : ∀ e, lowestIx l = some e → e ∈ l := by
  induction l with
  | nil => intro e h; cases h
  | cons a l ih =>
    intro e h
    simp only [lowestIx] at h
    cases hb : lowestIx l with
    | none => rw [hb] at h; cases h; simp
    | some g =>
      rw [hb] at h; dsimp only at h
      split at h <;> cases h
      · exact List.mem_cons_of_mem _ (ih _ hb)
      · simp

/-- A hit was read. -/
theorem settleSearch_mem (d l pick bad) (hp : ∀ l e, pick l = some e → e ∈ l) (e : Entry)
    (h : (settleSearch d l pick bad).hit = some e) : e ∈ l ∧ entryDead d e = false := by
  have := hp _ _ h
  simp only [List.mem_filter, Bool.not_eq_true'] at this
  exact this

/-- What a search reads is in its cluster and visible. -/
theorem seen_mem {d v k c} {e : Entry} (h : e ∈ seen d v k c) : e.cluster = c ∧ visible d v e = true ∧ e ∈ d.entries := by
  simp [seen] at h; exact ⟨h.2.1.2, h.2.2, h.1⟩

/-- The fields of a PART_CMD word (Table 13.3). -/
theorem partCmd_word (m : Bool) (p op : Nat) (hp : p < 4096) (ho : op < 16) : b2n m <<< 28 + p <<< 16 + op < 2 ^ 64 ∧ fld (b2n m <<< 28 + p <<< 16 + op) 3 0 = op ∧ fld (b2n m <<< 28 + p <<< 16 + op) 27 16 = p ∧ bit (b2n m <<< 28 + p <<< 16 + op) 28 = m := by
  cases m <;> simp only [b2n, fld, bit, Nat.shiftRight_eq_div_pow, Nat.shiftLeft_eq] <;> refine ⟨by simp; omega, by simp; omega, by simp; omega, ?_⟩ <;> simp <;> omega

/-- PART_CMD takes them as written. -/
theorem partCmd_written (s : State) (w : Nat) : fld (written s partBlk .partCmd w) 3 0 = fld w 3 0 ∧ fld (written s partBlk .partCmd w) 27 16 = fld w 27 16 ∧ bit (written s partBlk .partCmd w) 28 = bit w 28 := by
  refine ⟨fld_written_rw _ _ _ _ _ _ (by decide), fld_written_rw _ _ _ _ _ _ (by decide), ?_⟩
  rw [bit_eq_fld, fld_written_rw _ _ _ _ _ _ (by decide), ← bit_eq_fld]

/-- PART_CMD leaves Crust mode. -/
theorem crust_partCmd (d : Dev) (v : Nat) : crustState (wr d partBlk .partCmd v) = crustState d := by
  unfold crustState rdF; rw [rd_wr_ne _ _ _ _ _ _ _ _ (by decide)]

/-- A partition operation that is accepted does its own effect (Table 13.3). -/
theorem partCommand_ok (t : TimeState) (d : Dev) (op p : Nat) (m : Bool) (img : SaveHead)
    (h : partStatus (wr d partBlk .partCmd (b2n m <<< 28 + p <<< 16 + op)) p op = 0) :
    partCommand t d op p m img =
      partDo t (touch t (partResult (wr d partBlk .partCmd (b2n m <<< 28 + p <<< 16 + op)) false 0 op p) partBlk 0 (partWord p 15)) (createCheck (wr d partBlk .partCmd (b2n m <<< 28 + p <<< 16 + op)) p) op p m img := by
  unfold partCommand; dsimp only
  rw [h]; rw [if_neg (by decide)]

/-- A command of PART_CMD that is accepted. -/
theorem partCmdWrite_ok (s : State) (p op : Nat) (m : Bool) (img : SaveHead) (hp : p < 4096) (ho : 1 ≤ op ∧ op ≤ 10)
    (hp0 : p = 0 → op = 10) (hc : (op = 6 ∨ op = 7 ∨ op = 8 ∨ op = 10) → crustState s.dev = 0) (ha : partAllows (part s.dev p) op = true) :
    partCmdWrite s.tim s.dev .whole (written s partBlk .partCmd (b2n m <<< 28 + p <<< 16 + op)) img =
     partDo s.tim (touch s.tim (partResult (wr (wr s.dev partBlk .partCmd (written s partBlk .partCmd (b2n m <<< 28 + p <<< 16 + op))) partBlk .partCmd (b2n m <<< 28 + p <<< 16 + op)) false 0 op p) partBlk 0 (partWord p 15))
       (createCheck s.dev p) op p m img := by
  have e := partCmd_word m p op hp (by omega)
  have e' := partCmd_written s (b2n m <<< 28 + p <<< 16 + op)
  unfold partCmdWrite; dsimp only
  rw [e'.1, e'.2.1, e'.2.2, e.2.1, e.2.2.1, e.2.2.2]
  rw [if_pos (by simp [ho]; rfl)]
  rw [partCommand_ok]; rfl
  unfold partStatus
  rw [if_neg (by simp; exact hp0), if_neg, if_neg]
  · show ¬ (!partAllows (part s.dev p) op) = true
    rw [ha]; decide
  · intro h; rw [Bool.and_eq_true] at h
    have h1 : op = 6 ∨ op = 7 ∨ op = 8 ∨ op = 10 := by
      have := h.1; simp only [Bool.or_eq_true, decide_eq_true_eq] at this; omega
    have := hc h1
    have h2 := h.2
    rw [crust_partCmd, crust_partCmd] at h2; simp [this] at h2

/-- A write of CSL_CMD that is accepted does its own effect (Table 14.5). -/
theorem cslOp_ok (s : State) (p op : Nat) (d : Dev) (hp : p < 4096) (ho : Open s.dev cslBlk) (hop : op < 16)
    (he : cslCmdWrite s.tim s.dev .whole (written s cslBlk .cslCmd (p <<< 16 + op)) = some d) :
    cslOp s op p = .next (settled s d) := by
  have hw : p <<< 16 + op < 2 ^ 64 := by rw [Nat.shiftLeft_eq]; omega
  refine act_ok (by simp [isPart, hp]) ?_
  refine hostWrite_ok _ _ _ _ _ _ _ hw (spot_of _ _ _ _ (by decide) (by decide)) ho rfl (.inl rfl) (by decide) ?_
  show wrote (cslCmdWrite s.tim s.dev .whole (written s cslBlk .cslCmd (p <<< 16 + op))) = _
  rw [he]; rfl

/-- CSL_CMD takes its fields as written. -/
theorem cslCmd_written (s : State) (p op : Nat) (hp : p < 4096) (hop : op < 16) :
    fld (written s cslBlk .cslCmd (p <<< 16 + op)) 3 0 = op ∧ fld (written s cslBlk .cslCmd (p <<< 16 + op)) 27 16 = p := by
  rw [fld_written_rw _ _ _ _ _ _ (by decide), fld_written_rw _ _ _ _ _ _ (by decide)]
  simp only [fld, Nat.shiftLeft_eq, Nat.shiftRight_eq_div_pow]; omega

end Sys2Proof.Machine
end

