-- ==== Sys2Proof/Tests/Slice0.lean ====
section
/-! SUPPORT. Tests: for each statement that has hypotheses, states and operands that meet them, clause by clause; ill-formed
commands that `Instr.wf` refuses; and the spec's worked examples. -/
open Sys2Proof Sys2Proof.Machine
namespace Sys2Proof.Tests
set_option Elab.async false

/-- A state with nothing waiting, at time zero. -/
def st (d : Dev) : State := ⟨[], TimeState.reset, d⟩
/-- The device with start-up done. -/
def up : Dev := wr State.reset.dev bootBlk .bootStatus (2 ^ 63)
/-- Whether bit `n` of a register lies in a field with an access code. -/
def hasAcc (b : Blk) (r : Reg) (n : Nat) (a : Sys2Proof.Acc) : Bool :=
  (definedBits b r).testBit n && (regInfo r).fields.any (fun f => f.acc == a && f.lo ≤ n && n ≤ f.hi)
/-- A lane that is a port of one lane. -/
def lane (l : Nat) (d : Dev) : Dev := wrF d ⟨.mac, l⟩ .macCfg 59 56 1
/-- A block switched on. -/
def on (b : Blk) (d : Dev) : Dev := setBlk d b ⟨true, 2, false, false⟩
/-- A block in a state of Table 2.8. -/
def cur (b : Blk) (n : Nat) (d : Dev) : Dev := setBlk d b ⟨true, n, false, false⟩
/-- The frames, the copies and the transfers of the path. -/
def withFrames (l : List Frame) (d : Dev) : Dev := setFp d { d.fp with frames := l }
def withCopies (l : List Copy) (d : Dev) : Dev := setFp d { d.fp with copies := l }
def withXfers (l : List Xfer) (d : Dev) : Dev := setFp d { d.fp with xfers := l }
/-- A port of one lane that is ON, and its link up. -/
def port (l : Nat) (d : Dev) : Dev := wr (on ⟨.mac, l⟩ (lane l d)) ⟨.mac, l⟩ .macStat (2 ^ 63)
/-- A frame of 64 zero bytes at lane 3, and a copy of it. -/
def frame0 : Frame := Frame.start 1 3 (List.replicate 64 0) ⟨0, 0, 0⟩
def copy0 : Copy := Copy.start 2 1 0 0 0 0 zeroImage 0 1
/-- A descriptor of an operation, and a live ring of partition 0 that holds one. -/
def desc (op w1 : Nat) (started : Bool) : Desc := ⟨0, [op <<< 56, w1, 0, 0, 0, 0, 0, 0], started, none⟩
def ring0 (l : List Desc) (d : Dev) : Dev := setRing d .command 0 0 { Ring.idle with enable := true, head := 1, tail := 1, descs := l }
/-- A batch of partition 0, ring 0. -/
def batch0 (state : Nat) : Batch := ⟨0, 0, 0, state, [⟨0, 1⟩], 1, 0, 0, false, 1, false, [], false⟩
def withBatches (l : List Batch) (d : Dev) : Dev := { d with cmt := { d.cmt with batches := l } }
/-- The pair in a state of Table 14.2, with CSL on. -/
def pair (n : Nat) : Dev := wrF (on cslBlk up) cslBlk .cslState 2 0 n
/-- A partition in a state of Table 13.2. -/
def partAt (p n : Nat) (d : Dev) : Dev := setPart d p { part d p with st := n }

/-- An entry of partition 4095 in table 255 of a cluster, its tables' blocks ON. -/
def entryAt (kind c : Nat) (key : List Nat) (place : Nat) (d : Dev) : Dev :=
  let e := wrF (on ⟨.exm, c⟩ (on ⟨.lpm, c⟩ (on ⟨.hbm, c⟩ d))) ⟨.exm, c⟩ .exmFlowCfg 32 32 1
  { (upto 0 8).foldl (fun d i => on ⟨.tcm, 8 * c + i⟩ d) e with entries := [⟨kind, c, 255, 4095, key, [0], place, none, none⟩] }
/-- A frame that waits for cluster 7's FLOW lookup, without and with an entry for it. -/
def flowFrame : Frame := { frame0 with hbm := true, sect := setMetaF frame0.sect 0 53 42 4095 }
def flowing (d : Dev) : Dev := setFp d { d.fp with flow := [(7, 1)], frames := [flowFrame] }
def flowHit : Dev :=
  flowing (entryAt 1 7 [0, 0, 0, 0, 0, 0] (2 * (flowBuckets (entryAt 1 7 [] 0 up) 7 4095 []).headD 0) up)
/-- The same, its copy in HBM hurt. -/
def flowHurt : Dev :=
  setMark flowHit (stackFor flowHit 7) 0 (shareBase flowHit 7 + 32 * (flowBuckets flowHit 7 4095 []).headD 0) 100
/-- Queue 0, of class 0 at port 0, valid, with its port, scheduler and pool ON. -/
def queue0 (d : Dev) : Dev := memSetD (on ⟨.bpm, 0⟩ (on ⟨.sch, 0⟩ (port 0 d))) .schQ 0 0 1 (2 ^ 63)
/-- A transfer of the copy in a phase, and a device in which it crosses from slice 0 to slice 0. -/
def xfer0 (phase : Nat) : Xfer := ⟨5, 1, 0, 0, 1, phase, 1, 0, 0, some 2, false, none, false⟩
def crossing (phase : Nat) : Dev :=
  let d := withFrames [frame0] (withCopies [{ copy0 with chain := if phase = 3 then 9 else 0 }] (withXfers [xfer0 phase] (queue0 up)))
  setFp d { d.fp with flight := if phase = 3 then [(0, 0, 5)] else [] }
/-- A device in which a transfer crosses from slice 0 to slice 0. -/
def crossAs (x : Xfer) (d : Dev) : Dev := withXfers [x] d
/-- A transfer that a replication waits for too, its pool with room; and a queue 0 that spills at once, where it may. -/
def crossRepl (x : Xfer) (d : Dev) : Dev := setFp (crossAs x d) { (crossAs x d).fp with repls := [⟨1, 0, 0, some 5, 0, 1, none, false⟩] }
def spills (d : Dev) : Dev :=
  memSetD (on ⟨.hbm, 0⟩ d) .bpmQ 0 0 (0x40000 <<< 32) (2 ^ 63)
/-- The same crossing to a queue that is not valid. -/
def notValid : Dev := withFrames [frame0] (withCopies [copy0] (withXfers [xfer0 0] (on ⟨.bpm, 0⟩ up)))
/-- Late enough for a granted copy's first bit. -/
def late : TimeState := { TimeState.reset with tick := 1000 }
/-- A grant of the copy, and a device in which the copy waits in its queue, or has that grant. -/
def grant0 : Grant := ⟨0, false, List.replicate 60 0, none, false, false, false, [], 0, none, false⟩
def sending (g : Option Grant) : Dev :=
  withFrames [{ frame0 with tail := true, stage := 2 }] (withCopies [{ copy0 with st := if g.isSome then 2 else 1, verified := true, grant := g }] (queue0 up))
/-- A time at which copies of a frame of time 0 are past their age in queue 0, and a device with such copies there. -/
def old0 : TimeState := { TimeState.reset with now := ⟨1, 0, 0⟩ }
def copy1 : Copy := { copy0 with verified := true }
def young : Copy := { copy1 with cid := 3, fid := 7 }
def aging (l : List Copy) : Dev :=
  withFrames [{ frame0 with tail := true, stage := 2 }, { frame0 with fid := 7, tail := true, stage := 2, ts := ⟨1, 0, 0⟩ }]
    (withCopies l (memSetD (queue0 up) .bpmLim 0 (3 * 4096 + ixCpc 0 0) 0 1))
/-- A record block of the last queue in a state, closed or still open, its stack ON; and a cell block of it. -/
def block0 (st : Nat) (shut : Bool := true) : SBlock := ⟨1, 1048575, 0, true, st, 1, shut, [], 0⟩
def cellBlock (st : Nat) : SBlock := ⟨1, 1048575, 0, false, st, 1, true, [], 0⟩
def spilled (st : Nat) : Dev :=
  let d := on ⟨.hbm, 7⟩ (wrF up ⟨.bpm, 7⟩ .bpmSpillCfg 47 32 1)
  setFp d { d.fp with blocks := [block0 st] }
def spilledAs (b : SBlock) : Dev := setFp (spilled 0) { (spilled 0).fp with blocks := [b] }
/-- A copy for the host or for Spore whose frame is whole, and a replication of a frame in cluster 7. -/
def toHost (kind : Nat) : Dev := withFrames [{ frame0 with tail := true }] (withCopies [{ copy0 with kind := kind }] up)
def repl0 : Repl := ⟨1, 7, 9, none, 0, 0, none, false⟩
def replicating : Dev := withFrames [frame0] (setFp up { up.fp with repls := [repl0] })
/-- A transfer some cells of which have arrived. -/
def xferArrived : Xfer := { xfer0 3 with arrived := 1 }
/-- A port with a list that waits, a slice with a frame behind its gate, and a good list. -/
def listDue (p : Nat) : Dev := setGate up p ⟨0, true, some 0⟩
def wakeable (n : Nat) : Dev :=
  let d := withFrames [frame0] (withCopies [copy0] (queue0 up))
  wrF (wr d ⟨.sch, 0⟩ .schPort (2 ^ 32)) ⟨.slc, 0⟩ .slcPwrStat 63 62 n
def listed : Dev := (writeGateList ((writeGateEntry up 1008 1 0 1000).getD up) 1008 1 0 (fun _ => ⟨1, 1000, 0, 0⟩)).getD up
/-- The last port, up, with an 802.3x or PFC mode, and class 7 paused under a watchdog. -/
def pfc (mode act : Nat) : Dev :=
  let d := wrF (wrF (wrF (port 1023 up) ⟨.sch, 63⟩ .schPfc 1 0 mode 15) ⟨.sch, 63⟩ .schPfc 59 48 1 15) ⟨.sch, 63⟩ .schPfc 60 60 act 15
  setFp d { d.fp with pause := [(1023, 7, 100)] }
/-- A device whose prediction memory's scrubber is at the end of its lap. -/
def lapEnd (m : Nat) : Dev :=
  let d := on ⟨.fdh, 7⟩ up
  setPreg d ⟨.fdh, 7⟩ m .pos ((scrubShape d ⟨.fdh, 7⟩ m).2 - 1)
/-- A live command ring of a partition that holds descriptors. -/
def ringAt (p r : Nat) (l : List Desc) (d : Dev) : Dev :=
  setRing d .command p r { Ring.idle with enable := true, head := 1, tail := 1, descs := l }
/-- A program of one word, and program 4095 in a state. -/
def prog1 : ProgImage := ⟨4095, 8191, [0]⟩
/-- The payload that holds it: its header, its record, its word (R170). -/
def payload1 : List Byte := [1, 0, 0, 0, 0, 0, 0, 0] ++ [0, 0, 1, 0, 0xFF, 0x1F, 0xF0, 0xFF] ++ List.replicate 32 0
def progAt (n : Nat) (d : Dev) : Dev := memSet d .edtProg 0 4095 (putFld 0 63 62 n)
/-- Cluster 7's block 7 as the first of TCAM table 255, and a search that runs in it. -/
def tcamTable (d : Dev) : Dev := memSet (on ⟨.tcm, 63⟩ d) .exmDir 7 255 (2 ^ 63 + 3 <<< 60 + 7 <<< 49 + 1 <<< 45)
def searching (d : Dev) : Dev := memSet (wr (tcamTable d) ⟨.tcm, 63⟩ .tcmSrchCtrl (2 ^ 63)) .tcmEpoch 63 0 1
/-- An image of group 0 in cluster 7 with members 0 to 255. -/
def group0 : Entry := ⟨6, 7, 0, 0, [0], [255 <<< 37], 0, none, none⟩
/-- A device whose partition 4095 waits for a version to drain, and one whose current version is later. -/
def waiting (v : Nat) : Dev := { wr up cmtBlk .verCurrent v with cmt := { up.cmt with oldest := v, latest := v, drainWaits := [(4095, 15, 0, 0)] } }
/-- A batch that waits for its version, and a switch to version 1 whose units have still to adopt. -/
def committing (internal : Bool) : Dev :=
  withBatches [{ batch0 2 with internal := internal }] { on cmtBlk up with cmt := { up.cmt with queue := [0] } }
def switching (resolved : Bool) (units : List Nat) : Dev :=
  withBatches [batch0 3] { on cmtBlk up with cmt := { up.cmt with switches := [⟨1, some 0, resolved, units⟩], latest := 1 } }
/-- A ring with a descriptor of an operation and an open batch of it. -/
def change (op : Nat) (d : Dev) : Dev := ringAt 0 0 [desc op 0 false] (withBatches [batch0 1] (on cmtBlk d))
/-- An attached pair that replicates partition 4095, and a sink that builds it. -/
def repl : Dev := wr (setPrepl (partAt 4095 1 (pair 4)) 4095 257) cslBlk .cslCfg 1
def sinking : Dev := wr (setPrepl (partAt 4095 1 (pair 3)) 4095 257) cslBlk .cslCfg 1
/-- Partition 4095 in a reset, and at the end of a save, a restore, a purge and a fold. -/
def running (drained : Bool) : Dev := setPart up 4095 { part up 4095 with st := 4, run := some ⟨drained, false⟩ }
def working (n : Nat) : Dev :=
  setPart up 4095 { part up 4095 with st := n, purging := true, found := 202, saving := true, folding := true, imgHead := some ⟨[], []⟩ }
/-- PRS_ETYPE of a slice written as 0, with no register of a later page written (JETYPE is not known). -/
def etype0 (k : Nat) (d : Dev) : Dev := { d with regs := d.regs ++ [(regOff ⟨.prs, k⟩ 0 .prsEtype 0 / 8, 0)] }
/-- A ring whose host has put in a descriptor, a PKT_SEND of 60 bytes to queue 0, and one that waits for its frame. -/
def belled (d : Dev) : Dev := setRing d .command 0 15 { Ring.idle with enable := true, tail := 1 }
def pkt : Desc := ⟨0, [0x10 <<< 56, 60, 0, 0, 0, 0, 0, 0], false, none⟩
def sendingPkt : Dev := etype0 0 (ringAt 0 15 [{ pkt with started := true }] (queue0 up))
/-- An event ring with an interrupt that is due. -/
def timed (d : Dev) : Dev := setRing d .event 0 3 { Ring.idle with enable := true, irq := 2 ^ 63 + 1, modn := 1 }
/-- Slice 63 when it may doze and when it may nap, and in a state with a wake cause. -/
def mayDoze (d : Dev) : Dev := wrF d (slcBlk 63) .slcPwr 32 32 1
def mayNap (d : Dev) : Dev := wrF d (slcBlk 63) .slcPwr 63 62 1
def slice (n cause : Nat) : Dev := memSet (wrF up (slcBlk 63) .slcPwrStat 63 62 n) .slcWake 0 63 cause
/-- A device whose slices all nap; Limitur with every loop in a mode. -/
def napping : Dev := (upto 0 64).foldl (fun d s => wrF d (slcBlk s) .slcPwrStat 63 62 2) up
def limiting (mode : Nat) : Dev := (upto 0 6).foldl (fun d i => wr d limBlk .limLoopCtrl mode i) (wrF (on limBlk up) limBlk .limStat 63 63 1)
/-- PERF_SEL naming a counter, a dump that runs, a threshold entry that is due, and a CTR_READ of one pair. -/
def selected (d : Dev) : Dev := wr d perfBlk .perfSel (0x202 <<< 32)
def dumping (d : Dev) : Dev := wr (on perfBlk d) perfBlk .perfDumpCtrl (2 ^ 63 + 0x202 <<< 32)
def watching (d : Dev) : Dev := { memSet (on perfBlk d) .perfThrCtr 0 63 (0x202 <<< 32) with watch := [(63, 5, 100)] }
def ctrDesc (started : Bool) : Desc := ⟨0, [0x30 <<< 56, 1 <<< 16 + 1 <<< 8, 0, 0, 0, 0, 0, 0], started, none⟩
def counting : Dev := ringAt 0 15 [ctrDesc true] (on ⟨.hbm, 0⟩ up)
/-- Start-up in a step, and recovery. -/
def stepAt (n : Nat) : Dev := wr State.reset.dev bootBlk .bootStatus (n <<< 56)
def recover : Dev := wr (on bootBlk State.reset.dev) bootBlk .bootStatus (2 ^ 62 + 3 <<< 56)

/-- States and operands that meet the hypotheses of each clause of the statement. -/
theorem test_meets_StepRunsTheFrontCommand :
    (State.reset.pending = [] ∧ powered (memSet State.reset.dev .boot 0 7 1) = false)
  ∧ (powered State.reset.dev = true ∧ bootStep State.reset.dev ≤ 1) := by decide +kernel

/-- States and operands that meet the hypotheses of each clause of the statement. -/
theorem test_meets_UnitsAreNumbered :
    (portSlice 1023 = 63 ∧ (1023 : Nat) < 1024 ∧ (63 : Nat) < 64) := by decide +kernel

/-- States and operands that meet the hypotheses of each clause of the statement. -/
theorem test_meets_DeviceTimeStaysLegal :
    (legalTime State.reset.tim.now ∧ owes State.reset = false) := by
  unfold legalTime; decide +kernel

/-- States and operands that meet the hypotheses of each clause of the statement. -/
theorem test_meets_SettlingChangesFinishTimesAlone :
    (up.resetReq = false ∧ up.tw.acked = false) := by decide +kernel

/-- States and operands that meet the hypotheses of each clause of the statement. -/
theorem test_meets_WritesFollowAccessCodes :
    (hasAcc ⟨.voq, 63⟩ .voqCfg 43 .rw ∧ hasAcc timBlk .timStep 63 .wo ∧ hasAcc cmtBlk .cmtCfg 0 .rwl ∧ hasAcc bootBlk .errStatus 63 .w1c
  ∧ hasAcc bootBlk .ctrl 2 .w1s ∧ hasAcc timBlk .timNowS 47 .ro ∧ hasAcc bootBlk .violationCount 31 .rc) := by decide +kernel

/-- States and operands that meet the hypotheses of each clause of the statement. -/
theorem test_meets_StoresKeepTheirForm :
    regOff bootBlk 0 .bootStatus 0 / 8 ≠ regOff bootBlk 0 .bootStrap 0 / 8
  ∧ (SMap.wf (fun _ => 0) [(0, 1), (5, 2)] = true ∧ (0 : Nat) ≠ 5) := by decide +kernel

/-- States and operands that meet the hypotheses of each clause of the statement, part 1. -/
theorem test_meets_ViolationsCountOnceByTheirFirstKind_1 :
    (powered up = true ∧ livePage up (accessed 8 0x3000000 0xFF).2 = none)
  ∧ (livePage up (regOff cmtBlk 0 .ctrl 0) = some (cmtBlk, 0) ∧ accHalf (accessed 8 (regOff cmtBlk 0 .ctrl 0) 0x7F).1 (accessed 8 (regOff cmtBlk 0 .ctrl 0) 0x7F).2 = none)
  ∧ (livePage up (pageBase cmtBlk 0 + 0xF00) = some (cmtBlk, 0) ∧ accessed 8 (pageBase cmtBlk 0 + 0xF00) 0xF0 = (4, pageBase cmtBlk 0 + 0xF04) ∧ accHalf 4 (pageBase cmtBlk 0 + 0xF04) = some .high
  ∧ regAt (wakeRegs up cmtBlk) cmtBlk 0 (pageBase cmtBlk 0 + 0xF00) = none)
  ∧ (accHalf 8 (regOff cmtBlk 0 .pageCaps 0) = some .whole ∧ regAt (wakeRegs up cmtBlk) cmtBlk 0 (regOff cmtBlk 0 .pageCaps 0) = some (.pageCaps, 0)
  ∧ regWrite TimeState.reset (wakeRegs up cmtBlk) cmtBlk 0 .pageCaps 0 (regOff cmtBlk 0 .pageCaps 0) .whole 0 false = .no)
  ∧ (regAt (wakeRegs up timBlk) timBlk 0 (regOff timBlk 0 .timStep 0) = some (.timStep, 0) ∧ readDenied up timBlk .timStep = true)
  ∧ (winSpot up 4095 0 ≠ .absent ∧ winSpot up 4095 0x4000 = .absent) := by decide +kernel

/-- States and operands that meet the hypotheses of each clause of the statement, part 2. -/
theorem test_meets_ViolationsCountOnceByTheirFirstKind_2 :
    (winSpot up 0 0 ≠ .absent ∧ accHalf (accessed 8 4 0xFF).1 (accessed 8 4 0xFF).2 = none)
  ∧ (winSpot up 0 0xFF8 = .reserved ∧ accHalf 4 0xFFC = some .high)
  ∧ (winSpot up 0 (ringOff .command 0 15 .stat % 0x10000) = .ring .command 15 .stat
  ∧ ringWrite TimeState.reset up .command 0 15 .stat .whole 0 = .no)
  ∧ (((8 : Nat) = 8 → 0x03 ≠ 0xFF ∧ ((0 : Nat) % 8 = 0 → 0x03 ≠ 0x0F ∧ 0x03 ≠ 0xF0)) ∧ ((8 : Nat) = 4 → 0x03 ≠ 0x0F))
  ∧ (((4 : Nat) = 8 → 0x07 ≠ 0xFF ∧ ((4 : Nat) % 8 = 0 → 0x07 ≠ 0x0F ∧ 0x07 ≠ 0xF0)) ∧ ((4 : Nat) = 4 → 0x07 ≠ 0x0F))
  ∧ ((15 : Nat) < 16 ∧ fld (rdAt up cmtBlk 3 .violationCount 0) 31 0 < 2 ^ 32 - 2) := by decide +kernel

/-- States and operands that meet the hypotheses of each clause of the statement. -/
theorem test_meets_PlainWritesChangeOneRegister :
    (Calm (st up) ∧ Spot ⟨.voq, 63⟩ (regSub .voqCfg) .voqCfg 0 ∧ Open up ⟨.voq, 63⟩ ∧ reservedNow up ⟨.voq, 63⟩ .voqCfg = false
  ∧ innerLane up ⟨.voq, 63⟩ = false ∧ writeActs .voqCfg = false
  ∧ Half.whole.mask.land (accMask .voqCfg (codeWrites (locked up ⟨.voq, 63⟩ (regSub .voqCfg)))) ≠ 0)
  ∧ (Spot perfBlk (regSub .perfUserEn) .perfUserEn 63 ∧ Open up perfBlk ∧ writeActs .perfUserEn = false
  ∧ Half.whole.mask.land (accMask .perfUserEn (codeWrites (locked up perfBlk (regSub .perfUserEn)))) ≠ 0) := by
  unfold Open Calm Spot; decide +kernel

/-- States and operands that meet the hypotheses of each clause of the statement. -/
theorem test_meets_SmallCommandsChangeOneThing :
    (Calm (st up) ∧ Calm State.reset ∧ (∀ x ∈ portHeads up 1023, tooLong TimeState.reset up x = false))
  ∧ crustState (wrF up fltBlk .fltCrustCtrl 1 0 1) ≠ 0 := by
  unfold Calm; decide +kernel

/-- States and operands that meet the hypotheses of each clause of the statement. -/
theorem test_meets_FixedBlocksRefuseStopAndReset :
    (isFixed fltBlk = true ∧ fltBlk.inst < fltBlk.kind.count ∧ 7 < fltBlk.kind.info.span ∧ Open up fltBlk) := by
  unfold Open; decide +kernel

/-- States and operands that meet the hypotheses of each clause of the statement. -/
theorem test_meets_TcamLowestPriorityWins :
    tcamOn (on ⟨.tcm, 63⟩ up) 7 7 = true := by decide +kernel

/-- States and operands that meet the hypotheses of each clause of the statement. -/
theorem test_meets_LookupsStayInTheirPartition :
    (searchEm (entryAt 0 7 [0, 0] stashBase up) 0 7 255 4095 []).hit.isSome = true
  ∧ (searchFlow (entryAt 1 7 [0, 0, 0, 0, 0, 0] (2 * (flowBuckets (entryAt 1 7 [] 0 up) 7 4095 []).headD 0) up) 0 7 4095 []).hit.isSome = true
  ∧ (searchLpm (entryAt 2 7 [0, 0, 0] 0 up) 0 7 255 4095 [] false).hit.isSome = true
  ∧ (searchTcam (entryAt 4 7 [] 0 up) 0 7 255 4095 0 [] none).hit.isSome = true := by decide +kernel

/-- States and operands that meet the hypotheses of each clause of the statement. -/
theorem test_meets_GreenStaysWithinTheCommittedRate :
    (Meter.empty.tc ≤ Meter.empty.cbs ∧ (Meter.full ⟨0, 0, 0, 0, 0, 0⟩ 5).last ≤ 5) := by decide +kernel

/-- States and operands that meet the hypotheses of each clause of the statement. -/
theorem test_meets_FaultLevelsTakeTheHigher :
    (⟨23, 4, 4, 0, 0, 0, false⟩ : FaultEv).level ≤ 4 := by decide +kernel

/-- States and operands that meet the hypotheses of each clause of the statement. -/
theorem test_meets_FramesEnterThePipeline :
    (Calm (st (port 1023 up)) ∧ halted (port 1023 up) = false ∧ portWidth (port 1023 up) 1023 ≠ 0 ∧ isOn (port 1023 up) ⟨.mac, 1023⟩ = true
  ∧ linkUp (port 1023 up) 1023 = true ∧ slcState (port 1023 up) (portSlice 1023) = 0)
  ∧ (frameOf (withFrames [frame0] up) 1 = some frame0 ∧ windowShut (withFrames [frame0] up) frame0 = false
  ∧ isOn (withFrames [frame0] up) ⟨.prs, portSlice 3⟩ = false ∧ isOn (on ⟨.prs, 0⟩ up) ⟨.prs, portSlice 3⟩ = true
  ∧ windowShut (on ⟨.prs, 0⟩ (withFrames [frame0] up)) frame0 = false)
  ∧ (crustState up = 0 ∧ [1, 2, 3, 4, 5].all (fun n => (part (partAt 0 n up) (mPart frame0.sect)).st == n) = true)
  ∧ ((part up (mPart frame0.sect)).mode = false ∧ (part up (mPart frame0.sect)).trans = false ∧ mDrop frame0.sect = false
  ∧ mDrop (setMetaF frame0.sect 2 17 17 1) = true) := by
  unfold Calm; decide +kernel

/-- States and operands that meet the hypotheses of each clause of the statement. -/
theorem test_meets_FlowLookupsAndVerification :
    (findFirst (fun x => x.1 == 7) (flowing up).fp.flow = some (7, 1)
  ∧ frameOf (setFp (flowing up) { (flowing up).fp with flow := eraseFirst (fun x => x.1 == 7) (flowing up).fp.flow }) 1 = some flowFrame
  ∧ flowFrame.gone = false ∧ flowFrame.hbm = true ∧ isOn (flowing up) (stackFor (flowing up) 7) = false)
  ∧ (isOn (flowing (on ⟨.hbm, 7⟩ up)) (stackFor (flowing (on ⟨.hbm, 7⟩ up)) 7) = true
  ∧ (resHurt TimeState.reset up flowFrame.res (searchFlow (flowing up) (epochVersion up (mEpoch flowFrame.sect)) 7 (mPart flowFrame.sect) flowFrame.k0).bad).1.drop ≠ 3
  ∧ (searchFlow (flowing up) (epochVersion up (mEpoch flowFrame.sect)) 7 (mPart flowFrame.sect) flowFrame.k0).hit = none)
  ∧ (isOn flowHit (stackFor flowHit 7) = true
  ∧ (resHurt TimeState.reset flowHit flowFrame.res (searchFlow flowHit (epochVersion up (mEpoch flowFrame.sect)) 7 (mPart flowFrame.sect) flowFrame.k0).bad).1.drop ≠ 3
  ∧ (searchFlow flowHit (epochVersion up (mEpoch flowFrame.sect)) 7 (mPart flowFrame.sect) flowFrame.k0).hit.isSome = true)
  ∧ ((resHurt TimeState.reset flowHurt flowFrame.res (searchFlow flowHurt (epochVersion up (mEpoch flowFrame.sect)) 7 (mPart flowFrame.sect) flowFrame.k0).bad).1.drop = 3
  ∧ flowFrame.res.drop ≠ 3)
  ∧ (frameOf (withFrames [{ frame0 with stage := 1, ready := true }] up) 1 = some { frame0 with stage := 1, ready := true }
  ∧ veEarly { frame0 with stage := 1, ready := true } = false ∧ Sys2Proof.Machine.gated up (portSlice frame0.port) = false
  ∧ mDrop frame0.past.sect = false ∧ mDrop { frame0 with sect := setMetaF frame0.sect 2 17 17 1 }.past.sect = true)
  ∧ (frame0.res.drop = 0 ∧ frame0.chg ≠ 4 ∧ { frame0 with launch := 2, pred := zeroImage }.pred = frame0.image ∧ frame0.launch ≠ 2
  ∧ { frame0 with chg := 4 }.chg = 4) := by decide +kernel

/-- States and operands that meet the hypotheses of each clause of the statement, part 1. -/
theorem test_meets_CrossingsComplete_1 :
    SMap.get 0 (setFp up { up.fp with backs := SMap.set 0 [] (63 * 64 + 63) 1 }).fp.backs (63 * 64 + 63) ≠ 0
  ∧ (findFirst (fun x => x.fid == 1 && x.dst / 8 == 0 && x.phase == 0) (crossing 0).fp.xfers = some (xfer0 0) ∧ frameOf (crossing 0) 1 = some frame0
  ∧ (xfer0 0).dead = false ∧ (xfer0 0).cid.bind (copyOf (crossing 0)) = some copy0 ∧ copy0.kind ≠ 5
  ∧ judgeFar (askRecs TimeState.reset (crossing 0) copy0.queue copy0.part) frame0 copy0 1 = none
  ∧ spillBound (askRecs TimeState.reset (crossing 0) copy0.queue copy0.part) copy0.queue 1 = false)
  ∧ ((crossAs { xfer0 0 with dead := true } (crossing 0)).fp.xfers = [{ xfer0 0 with dead := true }]
  ∧ { xfer0 0 with cid := none }.cid.bind (copyOf (crossing 0)) = none)
  ∧ ((judgeFar (askRecs TimeState.reset notValid copy0.queue copy0.part) frame0 copy0 1).isSome = true
  ∧ (xfer0 0).cid.bind (copyOf notValid) = some copy0
  ∧ (judgeFar notValid frame0 copy0 1).map (fun r => (chainForRepls (countFar notValid frame0 (xfer0 0) copy0 r) frame0 (xfer0 0) 0).1) = some false)
  ∧ (judgeFar (crossRepl (xfer0 0) notValid) frame0 copy0 1).map (fun r =>
      (chainForRepls (countFar (crossRepl (xfer0 0) notValid) frame0 (xfer0 0) copy0 r) frame0 (xfer0 0) 0).1) = some true
  ∧ (judgeFar (askRecs TimeState.reset (spills (crossing 0)) copy0.queue copy0.part) frame0 copy0 1 = none
  ∧ spillBound (askRecs TimeState.reset (spills (crossing 0)) copy0.queue copy0.part) copy0.queue 1 = true) := by decide +kernel

/-- States and operands that meet the hypotheses of each clause of the statement, part 2. -/
theorem test_meets_CrossingsComplete_2 :
    judgeFar (crossing 0) frame0 { copy0 with kind := 5 } 1 = none
  ∧ (findFirst (fun x => x.fid == 1 && x.dst / 8 == 0 && (x.phase == 1 || x.phase == 2)) (crossing 1).fp.xfers = some (xfer0 1)
  ∧ frameOf (crossing 1) 1 = some frame0 ∧ (xfer0 1).launch = false)
  ∧ (findFirst (fun x => x.fid == 1 && x.dst / 8 == 0 && (x.phase == 1 || x.phase == 2)) (crossing 2).fp.xfers = some (xfer0 2)
  ∧ { xfer0 2 with launch := true }.launch = true ∧ frame0.launch ≠ 1 ∧ { frame0 with launch := 1 }.launch = 1)
  ∧ (findFirst (fun x => x.1 == 0 && x.2.1 == 0) (crossing 3).fp.flight = some (0, 0, 5)
  ∧ xferOf (setFp (crossing 3) { (crossing 3).fp with flight := eraseFirst (fun x => x.1 == 0 && x.2.1 == 0) (crossing 3).fp.flight, backs := SMap.set 0 (crossing 3).fp.backs (0 * 64 + 0) (SMap.get 0 (crossing 3).fp.backs (0 * 64 + 0) + 1) }) 5
      = some (xfer0 3))
  ∧ isOn (on ⟨.d2d, 55⟩ up) ⟨.d2d, 55⟩ = true := by decide +kernel

/-- States and operands that meet the hypotheses of each clause of the statement, part 1. -/
theorem test_meets_GrantsTailsAndVerdictsComplete_1 :
    (isOn (on ⟨.sch, 63⟩ up) ⟨.sch, portSlice 1023⟩ = true ∧ slcState (on ⟨.sch, 63⟩ up) (portSlice 1023) = 0 ∧ crustState (on ⟨.sch, 63⟩ up) = 0
  ∧ choose TimeState.reset (groom TimeState.reset (on ⟨.sch, 63⟩ up) 1023) 1023 = none)
  ∧ (isOn (sending none) ⟨.sch, portSlice 0⟩ = true ∧ crustState (sending none) = 0
  ∧ (choose TimeState.reset (groom TimeState.reset (sending none) 0) 0).map (fun x => agedHead TimeState.reset (groom TimeState.reset (sending none) 0) x.1) = some false)
  ∧ ((choose old0 (groom old0 (aging [copy1]) 0) 0).map (fun x => agedHead old0 (groom old0 (aging [copy1]) 0) x.1) = some true
  ∧ mayAge old0 (groom old0 (aging [copy1]) 0) 0 = true
  ∧ choose old0 (groom old0 (ageOut old0 (groom old0 (aging [copy1]) 0) 0 copy1) 0) 0 = none)
  ∧ (mayAge old0 (ageOut old0 (aging [copy1, { copy1 with cid := 3 }]) 0 copy1) 0 = false
  ∧ (choose old0 (groom old0 (ageOut old0 (aging [copy1, { copy1 with cid := 3 }]) 0 copy1) 0) 0).map (fun x => agedHead old0 (aging []) x.1) = some true)
  ∧ (choose old0 (groom old0 (ageOut old0 (aging [copy1, young]) 0 copy1) 0) 0).map (fun x => agedHead old0 (aging []) x.1) = some false
  ∧ (frameOf (withFrames [frame0] up) 1 = some frame0 ∧ frame0.tail = false ∧ (64 : Nat) ≤ frame0.len ∧ frame0.len ≤ portMtu up frame0.port
  ∧ frame0.stage ≠ 2 ∧ frame0.control = false ∧ cutOut (withFrames [frame0] up) 1 = false)
  ∧ ((Frame.start 1 3 [0] ⟨0, 0, 0⟩).len < 64
  ∧ frameOf (frameTail TimeState.reset (withFrames [Frame.start 1 3 [0] ⟨0, 0, 0⟩] up) 1 true true) 1 = none) := by decide +kernel

/-- States and operands that meet the hypotheses of each clause of the statement, part 2. -/
theorem test_meets_GrantsTailsAndVerdictsComplete_2 :
    (Frame.start 1 3 (List.replicate 12 0 ++ [0x88, 0x08] ++ List.replicate 50 0) ⟨0, 0, 0⟩).control = true
  ∧ (portMtu (wrF up ⟨.mac, 3⟩ .macCfg 45 32 64) 3 < (Frame.start 1 3 (List.replicate 65 0) ⟨0, 0, 0⟩).len
  ∧ (Frame.start 1 3 (List.replicate 65 0) ⟨0, 0, 0⟩).control = false ∧ cutOut (sending (some { grant0 with cut := true })) 1 = true)
  ∧ ((frameOf (frameTail TimeState.reset (withFrames [frame0] up) 1 true true) 1).map (·.tail)) = some true
  ∧ frameOf (withFrames [{ frame0 with verdict := 3 }] up) 1 = some { frame0 with verdict := 3 }
  ∧ (copyOf (sending (some grant0)) 2 = some { copy0 with st := 2, verified := true, grant := some grant0 }
  ∧ (frameOf (sending (some grant0)) 1).map (·.tail) = some true ∧ grant0.done = false ∧ grant0.drop = false
  ∧ begun late (sending (some grant0)) { copy0 with st := 2, verified := true, grant := some grant0 } grant0 = true)
  ∧ ({ copy0 with st := 2, grant := some grant0 }.verified = false ∧ { copy0 with refAt := some 0 }.refAt ≠ none
  ∧ { copy0 with kind := 5 }.kind = 5) := by decide +kernel

/-- States and operands that meet the hypotheses of each clause of the statement, part 1. -/
theorem test_meets_SpillAndDeliveryComplete_1 :
    (findFirst (fun b => b.queue == 1048575 && b.st == 0) (spilled 0).fp.blocks = some (block0 0) ∧ 2 ≤ (blkSt (spilled 0) (stackFor (spilled 0) (queueCluster 1048575))).cur)
  ∧ (findFirst (fun b => b.queue == 1048575 && b.st ≤ 1) (spilled 1).fp.blocks = some (block0 1) ∧ (block0 1).isRec = true
  ∧ queueCells (spilled 1) 1048575 < rdF (spilled 1) ⟨.bpm, queueCluster 1048575⟩ .bpmSpillCfg 47 32 ∧ (block0 1).isOpen = false
  ∧ countIf (fun b => b.queue == 1048575 && b.st == 2) (spilled 1).fp.blocks < 4 ∧ 2 ≤ (blkSt (spilled 1) (stackFor (spilled 1) (queueCluster 1048575))).cur)
  ∧ (findFirst (fun b => b.queue == 1048575 && b.st ≤ 1) (spilledAs (block0 0 false)).fp.blocks = some (block0 0 false) ∧ (block0 0 false).isOpen = true)
  ∧ (findFirst (fun b => b.queue == 1048575 && b.st ≤ 1) (spilledAs (cellBlock 0)).fp.blocks = some (cellBlock 0) ∧ (cellBlock 0).isRec = false
  ∧ (cellBlock 0).isOpen = false ∧ 16 ≤ poolFree (spilledAs (cellBlock 0)) 7 - poolRsv (spilledAs (cellBlock 0)) 7 - tailRsv (spilledAs (cellBlock 0)) 7)
  ∧ findFirst (fun b => b.queue == 1048575 && b.st == 2) (spilled 2).fp.blocks = some (block0 2)
  ∧ wrCap up 7 ≠ 0 := by decide +kernel

/-- States and operands that meet the hypotheses of each clause of the statement, part 2. -/
theorem test_meets_SpillAndDeliveryComplete_2 :
    (isOn (on ⟨.bpm, 7⟩ up) ⟨.bpm, 7⟩ = true ∧ bit (rd (on ⟨.bpm, 7⟩ up) ⟨.bpm, 7⟩ .bpmCfg) 48 = true ∧ (on ⟨.bpm, 7⟩ up).fp.leaks = [])
  ∧ (copyOf (toHost 4) 2 = some { copy0 with kind := 4 } ∧ (frameOf (toHost 4) 1).map (·.tail) = some true)
  ∧ (findFirst (fun x => x.kind == 3 && x.part == 0 && x.cluster == 0) (toHost 3).fp.copies = some { copy0 with kind := 3 }
  ∧ bit (part (toHost 3) 0).host 4 = false ∧ bit (part (setPart up 0 { part up 0 with host := 16 }) 0).host 4 = true)
  ∧ (findFirst (fun r => r.fid == 1 && r.cluster == 7) replicating.fp.repls = some repl0 ∧ frameOf replicating 1 = some frame0
  ∧ repl0.chain ≠ 0 ∧ repl0.xfer = none ∧ (replicating.fp.engine.filter (fun e => e.1 == 7)).length < 4096)
  ∧ (4096 ≤ (List.replicate 4096 (7, 1)).length ∧ (1 : Nat) ≤ xferArrived.arrived ∧ xferArrived.phase = 3) := by decide +kernel

/-- States and operands that meet the hypotheses of each clause of the statement. -/
theorem test_meets_GateListsTakeOver :
    (takeoverAt (listDue 1023) 1023 = some 0 ∧ 0 ≤ dtNum TimeState.reset.now ∧ crustState up = 0)
  ∧ crustState (wr up fltBlk .fltCrustCtrl 1) ≠ 0
  ∧ (bit (rd (wakeable 1) ⟨.sch, portSlice 0⟩ .schPort 0) 32 = true
  ∧ (wakeable 1).fp.copies.any (fun x => x.kind != 3 && x.kind != 4 && copyPort (wakeable 1) x == 0 && (x.st == 1 || x.st == 3)) = true
  ∧ slcState (wakeable 1) (portSlice 0) = 1 ∧ memGet (wakeable 1) .slcWake 0 (portSlice 0) = 0)
  ∧ (Open listed ⟨.sch, 63⟩ ∧ (BitVec.ofNat 64 (2 ^ 63 + 1)).toNat / 2 ^ 63 = 1 ∧ (gateOf listed (gatePort listed 63)).pend = none
  ∧ listOk listed (gatePort listed 63) (1 - (gateOf listed (gatePort listed 63)).oper) = true) := by
  unfold Open; decide +kernel

/-- States and operands that meet the hypotheses of each clause of the statement. -/
theorem test_meets_PausesComplete :
    (pfcMode (pfc 1 0) 1023 = 1 ∧ portWidth (pfc 1 0) 1023 ≠ 0 ∧ isOn (pfc 1 0) ⟨.mac, 1023⟩ = true ∧ linkUp (pfc 1 0) 1023 = true)
  ∧ (pfcMode (pfc 2 0) 1023 = 2 ∧ portWidth (pfc 2 0) 1023 ≠ 0 ∧ isOn (pfc 2 0) ⟨.mac, 1023⟩ = true ∧ linkUp (pfc 2 0) 1023 = true
  ∧ crustState (pfc 2 0) = 0)
  ∧ (xoffOf (setFp up { up.fp with xoff := [(1023, 7)] }) 1023 ≠ [] ∧ crustState up = 0 ∧ pfcMode (pfc 2 0) 1023 ≠ 0)
  ∧ (fld (pfcReg (pfc 2 0) 1023) 59 48 ≠ 0 ∧ paused TimeState.reset (pfc 2 0) 1023 7 = true ∧ paused late (pfc 2 0) 1023 7 = false
  ∧ bit (pfcReg (countN (errFault TimeState.reset (pfc 2 0) ⟨.sch, portSlice 1023⟩ 1 20 0 0) (Ev.plain .mac 15) 1023 7 0 0 1) 1023) 60 = false)
  ∧ (bit (pfcReg (countN (errFault TimeState.reset (pfc 2 1) ⟨.sch, portSlice 1023⟩ 1 20 0 0) (Ev.plain .mac 15) 1023 7 0 0 1) 1023) 60 = true
  ∧ (1023, 7) ∉ (countN (errFault TimeState.reset (pfc 2 1) ⟨.sch, portSlice 1023⟩ 1 20 0 0) (Ev.plain .mac 15) 1023 7 0 0 1).fp.deaf
  ∧ paused TimeState.reset (pfc 2 1) 1023 7 = true) := by decide +kernel

/-- States and operands that meet the hypotheses of each clause of the statement. -/
theorem test_meets_PortsComeUpAndGoDown :
    (isOn (on ⟨.mac, 1023⟩ (lane 1023 up)) ⟨.mac, 1023⟩ = true ∧ portWidth (on ⟨.mac, 1023⟩ (lane 1023 up)) 1023 ≠ 0
  ∧ bit (rd (on ⟨.mac, 1023⟩ (lane 1023 up)) ⟨.mac, 1023⟩ .macStat) 63 = false
  ∧ clocked (on ⟨.mac, 1023⟩ (lane 1023 up)) (portCluster 1023) = true ∧ slcState (on ⟨.mac, 1023⟩ (lane 1023 up)) (portSlice 1023) ≤ 1
  ∧ halted (on ⟨.mac, 1023⟩ (lane 1023 up)) = false ∧ (part up (memGet up .partPort 0 1023)).st ≠ 0)
  ∧ bit (rd (port 1023 up) ⟨.mac, 1023⟩ .macStat) 63 = true
  ∧ (Open up ⟨.mac, 1016⟩ ∧ portWidth up 1016 ≠ 0 ∧ (blkSt up ⟨.mac, portOf up 1016⟩).cur = 0
  ∧ fld (written (st up) ⟨.mac, 1016⟩ .macCfg (1 <<< 56)) 59 56 = portWidth up 1016)
  ∧ (fld (written (st up) ⟨.mac, 1016⟩ .macCfg (8 <<< 56)) 59 56 = 8 ∧ 8 ≠ portWidth up 1016 ∧ 1016 % 8 = 0
  ∧ ∀ l ∈ upto 1016 8, (blkSt up ⟨.mac, portOf up l⟩).cur = 0)
  ∧ (Open (lane 1023 up) ⟨.mac, 1023⟩ ∧ innerLane (lane 1023 up) ⟨.mac, 1023⟩ = false
  ∧ findFirst (fun e => e.1 == 1023) (setFp up { up.fp with txts := [(1023, [1, 2])] }).fp.txts = some (1023, [1, 2])) := by
  unfold Open; decide +kernel

/-- States and operands that meet the hypotheses of each clause of the statement. -/
theorem test_meets_PrbsAndJtag :
    ([PrbsLane.sds 1023, .csl 7, .pci 3, .d2d 55].all prbsExists = true ∧ Open up ⟨.sds, 1023⟩ ∧ Open up cslBlk ∧ Open up pciBlk ∧ Open up ⟨.d2d, 55⟩
  ∧ prbsFree up (.sds 1023) = true ∧ prbsFree up (.csl 7) = true ∧ prbsFree (setBlk up pciBlk ⟨false, 0, false, false⟩) (.pci 3) = true
  ∧ prbsFree up (.d2d 55) = true)
  ∧ bit (rd (wr up ⟨.sds, 1023⟩ .sdsPrbsChk (2 ^ 63)) ⟨.sds, 1023⟩ .sdsPrbsChk) 63 = true
  ∧ bit (rd (wr up cslBlk .cslPrbsStat (2 ^ 63) 7) cslBlk .cslPrbsStat 7) 63 = true
  ∧ (powered up = true ∧ (0 = 0 ∨ 7 < 0) ∧ (3 ≤ 7 ∧ 7 ≤ 7)) := by
  unfold Open; decide +kernel

/-- States and operands that meet the hypotheses of each clause of the statement. -/
theorem test_meets_FlushesAndFencesComplete :
    (Open up (fdhBlk 7) ∧ (BitVec.ofNat 64 (2 ^ 63)).toNat / 2 ^ 63 = 1 ∧ bit (rd up (fdhBlk 7) .fdhFlush) 63 = false)
  ∧ (BitVec.ofNat 64 4095).toNat / 2 ^ 63 = 0
  ∧ bit (memGet (memSet up .fdhRun 0 7 (2 ^ 63)) .fdhRun 0 7) 63 = true
  ∧ Open up ⟨.bpm, 7⟩
  ∧ up.fp.repls.any (fun r => r.cluster == 7 && r.fenced) = false := by
  unfold Open; decide +kernel

/-- States and operands that meet the hypotheses of each clause of the statement. -/
theorem test_meets_SchedulingTablesAreStored :
    (Open up ⟨.bpm, 7⟩ ∧ rdF (wr up ⟨.bpm, 7⟩ .bpmSmpAddr 63) ⟨.bpm, 7⟩ .bpmSmpAddr 5 0 ≠ 0
  ∧ bit (rd (wr up ⟨.bpm, 7⟩ .bpmSmpAddr 63) ⟨.bpm, 7⟩ .bpmSmpAddr) 63 = false)
  ∧ (Open up ⟨.sch, 63⟩ ∧ queueBusy up (63 * 16384 + 0) = false ∧ (part up (queueOwner up (63 * 16384 + 0))).st ≠ 0
  ∧ bit ((2 ^ 64 - 1 : Nat).land (rwMask .schQData)) 63 = true)
  ∧ (fld (memGetD (queue0 up) .schQ 0 0 1) 63 8 = fld ((2 ^ 63 + 255 : Nat).land (rwMask .schQData)) 63 8 ∧ isUe (setMark up ⟨.sch, 63⟩ 0 0 100) ⟨.sch, 63⟩ 0 0 = true)
  ∧ (Open up ⟨.mtr, 63⟩ ∧ bit ((written (st up) ⟨.mtr, 63⟩ .mtrProf (2 ^ 62)).land (rwMask .mtrProf)) 62 = true)
  ∧ ((⟨0, 0, 0, 0, 0, 0⟩ : Meter).cir ≤ (⟨0, 0, 0, 0, 0, 0⟩ : Meter).pir ∧ (⟨0, 0, 0, 0, 0, 0⟩ : Meter).cbs ≤ (⟨0, 0, 0, 0, 0, 0⟩ : Meter).pbs
  ∧ bit ((written (st up) ⟨.mtr, 63⟩ .mtrProf 0).land (rwMask .mtrProf)) 62 = false) := by
  unfold Open; decide +kernel

/-- States and operands that meet the hypotheses of each clause of the statement. -/
theorem test_meets_DeviceTimeCommandsComplete :
    (Calm (st up) ∧ Open up timBlk ∧ memGet up .timReq 0 0 = 0 ∧ memGet up .timReq 0 1 = 0)
  ∧ (bit (rd (wr up timBlk .timPps 1) timBlk .timPps) 0 = true ∧ memGet up .timReq 0 2 = 0 ∧ Calm (st (wr up timBlk .timPps 1)))
  ∧ (bit (rd (wr up timBlk .timPps 2) timBlk .timPps) 1 = true ∧ bit (rd (wr up timBlk .timPps 2) timBlk .timPps) 2 ≠ true
  ∧ bit (rd (wr up timBlk .timPps 6) timBlk .timPps) 1 = true ∧ bit (rd (wr up timBlk .timPps 6) timBlk .timPps) 2 ≠ false
  ∧ TimeState.reset.now.ns < 2 ^ 32 ∧ Calm (st (wr up timBlk .timPps 2))) := by
  unfold Open Calm; decide +kernel

/-- States and operands that meet the hypotheses of each clause of the statement, part 1. -/
theorem test_meets_StacksComplete_1 :
    (isStack (on ⟨.hbm, 7⟩ up) 7 = true ∧ (hbmStacks (on ⟨.hbm, 7⟩ up)).contains 7 = true
  ∧ signed8 0 < (fld (rd (on ⟨.hbm, 7⟩ up) ⟨.hbm, 7⟩ .hbmTemp) 31 24 : Nat) ∧ signed8 0 ≤ 125)
  ∧ (((fld (rd (wrF up ⟨.hbm, 7⟩ .hbmTemp 31 24 0) ⟨.hbm, 7⟩ .hbmTemp) 31 24 : Nat) : Int) ≤ signed8 0
  ∧ bit (rdAt (wrF up ⟨.hbm, 7⟩ .hbmTemp 31 24 0) ⟨.hbm, 7⟩ 0 .errStatus 0) 2 = false)
  ∧ (125 < signed8 126 ∧ ¬ 125 < signed8 125 ∧ signed8 126 < (fld (rd (wrF up ⟨.hbm, 7⟩ .hbmTemp 31 24 255) ⟨.hbm, 7⟩ .hbmTemp) 31 24 : Nat))
  ∧ ((31 : Nat) < 32 ∧ (blkSt (on ⟨.hbm, 7⟩ up) ⟨.hbm, 7⟩).cur ≠ 0 ∧ 0 < rdF (on ⟨.hbm, 7⟩ up) ⟨.hbm, 7⟩ .hbmRetrain 31 24)
  ∧ memGet (memSet up .hbmRefill 7 0 1) .hbmRefill 7 0 = 1 := by decide +kernel

/-- States and operands that meet the hypotheses of each clause of the statement, part 2. -/
theorem test_meets_StacksComplete_2 :
    bit (rd (wr up ⟨.hbm, 7⟩ .hbmTrainCtrl (2 ^ 63)) ⟨.hbm, 7⟩ .hbmTrainCtrl) 63 = true
  ∧ (Open up ⟨.hbm, 7⟩ ∧ (blkSt up ⟨.hbm, 7⟩).cur = 0 ∧ (served up 7).all (fun k => !bit (rd up ⟨.exm, k⟩ .exmFlowCfg) 32) = true
  ∧ locked up ⟨.hbm, 7⟩ 0 = false ∧ (BitVec.ofNat 64 (2 ^ 63)).toNat / 2 ^ 63 = 1)
  ∧ (BitVec.ofNat 64 (2 ^ 63 - 1)).toNat / 2 ^ 63 = 0
  ∧ (Open (wrAt up ⟨.hbm, 7⟩ 0 .ctrl 0 4) ⟨.hbm, 7⟩ ∧ locked (wrAt up ⟨.hbm, 7⟩ 0 .ctrl 0 4) ⟨.hbm, 7⟩ 0 = true) := by
  unfold Open; decide +kernel

/-- States and operands that meet the hypotheses of each clause of the statement. -/
theorem test_meets_ProtectionComplete :
    301 ≤ mark (setMark up ⟨.edt, 63⟩ 0 8191 301) ⟨.edt, 63⟩ 0 8191
  ∧ (scrubRuns (on ⟨.fdh, 7⟩ up) ⟨.fdh, 7⟩ 0 = true ∧ preg (on ⟨.fdh, 7⟩ up) ⟨.fdh, 7⟩ 0 .pos + 1 < (scrubShape (on ⟨.fdh, 7⟩ up) ⟨.fdh, 7⟩ 0).2)
  ∧ (scrubRuns (lapEnd 0) ⟨.fdh, 7⟩ 0 = true ∧ (scrubShape (lapEnd 0) ⟨.fdh, 7⟩ 0).2 ≤ preg (lapEnd 0) ⟨.fdh, 7⟩ 0 .pos + 1)
  ∧ (memCount BlkKind.edt ≠ 0 ∧ 1 < BlkKind.edt.info.span ∧ Open up ⟨.edt, 63⟩ ∧ bit (2 ^ 31 : Nat) 31 = true ∧ fld (2 ^ 31 : Nat) 23 16 < memCount .edt)
  ∧ (findFirst (fun k => slcState up k ≤ 1 && parityBad up k 8191 == 0) (upto 0 64) = some 0 ∧ memGet up .edtStore 0 8191 = storeWord up 0 8191)
  ∧ findFirst (fun k => slcState up k ≤ 1 && parityBad up k 8191 == 0) [] = none
  ∧ memGet (memSet up .edtStore 0 8191 1) .edtStore 0 8191 ≠ storeWord (memSet (memSet up .edtStore 0 8191 1) .edtBad 0 8191 1) 0 8191
  ∧ (Spot ⟨.edt, 63⟩ 0 .protCnt 0 ∧ reservedNow up ⟨.edt, 63⟩ .protCnt = false ∧ innerLane up ⟨.edt, 63⟩ = false ∧ Open up ⟨.edt, 63⟩) := by
  unfold Open Spot; decide +kernel

/-- States and operands that meet the hypotheses of each clause of the statement. -/
theorem test_meets_EditProgramsComplete :
    (nextOp (ringAt 0 15 [desc 0x28 0 false] up) 0 15 0x28 = some (desc 0x28 0 false) ∧ loading up = false ∧ dw (desc 0x28 0 false) 1 % 64 = 0
  ∧ fld (dw (desc 0x28 0 false) 2) 63 20 = 0 ∧ dw (desc 0x28 0 false) 2 ≤ 524288 ∧ (∀ i ∈ upto 3 5, dw (desc 0x28 0 false) i = 0)
  ∧ payloadProgs payload1 = some [prog1] ∧ loadCheck [prog1] (usedRanges up) = none ∧ payloadProgs (List.replicate 8 0) = some [])
  ∧ (nextOp (ringAt 0 15 [desc 0x29 4095 false] up) 0 15 0x29 = some (desc 0x29 4095 false) ∧ fld (dw (desc 0x29 4095 false) 1) 63 12 = 0
  ∧ (∀ i ∈ upto 2 6, dw (desc 0x29 4095 false) i = 0) ∧ fld (dw (desc 0x29 4095 false) 1) 11 0 ≠ 0
  ∧ progState (progAt 1 up) (fld (dw (desc 0x29 4095 false) 1) 11 0) = 1)
  ∧ ((usedRanges (progAt 3 up)).filter (fun u => progState (progAt 3 up) u.1 == 3) ≠ []
  ∧ (∀ r ∈ upto 0 16, findFirst (fun c => opOf c.words == 0x28 && c.started && c.done.isNone) (ring (progAt 1 (progAt 3 up)) .command 0 r).descs = none))
  ∧ ((4095 : Nat) ≠ 0 ∧ progState (progAt 2 up) 4095 = 2 ∧ progCopies (progAt 2 up) 4095 = 0 ∧ (∀ k ∈ upto 0 64, progRef (progAt 2 up) k 4095 = 0)
  ∧ scanEnded TimeState.reset (progAt 2 up) 4095 = true)
  ∧ (up.fp.copies.any (fun x => x.kind != 3 && x.kind != 4 && copySlice x == 63) = false ∧ up.fp.xfers.any (fun x => x.src == 63 && !x.dead) = false)
  ∧ (memGet (memSet up .edtMcTime 63 8192 (8191 + 1)) .edtMcTime 63 8192 = 8191 + 1 ∧ goldenBad up 8191 = false
  ∧ memGet (memSet up .edtMcTime 63 8192 (8191 + 1)) .edtMcTime 63 8194 = 0 ∧ memGet up .edtMcTime 63 8192 = 0) := by decide +kernel

/-- States and operands that meet the hypotheses of each clause of the statement. -/
theorem test_meets_TcamSearchAndShadow :
    (Open up ⟨.tcm, 63⟩ ∧ (BitVec.ofNat 64 (2 ^ 63)).toNat / 2 ^ 63 = 1 ∧ (tableAt (tcamTable up) 63).isSome = true ∧ Open (tcamTable up) ⟨.tcm, 63⟩)
  ∧ (bit (rd (searching up) ⟨.tcm, 63⟩ .tcmSrchCtrl) 63 = true ∧ tableAt (memSet (wrF (searching up) ⟨.tcm, 63⟩ .tcmSrchCtrl 63 63 0) .tcmEpoch 63 0 0) 63
      = some (255, dirEntry (tcamTable up) 7 255)
  ∧ (searchTcam (searching up) 0 7 255 0 (dirEntry (tcamTable up) 7 255) [] none).hit = none)
  ∧ ((searchTcam (searching (entryAt 4 7 [] 57344 up)) 0 7 255 4095 (dirEntry (tcamTable up) 7 255) [] none).hit.isSome = true
  ∧ tableAt up 63 = none)
  ∧ (isOn (on ⟨.tcm, 63⟩ up) ⟨.tcm, 63⟩ = true ∧ bit (rd (on ⟨.tcm, 63⟩ up) ⟨.tcm, 63⟩ .tcmCfg) 7 = true)
  ∧ memGet ((upto 0 22).foldl (scrubWord TimeState.reset ⟨.tcm, 63⟩ 1) (on ⟨.tcm, 63⟩ up)) .tcmFlip 63 0 = 0
  ∧ (memGet ((upto 0 22).foldl (scrubWord TimeState.reset ⟨.tcm, 63⟩ 1) (memSet (on ⟨.tcm, 63⟩ up) .tcmFlip 63 0 1)) .tcmFlip 63 0 ≠ 0
  ∧ (upto 0 22).any (fun w => isUe (memSet (on ⟨.tcm, 63⟩ up) .tcmFlip 63 0 1) ⟨.tcm, 63⟩ 1 w) = false) := by
  unfold Open; decide +kernel

/-- States and operands that meet the hypotheses of each clause of the statement, part 1. -/
theorem test_meets_TableProgramsAreStored_1 :
    (Open up ⟨.exm, 7⟩ ∧ fld (rd (wr up ⟨.exm, 7⟩ .exmChainAddr (31 * 32 + 25)) ⟨.exm, 7⟩ .exmChainAddr) 4 0 ≤ 25 ∧ profileUsed up 7 31 = false
  ∧ fld (4 <<< 60 : Nat) 63 60 ≠ 3 ∧ fld (4 <<< 60 : Nat) 63 60 < 5)
  ∧ (fld (rd (wr up ⟨.exm, 7⟩ .exmChainAddr (31 * 32 + 24)) ⟨.exm, 7⟩ .exmChainAddr) 4 0 = 24 ∧ fld (78 <<< 44 : Nat) 50 44 ≤ 78)
  ∧ (fld ((2 <<< 60 : Nat).land (rwMask .exmDirData)) 62 60 < 4 ∧ fld ((2 <<< 60 : Nat).land (rwMask .exmDirData)) 62 60 ≠ 3
  ∧ tableHeld up 7 255 = false ∧ tableNamed up 7 255 = false)
  ∧ (fld ((2 ^ 63 + 3 <<< 60 + 7 <<< 49 + 1 <<< 45 : Nat).land (rwMask .exmDirData)) 62 60 = 3 ∧ blocksClash up 7 255 ((2 ^ 63 + 3 <<< 60 + 7 <<< 49 + 1 <<< 45 : Nat).land (rwMask .exmDirData)) = false)
  ∧ (memberFrozen up 0 = false ∧ bit (rd up ⟨.exm, 7⟩ .exmWgtAddr) 63 = false ∧ bit (rd (wr up ⟨.exm, 7⟩ .exmWgtAddr (2 ^ 63)) ⟨.exm, 7⟩ .exmWgtAddr) 63 = true) := by
  unfold Open; decide +kernel

/-- States and operands that meet the hypotheses of each clause of the statement, part 2. -/
theorem test_meets_TableProgramsAreStored_2 :
    (groupHas group0 255 = true ∧ group0.kind = 6 ∧ group0.cluster = 7)
  ∧ (up.entries.all (fun e => e.kind != 6)) = true
  ∧ (isOn (on ⟨.hbm, 7⟩ up) (stackFor (on ⟨.hbm, 7⟩ up) 7) = true
  ∧ findFirst (fun a => a.cluster == 7) (setFc up { up.fc with flush := [⟨7, 1, 0, false, 1, 64⟩] }).fc.flush = some ⟨7, 1, 0, false, 1, 64⟩)
  ∧ (Open up ⟨.prs, 63⟩ ∧ fld (rd (wr up ⟨.prs, 63⟩ .prsKbAddr (63 * 256 + 13 * 16 + 15)) ⟨.prs, 63⟩ .prsKbAddr) 7 4 ≤ 13
  ∧ profileInUse up 63 63 = false ∧ fld (0 : Nat) 63 62 = 0 ∧ fld (2 ^ 62 + 79 <<< 36 + 1 <<< 43 : Nat) 49 43 ≠ 0
  ∧ fld (2 ^ 62 + 79 <<< 36 + 1 <<< 43 : Nat) 42 36 + fld (2 ^ 62 + 79 <<< 36 + 1 <<< 43 : Nat) 49 43 ≤ 80) := by
  unfold Open; decide +kernel

/-- States and operands that meet the hypotheses of each clause of the statement. -/
theorem test_meets_FaultCollectorComplete :
    ((setFlt up { up.flt with level := [(63, 3)] }).flt.stopped = false ∧ 1 ≤ pendLevel (setFlt up { up.flt with level := [(63, 3)] }) 63
  ∧ pendLevel (setFlt up { up.flt with level := [(63, 3)] }) 63 ≤ 3)
  ∧ (Open up fltBlk ∧ pendLevel (setFlt up { up.flt with level := [(23, 3)] }) (fld (3 <<< 8 + 23 : Nat) 5 0) = fld (3 <<< 8 + 23 : Nat) 10 8
  ∧ pendLevel (setFlt up { up.flt with level := [(23, 3)] }) (fld (3 <<< 8 + 23 : Nat) 5 0) ≠ 0)
  ∧ (setBits (2 ^ 23) 24 = [23] ∧ pendLevel up 23 = 0)
  ∧ (fld (3 <<< 8 + 23 : Nat) 5 0 < 24 ∧ fld (3 <<< 8 + 23 : Nat) 10 8 ≤ 3)
  ∧ (fld (4 <<< 8 + 23 : Nat) 10 8 = 4 ∧ bit (rd (wr up bootBlk .bootStrap 8) (devBlk .boot) .bootStrap) 3 = true ∧ Open (wr up bootBlk .bootStrap 8) fltBlk)
  ∧ ((unfenceUnit 0).isSome = true ∧ (unfenceUnit 0).all (fun u => (setFlt up { up.flt with fences := [(u, 7)] }).flt.fences.filter (fun x => x.1 == u) ≠ []) = true
  ∧ pendLevel up 7 = 0) := by
  unfold Open; decide +kernel

/-- States and operands that meet the hypotheses of each clause of the statement. -/
theorem test_meets_CrustAndWatchdogs :
    crustState (wr up fltBlk .fltCrustCtrl 1) = 1
  ∧ (Open (wr up fltBlk .fltCrustCtrl 2) fltBlk ∧ crustState (wr up fltBlk .fltCrustCtrl 2) = 2 ∧ up.flt.stopped = false
  ∧ up.flt.level.any (fun e => e.2 % 8 == 3) = false)
  ∧ (crustState (wr up fltBlk .fltCrustCtrl 3) = 3 ∧ crustBlocks.all (fun b => held up b || !(blkSt up b).enable || isOn up b) = true)
  ∧ (inStep up 1 = false ∧ memGet up .boot 0 8 ≠ 1 ∧ memGet up .boot 0 9 < 3) := by
  unfold Open; decide +kernel

/-- States and operands that meet the hypotheses of each clause of the statement. -/
theorem test_meets_SuppliesAndClocks :
    (memGet up .limPrev 6 (10 - 3) = 0 ∧ (16 : Nat) ≤ 16 ∧ memGet (memSet up .limPrev 6 7 1) .limPrev 6 7 ≠ 0 ∧ late.tick + 1 - memGet (memSet up .limPrev 6 7 1) .limPrev 6 7 < 360000
  ∧ 360000 ≤ { late with tick := 360000 }.tick + 1 - memGet (memSet up .limPrev 6 7 1) .limPrev 6 7)
  ∧ memGet (memSet up .limPrev 5 7 801) .limPrev 5 7 ≠ 0
  ∧ clocked up 7 = true := by decide +kernel

/-- States and operands that meet the hypotheses of each clause of the statement. -/
theorem test_meets_BlockStatesComplete :
    ((⟨.mtr, 63⟩ : Blk).inst < BlkKind.mtr.count ∧ (blkSt (cur ⟨.mtr, 63⟩ 1 up) ⟨.mtr, 63⟩).cur = 1 ∧ (blkSt (cur ⟨.mtr, 63⟩ 1 up) ⟨.mtr, 63⟩).enable = true
  ∧ (blkSt (setBlk up ⟨.mtr, 63⟩ ⟨false, 1, false, false⟩) ⟨.mtr, 63⟩).enable = false ∧ stuckOff up ⟨.mtr, 63⟩ = false ∧ BlkKind.mtr ≠ .hbm)
  ∧ (stuckOff (cur ⟨.hbm, 7⟩ 1 up) ⟨.hbm, 7⟩ = false ∧ tripped up = false ∧ rdF up (devBlk .pwr) .pwrStat 2 0 < 2)
  ∧ ((blkSt (cur ⟨.mtr, 63⟩ 3 up) ⟨.mtr, 63⟩).cur = 3 ∧ drainedDown (cur ⟨.mtr, 63⟩ 3 up) ⟨.mtr, 63⟩ = true)
  ∧ ((blkSt (setBlk up ⟨.mtr, 63⟩ ⟨true, 0, true, false⟩) ⟨.mtr, 63⟩).pend = true ∧ held (setBlk up ⟨.mtr, 63⟩ ⟨true, 0, true, false⟩) ⟨.mtr, 63⟩ = false
  ∧ stuckOff (setBlk up ⟨.mtr, 63⟩ ⟨true, 0, true, false⟩) ⟨.mtr, 63⟩ = false)
  ∧ ((blkSt (setBlk up ⟨.mtr, 63⟩ ⟨true, 0, false, true⟩) ⟨.mtr, 63⟩).softReset = true
  ∧ held (setBlk (softMore (softProt TimeState.reset (softRegs (setBlk up ⟨.mtr, 63⟩ ⟨true, 0, false, true⟩) ⟨.mtr, 63⟩) ⟨.mtr, 63⟩) ⟨.mtr, 63⟩) ⟨.mtr, 63⟩
      ⟨true, 0, false, false⟩) ⟨.mtr, 63⟩ = false) := by decide +kernel

/-- States and operands that meet the hypotheses of each clause of the statement. -/
theorem test_meets_ControlPagesComplete :
    ((⟨.sch, 63⟩ : Blk).inst < BlkKind.sch.count ∧ 7 < BlkKind.sch.info.span ∧ Open up ⟨.sch, 63⟩ ∧ isFixed ⟨.sch, 63⟩ = false
  ∧ innerLane up ⟨.sch, 63⟩ = false ∧ BlkKind.sch ≠ .pci ∧ BlkKind.sch ≠ .mac ∧ (blkSt up ⟨.sch, 63⟩).cur = 0)
  ∧ (Open up ⟨.mac, 1023⟩ ∧ innerLane up ⟨.mac, 1023⟩ = false ∧ (blkSt up ⟨.mac, 1023⟩).cur = 0 ∧ isFixed ⟨.mac, 1023⟩ = false)
  ∧ (macMay up 1023 = true ∧ (blkSt (cur ⟨.mac, 1023⟩ 0 up) ⟨.mac, 1023⟩).enable = true ∧ isFixed pciBlk = false ∧ Open up pciBlk)
  ∧ (1 : Word) ≠ 0 := by
  unfold Open; decide +kernel

/-- States and operands that meet the hypotheses of each clause of the statement. -/
theorem test_meets_EpochsDrainAndSettle :
    (owed (setOwed up 71 7 1) 71 7 = 1 ∧ 7 ≠ unitVersion (setOwed up 71 7 1) 71 % 8 ∧ inFlight (setOwed up 71 7 1) 71 7 = false
  ∧ unitAway (setOwed up 71 7 1) 71 = false)
  ∧ owed (setOwed up 71 7 2) 71 7 = 2
  ∧ tagState (withBatches [{ batch0 4 with tag := 63 }] up) 63 = 4
  ∧ (findFirst (fun x => x.1 == 4095 && x.2.1 == 15) (waiting 0).cmt.drainWaits = some (4095, 15, 0, 0) ∧ hasDrained (waiting 1) 0 = true)
  ∧ (up.cmt.oldest ≠ verCurrent (wr up cmtBlk .verCurrent 1) ∧ rdF (wr up cmtBlk .verCurrent 1) cmtBlk .cmtCfg 47 32 ≠ 0) := by decide +kernel

/-- States and operands that meet the hypotheses of each clause of the statement. -/
theorem test_meets_VersionsAreAssignedAndAdopted :
    (isOn (committing false) cmtBlk = true ∧ roomForVersion (committing false) = true ∧ (committing false).tw.rebase = none ∧ (committing false).tw.held = []
  ∧ (committing false).tw.numbers.contains (64, ((committing false).cmt.latest + 1) % 2 ^ 32) = false ∧ (committing false).cmt.queue = 0 :: []
  ∧ batchOf (committing false) 0 = some (batch0 2) ∧ ringSwitching (committing false) (batch0 2) = false ∧ (committing false).tw.hold = false
  ∧ attached (committing false) = false ∧ (committing false).cmt.credits ≠ 0 ∧ partCredit (committing false) (batch0 2).part = true)
  ∧ ((setTw (committing false) { (committing false).tw with hold := true }).tw.hold = true ∧ attached (pair 4) = true)
  ∧ ({ (committing false).cmt with credits := 0 }.credits = 0 ∧ (batch0 2).internal = false
  ∧ partCredit (setPart up 0 { part up 0 with budget := 1, credits := 0 }) 0 = false)
  ∧ findFirst (fun x => !x.resolved) (switching false [71]).cmt.switches = some ⟨1, some 0, false, [71]⟩
  ∧ findFirst (fun x => x.units.contains 71) (switching true [71]).cmt.switches = some ⟨1, some 0, true, [71]⟩
  ∧ ((switching true []).cmt.switches = ⟨1, some 0, true, []⟩ :: [] ∧ [].any (fun u => !unitAway (switching true []) u) = false)
  ∧ [63].any (fun u => !unitAway (wrF up ⟨.slc, 63⟩ .slcPwrStat 63 62 3) u) = false
  ∧ ((batch0 3).internal = false ∧ (batch0 3).joint = false ∧ (endChanges (switching true []) (batch0 3) 0 1 1).tw.source.contains 0 = false
  ∧ attached (endChanges (switching true []) (batch0 3) 0 1 1) = false) := by decide +kernel

/-- States and operands that meet the hypotheses of each clause of the statement, part 1. -/
theorem test_meets_CommitDescriptorsComplete_1 :
    (isOn (change 0x20 up) cmtBlk = true ∧ frozenFor (change 0x20 up) 0 = false ∧ nextOp (change 0x20 up) 0 0 0x20 = some (desc 0x20 0 false)
  ∧ openBatch (change 0x20 up) 0 0 = some (batch0 1) ∧ (batch0 1).count < maxBatch up)
  ∧ (frozenFor (setPart (change 0x20 up) 0 { part up 0 with st := 6 }) 0 = true
  ∧ nextOp (setPart (change 0x20 up) 0 { part up 0 with st := 6 }) 0 0 0x20 = some (desc 0x20 0 false))
  ∧ (openBatch (ringAt 4095 15 [desc 0x20 0 false] (on cmtBlk up)) 4095 15 = none ∧ freeTag (ringAt 4095 15 [desc 0x20 0 false] (on cmtBlk up)) = some 0
  ∧ nextOp (ringAt 4095 15 [desc 0x20 0 false] (on cmtBlk up)) 4095 15 0x20 = some (desc 0x20 0 false)
  ∧ isOn (ringAt 4095 15 [desc 0x20 0 false] (on cmtBlk up)) cmtBlk = true ∧ frozenFor (ringAt 4095 15 [desc 0x20 0 false] (on cmtBlk up)) 4095 = false)
  ∧ (freeTag (withBatches ((upto 0 64).map (fun g => { batch0 1 with tag := g, part := 1 })) up) = none
  ∧ openBatch (withBatches ((upto 0 64).map (fun g => { batch0 1 with tag := g, part := 1 })) up) 0 0 = none)
  ∧ (nextOp (change 0x21 up) 0 0 0x21 = some (desc 0x21 0 false) ∧ fld (dw (desc 0x21 0 false) 1) 60 0 = 0
  ∧ (∀ i ∈ upto 2 6, dw (desc 0x21 0 false) i = 0) ∧ openBatch (change 0x21 up) 0 0 = some (batch0 1) ∧ okCount (batch0 1) ≠ 0
  ∧ (readWords TimeState.reset (change 0x21 up) cmtBlk 0 (stageWords (batch0 1))).1 = false ∧ bit (dw (desc 0x21 0 false) 1) 61 = false
  ∧ waitReason (readWords TimeState.reset (change 0x21 up) cmtBlk 0 (stageWords (batch0 1))).2 0 = 0)
  ∧ waitReason (setPart (change 0x21 up) 0 { part up 0 with budget := 1, credits := 0 }) 0 ≠ 0 := by decide +kernel

/-- States and operands that meet the hypotheses of each clause of the statement, part 2. -/
theorem test_meets_CommitDescriptorsComplete_2 :
    (readWords TimeState.reset (setMark (change 0x21 up) cmtBlk 0 (stageWord 0 0) 100) cmtBlk 0 (stageWords (batch0 1))).1 = true
  ∧ (okCount { batch0 1 with changes := [⟨0, 17⟩] } = 0 ∧ bit (dw (desc 0x21 (2 ^ 61) false) 1) 61 = true ∧ ([⟨0, 17⟩] : List Change).any (fun y => y.tbl ≠ 1) = true)
  ∧ openBatch (ringAt 0 0 [desc 0x21 0 false] (on cmtBlk up)) 0 0 = none
  ∧ nextOp (change 0x22 up) 0 0 0x22 = some (desc 0x22 0 false)
  ∧ (nextOp (change 0x23 up) 0 0 0x23 = some (desc 0x23 0 false) ∧ fld (dw (desc 0x23 0 false) 1) 63 32 = 0
  ∧ (∀ i ∈ upto 2 6, dw (desc 0x23 0 false) i = 0)) := by decide +kernel

/-- States and operands that meet the hypotheses of each clause of the statement. -/
theorem test_meets_TwinNumbersAndCommits :
    (isOn (pair 4) cslBlk = true ∧ twinState (pair 4) = 4 ∧ roleB (pair 4) = false)
  ∧ (roleB (wr (pair 4) cslBlk .cslState (4 + 2 ^ 63)) = true ∧ twinState (wr (pair 4) cslBlk .cslState (4 + 2 ^ 63)) = 4
  ∧ isOn (wr (pair 4) cslBlk .cslState (4 + 2 ^ 63)) cslBlk = true ∧ 0 < { up.tw with asked := 1 }.asked)
  ∧ (twinState (pair 5) = 5 ∧ (pair 4).tw.sink.contains 4095 = false ∧ [(⟨[], []⟩ : RepChange)] ≠ [] ∧ (pair 4).tw.source.contains 4095 = false)
  ∧ (setTw (pair 4) { (pair 4).tw with sink := [4095] }).tw.sink.contains 4095 = true
  ∧ findFirst (fun x => x.version == 7) (setTw (pair 4) { (pair 4).tw with sent := [⟨7, 0, 0, 0, 1, true, 64⟩] }).tw.sent = some ⟨7, 0, 0, 0, 1, true, 64⟩ := by decide +kernel

/-- States and operands that meet the hypotheses of each clause of the statement. -/
theorem test_meets_TwinLinkComplete :
    (twinState (pair 1) = 1 ∧ isOn (pair 1) cslBlk = true ∧ clash ⟨0, 0xB0, 0, 0, 0⟩ ⟨1, 0xB0, 0, 0, 0⟩ = 0)
  ∧ (clash (ourHello (send (pair 7) (.cersa (.hello (ourHello (pair 7)))))) { ourHello (pair 7) with role := 1 - (ourHello (pair 7)).role } = 0 ∧ twinState (pair 7) = 7)
  ∧ (2 ≤ twinState (pair 2) ∧ (pair 2).flt.stopped = false ∧ isOn (pair 2) cslBlk = true)
  ∧ (twinState (pair 5) ≤ 5 ∧ (endPair TimeState.reset (endSent (pair 5))).tw.xfer = false)
  ∧ twinState (pair 6) ≤ 6 := by decide +kernel

/-- States and operands that meet the hypotheses of each clause of the statement. -/
theorem test_meets_TwinSyncComplete :
    (Open (pair 2) cslBlk ∧ isOn (pair 2) cslBlk = true ∧ cslBusy (pair 2) = false ∧ twinState (pair 2) = 2)
  ∧ (twinState (pair 6) = 6 ∧ isOn (pair 6) cslBlk = true)
  ∧ (Open repl cslBlk ∧ twinState repl = 4 ∧ isOn repl cslBlk = true ∧ cslBusy repl = false)
  ∧ (sinkSide sinking = true ∧ mayReplicate sinking 4095 = true ∧ mayReplicate sinking 4094 = false)
  ∧ (openInternal (sinkStart TimeState.reset sinking 4095) 4095 ringSync).isSome = true
  ∧ (twinState (pair 3) = 3 ∧ (pair 3).tw.hold = false ∧ (pair 3).tw.sink = [] ∧ (pair 3).tw.recs = [] ∧ (pair 3).cmt.switches = []) := by
  unfold Open; decide +kernel

/-- States and operands that meet the hypotheses of each clause of the statement. -/
theorem test_meets_TwinDetachAndTransfer :
    (twinState (pair 4) = 4 ∧ isOn (pair 4) cslBlk = true ∧ Open (pair 4) cslBlk ∧ cslBusy (pair 4) = false)
  ∧ (2 ≤ twinState (pair 7) ∧ Open (pair 7) cslBlk ∧ cslBusy (pair 7) = false
  ∧ fld (rd (pair 7) cslBlk .cslXfer) 31 0 ≤ areaKib (pair 7) (fld (rd (pair 7) cslBlk .cslXfer) 58 56)
  ∧ areaBusy (pair 7) (fld (rd (pair 7) cslBlk .cslXfer) 58 56) = false)
  ∧ (3 ≤ twinState (pair 5) ∧ twinState (pair 5) = 5 ∧ isOn (pair 5) cslBlk = true ∧ { (pair 5).tw with leaving := true }.leaving = true)
  ∧ ((setTw (pair 7) { (pair 7).tw with xfer := true }).tw.xfer = true ∧ twinState (setTw (pair 7) { (pair 7).tw with xfer := true }) ≤ 7)
  ∧ ((pair 2).tw.xfer = false ∧ 2 ≤ twinState (pair 2) ∧ ([0] : List Byte) ≠ []) := by
  unfold Open; decide +kernel

/-- States and operands that meet the hypotheses of each clause of the statement. -/
theorem test_meets_PartitionCommandsAreAccepted :
    (Open up partBlk ∧ crustState up = 0 ∧ (4095 : Nat) < 4096 ∧ (part up 4095).st = 0 ∧ createCheck (setPart up 4095 { part up 4095 with pasid := 2 ^ 63 }) 4095 = 0)
  ∧ ((part (partAt 4095 2 up) 4095).st = 2 ∧ createCheck (setPart up 4095 { part up 4095 with rings := 2 ^ 24 - 1, pasid := 0 }) 4095 ≠ 0)
  ∧ ((part (partAt 4095 5 up) 4095).st = 5 ∧ (part (partAt 4095 5 up) 4095).purging = false ∧ (part (working 5) 4095).purging = true)
  ∧ ((part (partAt 4095 1 up) 4095).st = 1 ∧ (part (partAt 4095 1 up) 4095).folding = false)
  ∧ (part (partAt 4095 3 up) 4095).st = 3
  ∧ ((part (partAt 4095 6 up) 4095).st = 6 ∧ (part (partAt 4095 6 up) 4095).saving = false) := by
  unfold Open; decide +kernel

/-- States and operands that meet the hypotheses of each clause of the statement, part 1. -/
theorem test_meets_PartitionWorkEnds_1 :
    ((part (partAt 4095 2 up) 4095).st = 2 ∧ partWork (partAt 4095 2 up) 4095 = false ∧ partDescs (partAt 4095 2 up) 4095 = false)
  ∧ ((part (running false) 4095).run = some ⟨false, false⟩ ∧ (⟨false, false⟩ : ResetRun).slow = false
  ∧ partWork (partHeld TimeState.reset (running false) 4095) 4095 = false
  ∧ partDescs (abortDescs (partHeld TimeState.reset (running false) 4095) 4095) 4095 = false)
  ∧ partWork (setFp up { up.fp with repls := [repl0], frames := [{ frame0 with stage := 2 }] }) 0 = true
  ∧ partDescs (ringAt 4095 15 [desc 0 0 true] up) 4095 = true
  ∧ (partWork (partHeld TimeState.reset (partFlush TimeState.reset (running true) 4095) 4095) 4095 = false
  ∧ partDescs (abortDescs (partHeld TimeState.reset (partFlush TimeState.reset (running true) 4095) 4095) 4095) 4095 = false)
  ∧ ((part (working 5) 4095).purging = true ∧ (part (working 5) 4095).found = 202
  ∧ (ownPorts (working 5) 4095).any (fun l => (blkSt (working 5) ⟨.mac, l⟩).cur != 0) = false) := by decide +kernel

/-- States and operands that meet the hypotheses of each clause of the statement, part 2. -/
theorem test_meets_PartitionWorkEnds_2 :
    ((part (working 6) 4095).saving = true ∧ crustState (working 6) = 0 ∧ (part (working 6) 4095).job.headD 0 ≠ 1 ∧ stacksReady (working 6) 4095 [] = true)
  ∧ ([1, 7].headD 0 = 1 ∧ areaKib { up with regs := [] } 7 < 2 ^ 32)
  ∧ ((part (working 7) 4095).imgHead.isSome = true ∧ (part (working 7) 4095).st = 7 ∧ (part (working 7) 4095).found = 202 ∧ (0 : Nat) ≠ 13 ∧ crustState (working 7) = 0
  ∧ stacksReady (working 7) 4095 [] = true ∧ (16 : Nat) ≤ (part (working 7) 4095).found)
  ∧ ((setPart up 4095 { part (working 7) 4095 with found := 11 }).parts ≠ [] ∧ (part (setPart up 4095 { part (working 7) 4095 with found := 11 }) 4095).found < 16)
  ∧ ((part (working 6) 4095).imgHead.isSome = true ∧ (part (working 6) 4095).st = 6 ∧ (part (working 6) 4095).found = 202 ∧ stacksReady (working 6) 4095 [] = true)
  ∧ ((part (setPart up 4095 { part (working 1) 4095 with imgHead := none }) 4095).folding = true ∧ (part (setPart up 4095 { part (working 1) 4095 with imgHead := none }) 4095).imgHead.isSome = false ∧ up.fc.deltas = [] ∧ up.fc.acc = [] ∧ up.fc.flush = []) := by decide +kernel

/-- States and operands that meet the hypotheses of each clause of the statement. -/
theorem test_meets_ModesOwnersAndRangesComplete :
    (crustState up = 0 ∧ Open (partAt 4095 1 up) partBlk ∧ (part (partAt 4095 1 up) 4095).st = 1 ∧ (part (partAt 4095 1 up) 4095).trans = false)
  ∧ ((part (setPart up 4095 { part up 4095 with trans := true }) 4095).trans = true ∧ up.fp.frames = [])
  ∧ ((upto (64 * 16383) 64).any (fun q => bit (rawQueue (wr up partBlk .partQownAddr 16383) q) 63) = false
  ∧ rdF (wr up partBlk .partQownAddr 16383) partBlk .partQownAddr 13 0 = 16383)
  ∧ (blkSt (wr up partBlk .partPortAddr 1023) ⟨.mac, rdF (wr up partBlk .partPortAddr 1023) partBlk .partPortAddr 9 0⟩).cur = 0
  ∧ (rdF (wr up partBlk .partSel 4095) partBlk .partSel 11 0 ≠ 0 ∧ fld (1 : Nat) 31 0 + fld (1 : Nat) 63 32 ≤ rangeSize .prg ∧ rdF up partBlk .partSel 11 0 = 0)
  ∧ (((up.parts.all (fun e => e.1 == 4095 || e.1 == 0)) = true) ∧ overlap 0 1 1 1 = false)
  ∧ ((part (setPart up 0 { part up 0 with trans := true }) 0).trans = true ∧ mPart frame0.sect = 0 ∧ frame0.launch = 0 ∧ frame0.verdict = 0
  ∧ ({ frame0 with pre := true, stage := 2 }.stage ≠ 1 ∧ frame0.adm = 0 ∧ frame0.rob = false)) := by
  unfold Open; decide +kernel

/-- States and operands that meet the hypotheses of each clause of the statement. -/
theorem test_meets_DescriptorsAndRingFaultsComplete :
    ((ring (belled up) .command 0 15).live = true ∧ fetching (belled up) 0 = true ∧ (ring (belled up) .command 0 15).head ≠ (ring (belled up) .command 0 15).tail
  ∧ knownOp (opOf [0, 0, 0, 0, 0, 0, 0, 0]) = true ∧ fld (([0] : List Nat).headD 0) 53 32 = 0)
  ∧ nextOp (ringAt 0 15 [desc 0 0 false] up) 0 15 0x00 = some (desc 0 0 false)
  ∧ (nextOp (ringAt 0 15 [pkt] (queue0 up)) 0 15 0x10 = some pkt ∧ pktCheck (ringAt 0 15 [pkt] (queue0 up)) 0 pkt = 0)
  ∧ (runningOp sendingPkt 0 15 0x10 = some { pkt with started := true } ∧ crustState sendingPkt = 0
  ∧ (requestCopy TimeState.reset (pktFrame TimeState.reset sendingPkt 0 { pkt with started := true } (List.replicate 60 0)).2
        (pktFrame TimeState.reset sendingPkt 0 { pkt with started := true } (List.replicate 60 0)).1 (pktQueue pkt) (pktProg pkt) (pktImage pkt)
        true false none).1 = none)
  ∧ (bit (ring (timed up) .event 0 3).irq 63 = true ∧ fld (ring (timed up) .event 0 3).irq 15 0 ≠ 0 ∧ (ring (timed up) .event 0 3).modn ≠ 0)
  ∧ ((ring (errFault TimeState.reset (belled up) pciBlk 1 14 0 0) .command 0 15).live = true
  ∧ (ring (errFault TimeState.reset up pciBlk 2 14 0 0) .event 0 3).live = false)
  ∧ (knownOp (opOf [0xFF <<< 56]) = false ∧ knownOp (opOf [2 ^ 53]) = true ∧ fld (([2 ^ 53] : List Nat).headD 0) 53 32 ≠ 0)
  ∧ pktCheck up 0 ⟨0, [0x10 <<< 56, 59, 0, 0, 0, 0, 0, 0], false, none⟩ = 4 := by decide +kernel

/-- States and operands that meet the hypotheses of each clause of the statement. -/
theorem test_meets_RingRegistersComplete :
    (powered up = true ∧ recovering up = false ∧ (part up 0).st ≠ 0 ∧ 15 < ringsHeld up 0 .command ∧ 3 < ringsHeld up 0 .event ∧ 15 < ringsHeld up 0 .spore)
  ∧ (tailOk (ring up .command 0 15) 16 = true ∧ headOk { Ring.idle with tail := 16 } 16 = true)
  ∧ ((ring up .spore 0 15).enable = false ∧ (ring up .spore 0 15).raw < 32)
  ∧ ((ring (belled up) .command 0 15).enable = true ∧ (ring (belled up) .command 0 15).raw < 32 ∧ openBatch (belled up) 0 15 = none)
  ∧ (openBatch (withBatches [{ batch0 1 with ring := 15 }] (belled up)) 0 15 = some { batch0 1 with ring := 15 }
  ∧ (ring (discardBatch TimeState.reset (withBatches [{ batch0 1 with ring := 15 }] (belled up)) { batch0 1 with ring := 15 } 1) .command 0 15).raw = (ring (belled up) .command 0 15).raw)
  ∧ (fld (2047 <<< 48 : Nat) 58 48 < vecCount up 0 ∧ (ring up .event 0 3).irq < 2 ^ 64)
  ∧ (Open up pciBlk ∧ fld (1 <<< 32 + 2047 : Nat) 10 0 + fld (1 <<< 32 + 2047 : Nat) 43 32 ≤ 2048
  ∧ up.rings.any (fun e => e.1 / 64 == 0 && e.2.enable && 1 ≤ fld e.2.irq 58 48) = false) := by
  unfold Open; decide +kernel

/-- States and operands that meet the hypotheses of each clause of the statement. -/
theorem test_meets_SlicePowerComplete :
    (slcState (mayDoze up) 63 = 0 ∧ bit (rd (mayDoze up) (slcBlk 63) .slcPwr) 32 = true ∧ bit (rd (mayDoze up) (slcBlk 63) .slcPwrStat) 61 = false
  ∧ sliceIdle TimeState.reset (mayDoze up) 63 = true)
  ∧ (slcState (slice 1 7) 63 = 1 ∧ memGet (slice 1 7) .slcWake 0 63 ≠ 0)
  ∧ (rdF (mayNap up) (slcBlk 63) .slcPwr 63 62 = 1 ∧ slcState (mayNap up) 63 ≤ 1 ∧ memGet (mayNap up) .slcWake 0 63 = 0 ∧ portsQuiet (mayNap up) 63 = true
  ∧ offWanted (mayNap up) 63 = false ∧ sliceIdle TimeState.reset (mayNap up) 63 = true)
  ∧ (slcState (slice 2 7) 63 = 2 ∧ memGet (slice 2 7) .slcWake 0 63 ≠ 0)
  ∧ (slcState (slice 2 0) 63 = 2 ∧ memGet (slice 2 0) .slcWake 0 63 = 0
  ∧ (slicePorts (on ⟨.mac, 1023⟩ (slice 2 0)) 63).any (fun p => (blkSt (on ⟨.mac, 1023⟩ (slice 2 0)) ⟨.mac, p⟩).enable) = true)
  ∧ (offWanted (memSet (wrF up (slcBlk 63) .slcPwr 63 62 2) .slcReq 63 0 1) 63 = true ∧ up.fp.xfers.any (fun x => x.src == 63 && !x.dead) = false
  ∧ up.fp.frames.any (fun f => portSlice f.port == 63 && !f.gone && (f.stage != 2 || f.adm != 0 || f.rob)) = false)
  ∧ (slcState (slice 3 0) 63 = 3 ∧ tripped (slice 3 0) = false ∧ rdF (slice 3 0) (slcBlk 63) .slcPwr 63 62 = 0 ∧ rdF (wrF (slice 3 0) (slcBlk 63) .slcPwr 63 62 3) (slcBlk 63) .slcPwr 63 62 = 3) := by decide +kernel

/-- States and operands that meet the hypotheses of each clause of the statement. -/
theorem test_meets_PowerRequestsComplete :
    (Open up (slcBlk 63) ∧ Open up pwrBlk)
  ∧ ((fun d : Dev => portsOff d 63 = true ∧ slcState d 63 ≠ 3 ∧ slcState (wrF d (slcBlk 63) .slcPwr 63 62 2) 63 = slcState d 63)
      (wr up (slcBlk 63) .slcPwr (putFld (writtenHigh (st up) (slcBlk 63) .slcPwr (2 <<< 30 + rdF up (slcBlk 63) .slcPwr 32 32)) 63 62 (rdF up (slcBlk 63) .slcPwr 63 62))))
  ∧ ((fun d : Dev => portsOff d 63 = true ∧ slcState (wrF d (slcBlk 63) .slcPwr 63 62 2) 63 = 3)
      (wr (slice 3 0) (slcBlk 63) .slcPwr (putFld (writtenHigh (st (slice 3 0)) (slcBlk 63) .slcPwr (2 <<< 30 + rdF (slice 3 0) (slcBlk 63) .slcPwr 32 32)) 63 62
        (rdF (slice 3 0) (slcBlk 63) .slcPwr 63 62))))
  ∧ (sleepRefusal (wr up pwrBlk .pwrCtrl 1) ≠ 0 ∧ sleepState (wr up pwrBlk .pwrCtrl 1) = 0 ∧ sleepState (wr (wr up pwrBlk .pwrStat 3) pwrBlk .pwrCtrl 1) ≠ 0
  ∧ sleepState (wr up pwrBlk .pwrCtrl 0) ≠ 3)
  ∧ (Open napping pwrBlk ∧ sleepState (wr napping pwrBlk .pwrCtrl 1) = 0 ∧ sleepRefusal (wr napping pwrBlk .pwrCtrl 1) = 0)
  ∧ sleepState (wrF (wr (wr up pwrBlk .pwrStat 3) pwrBlk .pwrCtrl 0) pwrBlk .pwrStat 11 8 0) = 3
  ∧ sleepState (wr up pwrBlk .pwrStat 2) = 2
  ∧ sleepState (wr up pwrBlk .pwrStat 4) = 4 := by
  unfold Open; decide +kernel

/-- States and operands that meet the hypotheses of each clause of the statement. -/
theorem test_meets_LimiturComplete :
    (limRuns (limiting 1) = true ∧ crustState (limiting 1) = 0 ∧ (upto 0 6).all (fun i => loopMode (limiting 1) i != 0) = true)
  ∧ (limRuns (limiting 0) = true ∧ (upto 0 6).all (fun i => loopMode (limiting 0) i == 0) = true ∧ limRuns up = false
  ∧ crustState (wrF (limiting 1) fltBlk .fltCrustCtrl 1 0 2) ≠ 0 ∧ limRuns (wrF (limiting 1) fltBlk .fltCrustCtrl 1 0 2) = true ∧ loopMode (wrF (limiting 1) fltBlk .fltCrustCtrl 1 0 2) 5 ≠ 0)
  ∧ (isOn (on limBlk up) limBlk = true ∧ bit (rd (wrF (on limBlk up) limBlk .limStat 63 63 0) limBlk .limStat) 63 = false)
  ∧ (memGet (memSet up .linkChk 1023 0 1) .linkChk 1023 0 ≠ 0 ∧ loopHigh (memSet (memSet up .linkChk 1023 0 1) .linkChk 1023 0 0) 5 < 10 ^ 9
  ∧ 0 ≤ loopHigh (memSet (memSet up .linkChk 1023 0 1) .linkChk 1023 0 0) 5)
  ∧ (Open (limiting 1) limBlk ∧ fld (rd (limiting 1) limBlk .limLoopCtrl 5) 1 0
      = fld (written (st (limiting 1)) limBlk .limLoopCtrl (2 ^ 63 + rd (limiting 1) limBlk .limLoopCtrl 5 % 2 ^ 63) 5) 1 0
  ∧ isOn (wr (limiting 1) limBlk .limLoopCtrl (written (st (limiting 1)) limBlk .limLoopCtrl
        (2 ^ 63 + rd (limiting 1) limBlk .limLoopCtrl 5 % 2 ^ 63) 5 % 2 ^ 63) 5) limBlk = true) := by
  unfold Open; decide +kernel

/-- States and operands that meet the hypotheses of each clause of the statement. -/
theorem test_meets_CounterAccessComplete :
    (Open (on perfBlk up) perfBlk ∧ isOn (on perfBlk up) perfBlk = true ∧ bit (rd (on perfBlk up) perfBlk .perfSnap) 63 = false)
  ∧ ((selName up (rd (selected up) perfBlk .perfSel)).isSome = true ∧ bit (rd (selected up) perfBlk .perfSel) 62 = false ∧ Open (selected up) perfBlk)
  ∧ (bit (rd up perfBlk .perfDumpCtrl) 63 = false ∧ fld (written (st up) perfBlk .perfDumpCtrl (63 <<< 16 + 63)) 15 0
      ≤ fld (written (st up) perfBlk .perfDumpCtrl (63 <<< 16 + 63)) 31 16)
  ∧ (bit (rd (wr (on perfBlk up) perfBlk .perfSnap (2 ^ 63)) perfBlk .perfSnap) 63 = true ∧ perfRuns (wr (on perfBlk up) perfBlk .perfSnap (2 ^ 63)) = true)
  ∧ (bit (rd (dumping up) perfBlk .perfDumpCtrl) 63 = true ∧ perfRuns (dumping up) = true ∧ (kindOfType (fld (rd (dumping up) perfBlk .perfDumpCtrl) 47 32)).isSome = true
  ∧ kindOfType (fld (rd (wr (on perfBlk up) perfBlk .perfDumpCtrl (2 ^ 63 + 0xFFFF <<< 32)) perfBlk .perfDumpCtrl) 47 32) = none) := by
  unfold Open; decide +kernel

/-- States and operands that meet the hypotheses of each clause of the statement, part 1. -/
theorem test_meets_ThresholdsComplete_1 :
    (Open up perfBlk ∧ bit ((written (st up) perfBlk .perfThrCfg 0).land (rwMask .perfThrCfg)) 63 = false
  ∧ bit ((written (st up) perfBlk .perfThrCfg (2 ^ 63)).land (rwMask .perfThrCfg)) 63 = true ∧ mayWatch up 0 ⟨.mac, 0, 0, 0⟩ = true
  ∧ selName (wr up perfBlk .perfThrSel 63) (thrCtr up 63) = none ∧ fld ((written (st up) perfBlk .perfThrCfg (2 ^ 63)).land (rwMask .perfThrCfg)) 59 48 = 0)
  ∧ (findFirst (fun x => x.1 == 63) (watching up).watch = some (63, 5, 100) ∧ isOn (watching up) perfBlk = true
  ∧ max 1 (fld (thrCfg (watching up) 63) 31 0) ≤ 100 ∧ thrOwned (watching up) 63 (fld (thrCfg (watching up) 63) 59 48) = true
  ∧ memGet (watching up) .perfThrCfg 1 63 = 0 ∧ memGet (watching up) .perfThrCfg 2 63 = 0)
  ∧ (findFirst (fun x => x.1 == 63) { on perfBlk up with watch := [(63, 5, 1)] }.watch = some (63, 5, 1)
  ∧ thrOwned { on perfBlk up with watch := [(63, 5, 1)] } 63 (fld (thrCfg up 63) 59 48) = false
  ∧ memGet (memSet (watching up) .perfThrCfg 2 63 1) .perfThrCfg 2 63 ≠ 0 ∧ TimeState.reset.tick + 1 < 1 + 1800 * max 1 (fld (thrCfg up 63) 45 32))
  ∧ (memGet (memSet (watching up) .perfThrCfg 1 63 8) .perfThrCfg 1 63 = 7 + 1 ∧ isOn (memSet (watching up) .perfThrCfg 1 63 8) perfBlk = true)
  ∧ ((fun d : Dev => memGet d .perfThrCfg 1 63 = 7 + 1 ∧ isOn d perfBlk = true ∧ (selName d (thrCtr d 63)).any (fun x => !frameless x) = true
      ∧ frameOf d 1 = some frame0 ∧ (63 : Nat) < 64 ∧ fld (thrCfg d 63) 59 48 = 0)
      (withFrames [frame0] (memSet (watching up) .perfThrCfg 1 63 8))) := by
  unfold Open; decide +kernel

/-- States and operands that meet the hypotheses of each clause of the statement, part 2. -/
theorem test_meets_ThresholdsComplete_2 :
    (nextOp (ringAt 0 15 [ctrDesc false] (on ⟨.hbm, 0⟩ up)) 0 15 0x30 = some (ctrDesc false)
  ∧ ctrReadCheck (ringAt 0 15 [ctrDesc false] (on ⟨.hbm, 0⟩ up)) 0 (ctrDesc false) = 0)
  ∧ (findFirst (fun c => opOf c.words == 0x30 && c.started && c.done.isNone) (ring counting .command 0 15).descs = some (ctrDesc true)
  ∧ crClusters (ctrDesc true) = [0] ∧ crCount (ctrDesc true) = 1 ∧ isOn counting (stackFor counting 0) = true ∧ bit (dw (ctrDesc true) 1) 7 = false
  ∧ (readPair TimeState.reset counting 0 0 (crBase (ctrDesc true)) (bit (dw (ctrDesc true) 1) 5) (bit (dw (ctrDesc true) 1) 6)).2.1 = false)
  ∧ (ctrReadCheck (ringAt 0 15 [ctrDesc false] up) 0 (ctrDesc false) = 5 ∧ nextOp (ringAt 0 15 [ctrDesc false] up) 0 15 0x30 = some (ctrDesc false))
  ∧ ((crClusters (ctrDesc true)).any (fun k => !isOn (ringAt 0 15 [ctrDesc true] up) (stackFor (ringAt 0 15 [ctrDesc true] up) k)) = true
  ∧ (crClusters (ctrDesc true)).any (fun k => !isOn counting (stackFor counting k)) = false) := by decide +kernel

/-- States and operands that meet the hypotheses of each clause of the statement. -/
theorem test_meets_StartUpCompletes :
    (inStep (stepAt 2) 1 = false ∧ inStep (stepAt 2) 2 = true ∧ memGet (stepAt 2) .boot 0 2 ≠ 1)
  ∧ (inStep (stepAt 3) 3 = true ∧ inStep (stepAt 4) 4 = true ∧ inStep (stepAt 5) 5 = true ∧ inStep (stepAt 6) 6 = true ∧ inStep (stepAt 7) 7 = true)
  ∧ (payloadProgs payload1 = some [prog1] ∧ loadCheck [prog1] (usedRanges (stepAt 6)) = none ∧ loadCheck [{ prog1 with prog := 0 }] (usedRanges (stepAt 6)) ≠ none)
  ∧ (recovering (stepAt 1) = false ∧ 1 ≤ bootStep (stepAt 1) ∧ bootStep (stepAt 7) ≤ 7)
  ∧ (bootStep (on pciBlk up) = 8 ∧ isOn (on pciBlk up) pciBlk = true ∧ bit (rd (on pciBlk up) pciBlk .pciStat) 63 = false ∧ memGet (on pciBlk up) .boot 0 10 = 0
  ∧ recovering recover = true ∧ memGet (memSet up .boot 0 1 2) .boot 0 1 = 2) := by decide +kernel

/-- States and operands that meet the hypotheses of each clause of the statement. -/
theorem test_meets_ResetsComplete :
    (up.tw.acked = false ∧ Open (on bootBlk up) bootBlk ∧ isOn (on bootBlk up) bootBlk = true ∧ fld (0x53595352 : Nat) 31 0 = 0x53595352)
  ∧ (bit (rd (wr up pciBlk .pciStat (2 ^ 63)) pciBlk .pciStat) 63 = true ∧ bit (rd up pciBlk .pciStat) 63 = false)
  ∧ (Open recover bootBlk ∧ isOn recover bootBlk = true ∧ recovering recover = true ∧ bit (rd recover bootBlk .bootRecCtrl) 63 = false
  ∧ bit (written (st recover) bootBlk .bootRecCtrl (2 ^ 63)) 63 = true)
  ∧ (recovering (wr recover bootBlk .bootRecCtrl (2 ^ 63)) = true ∧ bit (rd (wr recover bootBlk .bootRecCtrl (2 ^ 63)) bootBlk .bootRecCtrl) 63 = true) := by
  unfold Open; decide +kernel

/-- States and operands that meet the hypotheses of each clause of the statement. -/
theorem test_meets_AccessesComplete :
    (Spot ⟨.voq, 63⟩ (regSub .voqCfg) .voqCfg 0 ∧ Open up ⟨.voq, 63⟩ ∧ reservedNow up ⟨.voq, 63⟩ .voqCfg = false
  ∧ innerLane up ⟨.voq, 63⟩ = false ∧ writeActs .voqCfg = false
  ∧ Half.whole.mask.land (accMask .voqCfg (codeWrites (locked up ⟨.voq, 63⟩ (regSub .voqCfg)))) ≠ 0)
  ∧ (wideOnly .voqCfg = false ∧ spansHalves (locked up ⟨.voq, 63⟩ 0) .voqCfg = false
  ∧ Half.low.mask.land (accMask .voqCfg (codeWrites (locked up ⟨.voq, 63⟩ 0))) ≠ 0
  ∧ Half.high.mask.land (accMask .voqCfg (codeWrites (locked up ⟨.voq, 63⟩ 0))) ≠ 0)
  ∧ (readActs .voqCfg = false ∧ readDenied up ⟨.voq, 63⟩ .voqCfg = false)
  ∧ latched (setLatch up 5 (7 + 1)) 5 = 7 + 1 := by
  unfold Open Spot; decide +kernel

/-- The same of the statements about every next state: a step and commands that leave one. -/
theorem test_meets_OnlyTheseCommandsChangeTime :
    exec .aonWdogKick (st up) = .next (settled (st up) (memSet up .aonKick 0 0 0)) ∧ Instr.aonWdogKick ≠ .timeAdjustApply
    ∧ ∀ a b r n, Instr.aonWdogKick ≠ .powerOnReset a b r n := by
  refine ⟨rfl, by decide, ?_⟩
  intro _ _ _ _ h
  cases h
theorem test_meets_EveryStepLeavesNothingOwed :
    owes State.reset = false ∧ legalTime State.reset.tim.now ∧ ∃ t, step State.reset = .next t :=
  ⟨by decide +kernel, by unfold legalTime; decide, _, rfl⟩

/-- Every command with an operand out of its range is ill-formed, one for each check. -/
theorem test_wf_refuses :
    [Instr.rxFrameStart 1024 [], .pfcFrame 1024 1 0 [], .pfcFrame 0 0x10000 0 [], .pfcFrame 0 1 0 [0x10000], .pauseExpiry 1024 0, .pfcStorm 0 8,
      .poolGrant 1 8, .creditReturn 64 0, .d2dCellArrival 0 64, .d2dRetry 56, .spillReadBack 1048576, .hostCopyDelivery 4096 0,
      .hostCopyDelivery 0 8, .stuck ⟨.mac, 1024⟩, .ctrlLock ⟨.flt, 0⟩ 8, .goldenRebuild 0x2000, .dozeEntry 64, .programFreed 4096,
      .tcamShadowCheck 64, .faultEvent ⟨24, 0, 0, 0, 0, 0, false⟩, .faultEvent ⟨0, 5, 0, 0, 0, 0, false⟩, .faultEvent ⟨0, 0, 0, 0, 64, 0, false⟩,
      .windowExpiry 24, .epochReport 72 0, .drained 0 8, .sliceAdopt 72, .settleComplete 64].all (fun c => !c.wf) = true := by decide
theorem test_wf_refuses_more :
    [Instr.nop 4096 0, .nop 0 16, .descriptorFetch 0 0 [], .descriptorFetch 4096 0 (List.replicate 8 0), .doorbell 0 0 (2 ^ 32),
      .ringEnable .event 0 4 0, .ringEnable .command 0 0 32, .irqTimer 0 16 .spore, .eventHeadWrite .event 0 0 (2 ^ 32), .quiesced 4096,
      .restoreDone 0 16, .numberGrant (2 ^ 32), .replicatedCommit 0 4096 [] false, .hello ⟨0, 0, 0, 0, 0⟩ 5, .cslRetrainDone 1, .loopRestore 6,
      .thresholdFiring 64, .prbsCheckerLock (.sds 1024), .prbsCheckerLock (.csl 8), .prbsCheckerLock (.pci 4), .prbsCheckerLock (.d2d 56),
      .powerOnReset false false false 4, .bootImageReadDone 3 true, .hbmTrainingDone [] 256, .hbmTrainingDone [(7, 63, 37)] 0, .supplyExcursion 17 true, .refclkLoss (.sd 8),
      .registerWrite 6 ⟨8, 0xFF⟩ 0 0,
      .registerWrite 0 ⟨0, 0xFF⟩ 0 0, .registerReadLatch 0 ⟨0, 0xFF⟩ 0].all (fun c => !c.wf) = true := by decide
/-- Commands at the ends of their ranges are well-formed. -/
theorem test_wf_accepts :
    [Instr.rxFrameStart 1023 [], .creditReturn 63 63, .hostCopyDelivery 4095 7, .stuck ⟨.mac, 1023⟩, .ctrlLock ⟨.flt, 0⟩ 7, .nop 4095 15,
      .faultEvent ⟨23, 4, 0, 0, 63, 0, false⟩, .ringEnable .event 4095 3 31, .registerWrite 5 ⟨9, 0xFF⟩ 0 0, .refclkLoss (.sd 7), .systemReset].all
      Instr.wf = true := by decide

/-- Finding and identifying lane 693 (spec/02, worked example). -/
theorem test_lane_693 : portSlice 693 = 43 ∧ regOff ⟨.sds, 693⟩ 0 .pageId 0 = 0x26C6000
    ∧ regView TimeState.reset up ⟨.sds, 693⟩ 0 .pageId 0 = 0x00B0000302B50201 ∧ regOff ⟨.voq, 43⟩ 0 .voqCfg 0 = 0x26E2080
    ∧ spansHalves false .voqCfg = false := by decide +kernel
theorem test_unaligned_read : rdAt (barRead TimeState.reset up 0 2 0x26E2082 3) ⟨.voq, 43⟩ 0 .violationCount 0
    = 1 <<< 60 + 0x26E2082 <<< 32 + 1 := by decide +kernel
/-- The scheduler's pages of slice 43 (spec/02), FDH_SAFE of port 688 (spec/06) and HBM_REGION of C2 (spec/10). -/
theorem test_page_offsets : regOff ⟨.sch, 43⟩ 0 .ctrl 0 = 0x26E5010 ∧ regOff ⟨.sch, 43⟩ 0 .state 0 = 0x26E5018
    ∧ regOff (fdhBlk 5) (regSub .fdhSafe) .fdhSafe 6 = 0x2460130 ∧ regOff ⟨.hbm, 2⟩ 0 .hbmRegion 0 = 0x1810080
    ∧ regOff ⟨.sds, 693⟩ 0 .sdsPrbsChk 0 = 0x26C6108 ∧ regOff ⟨.sch, 37⟩ (regSub .schGateCtrl) .schGateCtrl 0 = 0x23670A8 := by decide +kernel
/-- The first command ring's registers (spec/17, worked example). -/
theorem test_ring_offsets : ringOff .command 0 0 .irq = 0x1028 ∧ ringOff .command 0 0 .cfg = 0x1010 ∧ ringOff .event 0 0 .irq = 0x2020
    ∧ ringOff .event 0 0 .cfg = 0x2008 := by decide +kernel
/-- A larger table region (spec/10, worked example). -/
theorem test_table_region : stackBlocks (wr up ⟨.hbm, 2⟩ .hbmRegion 6) ⟨.hbm, 2⟩ = 3932160
    ∧ hbmNt (wr up ⟨.hbm, 2⟩ .hbmRegion 6) ⟨.hbm, 2⟩ = 19 := by decide +kernel
/-- PERF_SEL of TX_BYTES of port 688 (spec/16, worked example). -/
theorem test_perf_sel : selName up 0x400A020202B00000 = some ⟨.mac, 688, 10, 0⟩ := by decide +kernel

/-- A group of weights 10, 20, 10 and 24, and then 12 for the last (spec/04, worked example). -/
theorem test_group : selectMember [10, 20, 10, 24] 0x9C3E51A7 = 3 ∧ selectMember [10, 20, 10, 12] 0x9C3E51A7 = 3 := by decide +kernel
/-- Four TCAM entries that all match (spec/04, worked example). -/
def ent (place prio : Nat) : Entry := ⟨4, 0, 1, 0, List.replicate 20 0 ++ [prio], [0], place, none, none⟩
def fourEntries : Dev := { on ⟨.tcm, 0⟩ up with entries := [ent 70 120, ent 130 200, ent 131 120, ent 205 210] }
def found (s : Option Nat) : Option Nat × Bool :=
  let r := searchTcam fourEntries 0 0 1 0 (1 <<< 45) [] s
  (r.hit.map (·.place), r.multi)
theorem test_tcam : found none = (some 70, true) ∧ found (some 71) = (some 130, true) ∧ found (some 131) = (some 131, true)
    ∧ found (some 132) = (some 205, false) ∧ found (some 206) = (none, false) := by decide +kernel
/-- Finish times across the wrap (spec/09, worked example). -/
theorem test_finish_times : invW 64 = 1024 ∧ invW 255 = 257 ∧ units 1500 = 24 ∧ before 0xFFFFFF01 0x00005E00 = true
    ∧ before 0x5E00 0x5E60 = true ∧ before 0x00005E00 0xFFFFFF01 = false := by decide
/-- Three charges of a meter (spec/09, worked example): green, yellow, and red after 800 ns. -/
def meter3 (n : Nat) : Nat × Meter :=
  let x : Meter := ⟨0, 20000 <<< 32 + 10000, 3000 <<< 32 + 2000, 1200 * 144000, 2500 * 144000, 0⟩
  let a := meterCharge x 1000 1 0
  let b := meterCharge a.2 1000 1 0
  if n = 1 then a else if n = 2 then b else meterCharge b.2 1000 1 1440
theorem test_charges : (meter3 1).1 = 1 ∧ (meter3 1).2.tc = 200 * 144000 ∧ (meter3 1).2.tp = 1500 * 144000 ∧ (meter3 2).1 = 2
    ∧ (meter3 2).2.tp = 500 * 144000 ∧ (meter3 3).1 = 3 ∧ (meter3 3).2.tc = 300 * 144000 ∧ (meter3 3).2.tp = 700 * 144000 := by decide +kernel

/-- The edge of a window (spec/09, worked example), with 0.5 ns a tick and the intervals scaled to 1,800 and 7,200 ns, so that
the ticks are the example's. -/
def edgeDev : Dev :=
  let d := memSetD (memSetD up .gcl 592 256 (0xFF <<< 32) (0x80 <<< 32 + 1800)) .gcl 592 257 (0xFF <<< 32) (0x7F <<< 32 + 7200)
  setGate (setGateList (wrF d ⟨.mac, 592⟩ .macCfg 59 56 4) 592 1 ⟨2, 9000, 100, 0⟩) 592 ⟨1, true, none⟩
def edge (g len : Nat) : GateTest := gateTest ⟨g, ⟨100, g / 2, g % 2 * 2 ^ 31⟩, 2 ^ 31, [(0, dtNum ⟨100, 0, 0⟩, 2 ^ 31)]⟩ edgeDev 592 7 len none
theorem test_window_edge : edge 3479 1000 = .grant (some 3600) ∧ (edge 3480 1000 matches .wait _) = true ∧ (edge 3497 64 matches .shut) = true
    ∧ (edge 17897 1000 matches .grant _) = true ∧ (edge 17896 1000 matches .shut) = true := by decide +kernel

/-- The VXLAN frame of the worked examples (spec/03, spec/07): its first 108 bytes, then zeros. -/
def vxlan : List Byte :=
  List.replicate 12 0 ++ [0x81, 0x00, 0x60, 0x64, 0x08, 0x00]
  ++ [0x45, 0, 0x04, 0x56, 0, 0, 0, 0, 64, 17, 0, 0, 10, 0, 0, 1, 0xC0, 0x00, 0x02, 0x0A]
  ++ [0xC0, 0x00, 0x12, 0xB5, 0x04, 0x42, 0, 0] ++ [8, 0, 0, 0, 0x01, 0x2A, 0x7C, 0] ++ List.replicate 12 0 ++ [0x08, 0x00]
  ++ [0x45, 0, 0x04, 0x24, 0, 0, 0, 0, 0x40, 0x06, 0x5A, 0x3C, 0x0A, 0x01, 0xEA, 0x5B, 0x0A, 0x14, 0x1E, 0x28]
  ++ [0, 80, 0, 80, 0, 0, 0, 0, 0, 0, 0, 0, 0x50, 0, 0, 0, 0, 0, 0, 0] ++ List.replicate 1020 0
def vxDev : Dev := memSet (etype0 43 (wrF up ⟨.mac, 688⟩ .macCfg 59 56 8)) .partPort 0 688 42
def vxFrame : Frame := Frame.start 1 688 (vxlan ++ [0, 0, 0, 0]) ⟨0, 0, 0⟩
def vxSect : List Nat := (parseFrame vxDev vxFrame).1
theorem test_vxlan_parse : vxFrame.len = 1132 ∧ metaF vxSect 2 56 32 = 0x00944423 ∧ mPart vxSect = 42 ∧ mLen vxSect = 1132 ∧ mLenSrc vxSect = 1
    ∧ mTc vxSect = 3 := by decide +kernel
def vxParsed : Parse := paParse (paCtx vxDev 688 vxFrame.bytes)
theorem test_vxlan_offsets : vxParsed.pend = 0 ∧ (vxParsed.ol3, vxParsed.ol4, vxParsed.tun, vxParsed.il2, vxParsed.il3, vxParsed.il4, vxParsed.oend)
    = (18, 38, 46, 54, 68, 88, 108) ∧ vxParsed.tunId = 0x12A7C ∧ vxParsed.l4d = 4789 := by decide +kernel
theorem test_vxlan_keys : kbKey vxSect vxFrame.bytes [0x88402000FFFF0000, 0x98101840FFFF0000] = [0xC0, 0, 2, 0x0A, 1, 0x2A, 0x7C] ++ List.replicate 73 0
    ∧ kbKey vxSect vxFrame.bytes [0xA8402000FFFF0000] = [0x0A, 0x14, 0x1E, 0x28] ++ List.replicate 76 0 := by decide +kernel

/-- VXLAN decapsulation and route (spec/07, worked example): program 0x041 with its parameter bytes. -/
def vxProg : List Nat :=
  [0x3600450000000000 <<< 192 + 0x000000A000000000 <<< 64,
   2 <<< 252 + 5 <<< 124 + 18 <<< 108 + 1 <<< 105 + 1 <<< 92,
   4 <<< 252 + 2 <<< 249 + 4 <<< 236 + 43 <<< 230 + 5 <<< 124 + 8 <<< 115 + 1 <<< 108 + 1 <<< 87 + 0xFF,
   5 <<< 252 + 5 <<< 249 + 5 <<< 124, 6 <<< 249]
def vxStore : Dev :=
  (vxProg.zip (upto 0x400 5)).foldl (fun d x => memSet d .edtStore 0 x.2 x.1) (memSet vxDev .edtProg 0 0x41 (1 <<< 62 + 5 <<< 32 + 0x400))
def vxParams : List Byte := [0, 2, 0x1A, 0x2B, 0x3C, 0x4D, 0x5E, 2, 0, 0, 0, 0x0A, 1, 0x81, 0, 0x60, 0xC8, 8, 0]
def vxEdited : Edited :=
  editFrame vxStore 43 0x41 ⟨vxSect, List.replicate 72 0 ++ vxParams ++ List.replicate 53 0, 0x00944423, 744, none⟩ vxlan 384
theorem test_vxlan_program : badMicro vxProg = none ∧ vxEdited.how = .done ∧ vxEdited.skipped = false ∧ vxEdited.bytes.length + 4 = 1082
    ∧ vxEdited.bytes.take 18 = vxParams.drop 1 ∧ (vxEdited.bytes.drop 26).take 4 = [0x3F, 0x06, 0x5B, 0x3C] := by decide +kernel

/-- The device after one step with a command in front. -/
def after (c : Instr) (d : Dev) : Dev :=
  match step { st d with pending := [c] } with
  | .next t => t.dev
  | _ => d
/-- A write of SRC_CAP by its upper half leaves WINDOW (spec/02, worked example), and a 64-bit read answers both. -/
theorem test_write_half : rd (after (.registerWrite 0 ⟨4, 0x0F⟩ 0x26E2084 0x123) up) ⟨.voq, 43⟩ .voqCfg = 0x123 <<< 32 + 0x100 <<< 16
    ∧ (after (.registerReadLatch 0 ⟨8, 0xFF⟩ 0x26E2080) up).out = [.readData (BitVec.ofNat 64 (0x100 <<< 32 + 0x100 <<< 16))] := by decide +kernel
/-- A doorbell moves TAIL up to the ring's length ahead of what is done, and a NOP completes with status 0 (R368, Table 17.3). -/
theorem test_doorbell : (ring (after (.doorbell 0 15 16) (ringAt 0 15 [] up)) .command 0 15).tail = 16
    ∧ (ring (after (.doorbell 0 15 17) (ringAt 0 15 [] up)) .command 0 15).tail = 1
    ∧ (ring (after (.nop 0 15) (ringAt 0 15 [desc 0 0 false] up)) .command 0 15).done = 1 := by decide +kernel
/-- An unmasked error bit is recorded; an injected fault of level 1 sets its class's status (R39, R271). -/
theorem test_inject : bit (rd (after (.fltInj (BitVec.ofNat 64 (1 <<< 8 + 20))) up) fltBlk .fltStatus) 20 = true
    ∧ pendLevel (after (.fltInj (BitVec.ofNat 64 (1 <<< 8 + 20))) up) 20 = 1 := by decide +kernel
/-- Device time after one idle tick of step: 5/9 ns rounded down (R217). -/
theorem test_idle_tick : (idle (st up)).tim.now = ⟨0, 0, 0x8E38E38E⟩ ∧ (idle (st up)).tim.tick = 1
    ∧ (idle { st up with tim := ⟨5, ⟨0, 999999999, 0x80000000⟩, 0x8E38E38E, []⟩ }).tim.now = ⟨1, 0, 0x0E38E38E⟩ := by decide +kernel
/-- A profile stays in use for 64 clocks after PRS_CFG no longer names it, and may then be written (R75). -/
theorem test_profile_grace :
    let d := profilesLeft up (wrF up ⟨.prs, 0⟩ .prsCfg 21 16 7) 0
    profileInUse up 0 0 = true ∧ profileInUse d 0 0 = true ∧ profileInUse d 0 7 = true ∧ profileInUse d 0 1 = false
    ∧ profileInUse ((upto 0 63).foldl (fun d _ => profilesAged d) d) 0 0 = true
    ∧ profileInUse ((upto 0 64).foldl (fun d _ => profilesAged d) d) 0 0 = false := by decide +kernel
/-- A CREATE without a PASID is accepted and ends with NO_PASID; the partition stays FREE (R286, R290). -/
theorem test_create_without_pasid : rd (after (.create 5) up) partBlk .partCmdRes = 3 <<< 62 + 5 <<< 56 + 1 <<< 16 + 5
    ∧ (part (after (.create 5) up) 5).st = 0 := by decide +kernel

end Sys2Proof.Tests
end

section
/-! Proofs of the statements of spec/00: how lanes, slices and clusters are numbered (R8). -/
namespace Sys2Proof.Machine

/-- There are 64 slices of 16 lanes (R8). -/
theorem portSlice_lt {n : Nat} (h : n < 1024) : portSlice n < 64 :=
  Nat.div_lt_of_lt_mul h

/-- The lane at its position within its slice (R8). -/
theorem portSlice_position (n : Nat) : n = 16 * portSlice n + n % 16 :=
  (Nat.div_add_mod n 16).symm

/-- A lane's cluster is that of its slice (R8). -/
theorem portCluster_eq_portSlice_div (n : Nat) : portCluster n = portSlice n / 8 :=
  (Nat.div_div_eq_div_mul n 16 8).symm

/-- The slices' part of a cluster's region begins 0x200000 bytes into it, 0x40000 bytes for each (R31). -/
theorem regionBase_slice (s : Nat) :
    regionBase .slice s = regionBase .cluster (s / 8) + 0x200000 + s % 8 * 0x40000 := rfl

/-- Settles O3: each part is the arithmetic of R8 and of Table 2.1. -/
theorem unitsAreNumbered : Obligations.UnitsAreNumbered := by
  unfold Obligations.UnitsAreNumbered
  refine ⟨fun n hn => ⟨rfl, portSlice_lt hn, portSlice_position n⟩, fun s hs => ?_⟩
  have lanes (n : Nat) (h : portSlice n = s) : portCluster n = s / 8 :=
    h ▸ portCluster_eq_portSlice_div n
  exact ⟨Nat.div_lt_of_lt_mul hs, regionBase_slice s, fun n _ => lanes n⟩

end Sys2Proof.Machine
end

section
/-! Proofs of the statements of spec/01: how frames enter the pipeline (R17, R48, R67, R129, R150, R295, R296). -/
namespace Sys2Proof.Machine

/-- An ACTIVE slice has nothing to wake from (R326). -/
theorem wakeSlice_active {d : Dev} {n : Nat} (h : slcState d n = 0) (cause : Nat) : wakeSlice d n cause = d := by
  simp [wakeSlice, h]

/-- A frame whose first bit reaches a port that takes frames, while its slice is ACTIVE, joins the elastic buffer (R17). -/
theorem rxStart_active {t : TimeState} {d : Dev} {port : Nat} {data : List Byte} (hh : halted d = false)
    (hw : portWidth d port ≠ 0) (hm : isOn d ⟨.mac, port⟩ = true) (hl : linkUp d port = true) (hd : data ≠ [])
    (ha : slcState d (portSlice port) = 0) :
    rxStart t d port data = setFp d { d.fp with
      next := d.fp.next + 1
      frames := d.fp.frames ++ [Frame.start (d.fp.next + 1) port data
        (numDt (addPs (dtNum t.now) (rdF d ⟨.mac, port⟩ .macTsAdj 15 0)))] } := by
  have takes : ¬ (halted d || portWidth d port = 0 || !isOn d ⟨.mac, port⟩ || !linkUp d port || data = []) := by
    simp [hh, hw, hm, hl, hd]
  have fits : ¬ (slcState d (portSlice port) ≠ 0 && 16384 < elastic d (portSlice port) + data.length) := by simp [ha]
  rw [rxStart, if_neg takes]
  dsimp only
  rw [wakeSlice_active ha]
  exact if_neg fits

section
variable {t : TimeState} {d : Dev} {f : Frame}

/-- The header window of a frame is released while its parser is ON: PA parses the frame (R48). -/
theorem releaseFrame_parse {fid : Nat} (hf : frameOf d fid = some f) (hw : windowShut d f = false)
    (hp : isOn d ⟨.prs, portSlice f.port⟩ = true) :
    releaseFrame t d fid = parsedFrame t (mapFrame (parseFrame d f).2 f.fid (fun _ => { f with sect := (parseFrame d f).1 }))
      { f with sect := (parseFrame d f).1 } := by
  simp only [releaseFrame, hf, hw, hp, Bool.not_true, Bool.false_eq_true, if_false]

/-- The same while its parser is not ON: the frame is discarded and counted (R74). -/
theorem releaseFrame_kill {fid : Nat} (hf : frameOf d fid = some f) (hw : windowShut d f = false)
    (hp : isOn d ⟨.prs, portSlice f.port⟩ = false) :
    releaseFrame t d fid = killFrame t (countPrs d f 5 true) f.fid := by
  simp only [releaseFrame, hf, hw, hp, Bool.not_false, Bool.false_eq_true, if_false, if_true]

/-- A partition that quiesces discards its parsed frames (R295). -/
theorem parsedFrame_quiesce (hc : crustState d = 0) (hs : (part d (mPart f.sect)).st = 2 ∨ (part d (mPart f.sect)).st = 3) :
    parsedFrame t d f = killFrame t (countSlc d f evPartQuiesce) f.fid := by
  simp [parsedFrame, hc, hs]

/-- A partition that resets discards its parsed frames (R296). -/
theorem parsedFrame_reset (hc : crustState d = 0) (hs : (part d (mPart f.sect)).st = 4 ∨ (part d (mPart f.sect)).st = 5) :
    parsedFrame t d f = killFrame t (countSlc d f evPartResetDrop) f.fid := by
  have live : ¬ ((part d (mPart f.sect)).st = 2 ∨ (part d (mPart f.sect)).st = 3) := by omega
  simp [parsedFrame, hc, hs, live]

/-- In any other state of its partition, KB makes the keys of a parsed frame (R67). -/
theorem parsedFrame_keys (hc : crustState d = 0) (hs : (part d (mPart f.sect)).st < 2 ∨ 5 < (part d (mPart f.sect)).st) :
    parsedFrame t d f
      = keyedFrame t d f (keyBuild d (portSlice f.port) (unitVersion d (portSlice f.port) % 8) f.sect f.bytes) := by
  have live : ¬ ((part d (mPart f.sect)).st = 2 ∨ (part d (mPart f.sect)).st = 3) := by omega
  have stays : ¬ ((part d (mPart f.sect)).st = 4 ∨ (part d (mPart f.sect)).st = 5) := by omega
  simp [parsedFrame, hc, live, stays]

end

/-- The device once KB has read the words of the frame's profile, a word that cannot be read counted (R75, R253). -/
def kbRead (t : TimeState) (d : Dev) (f : Frame) (k : Keys) : Dev :=
  countPrs (readWords t d ⟨.prs, portSlice f.port⟩ 0 (kbWords (mProfile f.sect))).2 f 6 (k.ue && !mDrop f.sect)

/-- The frame with its keys: behind KB, in the reorder buffer in the modes that have one (R129, R150). -/
def withKeys (t : TimeState) (d : Dev) (f : Frame) (k : Keys) : Frame :=
  let x := part d (mPart f.sect)
  { f with sect := k.sect, stage := 1, kb := t.tick, rob := x.mode || x.trans || portBuffered (kbRead t d f k) f.port,
           reorder := x.mode || x.trans, adTc := mTc f.sect }

/-- The device that holds the frame with its keys. -/
def keyedDev (t : TimeState) (d : Dev) (f : Frame) (k : Keys) : Dev :=
  mapFrame (kbRead t d f k) f.fid (fun _ => withKeys t d f k)

/-- The reorder buffer has no room for the frame that has joined it: the slice's share or the port's is passed (R150). -/
def robFull (d : Dev) (g : Frame) : Bool :=
  g.rob && (512 < robHeld d (portSlice g.port) none || portCap d (portCluster g.port) < robHeld d (portSlice g.port) (some g.port))

/-- Where a frame goes with its keys: out of a full reorder buffer, to VE alone when PA drops it, else to the match chain. -/
theorem keyedFrame_eq (t : TimeState) (d : Dev) (f : Frame) (k : Keys) :
    keyedFrame t d f k =
      if robFull (keyedDev t d f k) (withKeys t d f k) then
        killFrame t (mapFrame (countFdh (keyedDev t d f k) 10 (portCluster f.port) (mPart k.sect) 1) f.fid
          (fun f => { f with rob := false })) f.fid
      else if mDrop k.sect then mapFrame (keyedDev t d f k) f.fid (fun f => { f with ready := true })
      else matchFrame t (if (part d (mPart f.sect)).mode && !(part d (mPart f.sect)).trans then keyedDev t d f k
        else predict t (keyedDev t d f k) (withKeys t d f k)) (withKeys t d f k) k.keys := rfl

/-- Settles O19: the branches of RX_FRAME_START, of HEADER_WINDOW_RELEASE and of what follows PA and KB. -/
theorem framesEnterThePipeline : Obligations.FramesEnterThePipeline := by
  unfold Obligations.FramesEnterThePipeline
  refine ⟨?start, ?release, ?parsed, ?keyed⟩
  case start =>
    intro s port data ⟨hreset, hacked⟩ hport hh hw hm hl hd ha
    exact (congrArg (act s (isPort port)) (rxStart_active hh hw hm hl hd ha)).trans
      (act_done (decide_eq_true hport) hreset hacked)
  case release =>
    exact fun s fid f hf hw => ⟨fun hp => ends_ok (releaseFrame_parse hf hw hp), fun hp => ends_ok (releaseFrame_kill hf hw hp)⟩
  case parsed =>
    exact fun t d f hc => ⟨parsedFrame_quiesce hc, parsedFrame_reset hc, parsedFrame_keys hc⟩
  case keyed =>
    intro t d f k
    refine ⟨fun full => ?_, fun room drop => ?_, fun room keep => ?_⟩
    · exact (keyedFrame_eq t d f k).trans (if_pos full)
    · exact (keyedFrame_eq t d f k).trans ((if_neg (ne_true_of_eq_false room)).trans (if_pos drop))
    · exact (keyedFrame_eq t d f k).trans ((if_neg (ne_true_of_eq_false room)).trans (if_neg (ne_true_of_eq_false keep)))

end Sys2Proof.Machine
end

section
/-! Proofs of the statements of spec/01: cells, credits and requests that cross between slices (R21 to R23, R182 to R184,
R188). -/
namespace Sys2Proof.Machine

/-- A pair of slices passes the check of a command that names both. -/
theorem isSlice_pair {src dst : Nat} (hs : src < 64) (hd : dst < 64) : (isSlice src && isSlice dst) = true := by
  simp [isSlice, hs, hd]

/-- A credit that is on its way leaves those on their way and lets waiting cells cross (R21). -/
theorem creditReturn_back {d : Dev} {src dst : Nat} (h : SMap.get 0 d.fp.backs (src * 64 + dst) ≠ 0) :
    creditReturn d src dst = pumpVoq (setFp d { d.fp with
      backs := SMap.set 0 d.fp.backs (src * 64 + dst) (SMap.get 0 d.fp.backs (src * 64 + dst) - 1) }) src dst :=
  if_neg h

/-- The pool's answer to a transfer sets out: 1 is yes, and takes a grant of the clock; 2 is no (R181, R182). -/
def answered (t : TimeState) (d : Dev) (c : Nat) (x : Xfer) (n : Nat) : Dev :=
  mapXfer (poolAsk t d c (poolPort c x.src) (n == 1)) x.id (fun x => { x with phase := n })

/-- The records that the judgement of a copy reads; a copy of Crust mode needs none (R182, R279). -/
def judgeReads (t : TimeState) (d : Dev) (y : Copy) : Dev := if y.kind = 5 then d else askRecs t d y.queue y.part

/-- What a refusal of a copy leaves, once it is counted: whether the replications that wait for the transfer have a chain,
and the device (R182, R190). -/
def farRefused (d : Dev) (f : Frame) (x : Xfer) (y : Copy) (c : Nat) (r : Refuse) : Bool × Dev :=
  chainForRepls (countFar d f x y r) f x c

/-- The device once a copy that asks has spilled: it takes no cell of the pool (R183, R195). -/
def farSpilled (d : Dev) (y : Copy) : Dev :=
  let d := setFp d { d.fp with copies := d.fp.copies.filter (fun z => z.cid != y.cid) }
  mapCopy (spillCopy d y) y.cid (fun z => { z with st := 0 })

/-- The device once a copy that asks has a chain with `refs` references, which it shares with the replications of its
transfer (R188). -/
def farChained (d : Dev) (fid c : Nat) (x : Xfer) (y : Copy) (refs : Nat) : Dev :=
  let k := newChain d c fid x.n refs x.id
  let d := occWrite (mapCopy k.2 y.cid (fun z => { z with chain := k.1 })) y
  setFp d { d.fp with repls := mapIf (fun r => r.xfer == some x.id) (fun r => { r with chain := k.1 }) d.fp.repls }

/-- The references of the chain that a copy shares with the replications of its transfer: its own and theirs. -/
def sharedRefs (d : Dev) (x : Xfer) : Nat := 1 + (d.fp.repls.filter (fun r => r.xfer == some x.id)).length

section Requests
variable {t : TimeState} {d e : Dev} {fid c : Nat} {x : Xfer} {f : Frame} {y : Copy} {r : Refuse}
  (hx : findFirst (fun x => x.fid == fid && x.dst / 8 == c && x.phase == 0) d.fp.xfers = some x)
  (hf : frameOf d fid = some f)
include hx hf

/-- The request of a transfer that is dead ends with it. -/
theorem poolRequest_dead (hd : x.dead = true) :
    poolRequest t d fid c = setFp d { d.fp with xfers := d.fp.xfers.filter (fun y => y.id != x.id) } := by
  simp only [poolRequest, hx, hf, hd, if_true]

/-- A transfer whose copy is gone asks for its replications alone (R190). -/
theorem poolRequest_repls (hd : x.dead = false) (hy : x.cid.bind (copyOf d) = none) :
    poolRequest t d fid c = answered t (chainForRepls d f x c).2 c x (if (chainForRepls d f x c).1 then 1 else 2) := by
  simp only [poolRequest, hx, hf, hd, hy, Bool.false_eq_true, if_false, answered]

/-- A copy is refused, and no replication goes on: the answer is no (R182). -/
theorem poolRequest_refused (hd : x.dead = false) (hy : x.cid.bind (copyOf d) = some y)
    (hj : judgeFar (judgeReads t d y) f y x.n = some r) (hk : farRefused (judgeReads t d y) f x y c r = (false, e)) :
    poolRequest t d fid c = answered t e c x 2 := by
  simp only [judgeReads, farRefused] at hj hk
  simp only [poolRequest, hx, hf, hd, hy, hj, hk, Bool.false_eq_true, if_false, answered]

/-- A copy is refused, and replications go on with the transfer: the copy is dropped, and the answer is yes (R190). -/
theorem poolRequest_repls_go_on (hd : x.dead = false) (hy : x.cid.bind (copyOf d) = some y)
    (hj : judgeFar (judgeReads t d y) f y x.n = some r) (hk : farRefused (judgeReads t d y) f x y c r = (true, e)) :
    poolRequest t d fid c
      = answered t (guardLeave (dropCopy t (mapXfer e x.id (fun x => { x with cid := none })) y.cid) fid) c x 1 := by
  simp only [judgeReads, farRefused] at hj hk
  simp only [poolRequest, hx, hf, hd, hy, hj, hk, Bool.false_eq_true, if_false, answered]

/-- A copy that is admitted and bound for a spill queue spills; its replications have a chain of their own (R188). -/
theorem poolRequest_spilled (hd : x.dead = false) (hy : x.cid.bind (copyOf d) = some y)
    (hj : judgeFar (judgeReads t d y) f y x.n = none) (hs : (y.kind ≠ 5 && spillBound (judgeReads t d y) y.queue x.n) = true) :
    poolRequest t d fid c = answered t (chainForRepls (farSpilled (judgeReads t d y) y) f x c).2 c x 1 := by
  simp only [judgeReads] at hj hs
  simp only [poolRequest, hx, hf, hd, hy, hj, hs, Bool.false_eq_true, if_false, if_true, answered, farSpilled, judgeReads]

/-- A copy that is admitted to the pool has one chain with its replications (R188). -/
theorem poolRequest_chained (hd : x.dead = false) (hy : x.cid.bind (copyOf d) = some y)
    (hj : judgeFar (judgeReads t d y) f y x.n = none) (hs : (y.kind ≠ 5 && spillBound (judgeReads t d y) y.queue x.n) = false) :
    poolRequest t d fid c = answered t (farChained (judgeReads t d y) fid c x y (sharedRefs d x)) c x 1 := by
  simp only [judgeReads] at hj hs
  simp only [poolRequest, hx, hf, hd, hy, hj, hs, Bool.false_eq_true, if_false, answered, farChained, sharedRefs, judgeReads]

end Requests

/-- The device once a transfer has its pool's yes: its cells may cross, a launch is under way, and a tail that is in is
stored (R134, R182). -/
def grantTaken (t : TimeState) (d : Dev) (fid : Nat) (x : Xfer) (f : Frame) : Dev :=
  let d := mapXfer d x.id (fun x => { x with phase := 3 })
  let d := if x.launch && f.launch = 1 then mapFrame d fid (fun f => { f with launch := 2 }) else d
  if f.tail then storeTail t d fid else d

/-- The device once a transfer has its pool's no: it ends with its copy and the chain that it was copied from, and others
may cross (R182). -/
def grantRefused (t : TimeState) (d : Dev) (x : Xfer) : Dev :=
  let d := match x.cid with
    | some cid => dropCopy t d cid
    | none => d
  let d := match x.old with
    | some k => releaseChain d k
    | none => d
  pumpVoq (setFp d { d.fp with xfers := d.fp.xfers.filter (fun y => y.id != x.id) }) x.src x.dst

section Grants
variable {t : TimeState} {d : Dev} {fid c : Nat} {x : Xfer} {f : Frame}
  (hx : findFirst (fun x => x.fid == fid && x.dst / 8 == c && (x.phase == 1 || x.phase == 2)) d.fp.xfers = some x)
  (hf : frameOf d fid = some f)
include hx hf

/-- A pool's yes lets the cells of the transfer cross (R182). -/
theorem poolGrant_yes (hp : x.phase = 1) :
    poolGrant t d fid c = settleFrame (endXfers (pumpVoq (grantTaken t d fid x f) x.src x.dst)) fid := by
  rw [poolGrant, hx, hf]
  exact if_pos hp

/-- A pool's no ends the transfer; a launch that it refuses, and later ones of its key, are undone (R134, R142). -/
theorem poolGrant_no (hp : x.phase = 2) :
    poolGrant t d fid c =
      if x.launch then
        if f.launch = 1 then
          settleFrame (guardEnter t (mapFrame (refuseLater t (countFdh (grantRefused t d x) 3 (portCluster f.port)
            (mPart f.sect) 1) f) fid (fun f => { f with launch := 0 })) fid) fid
        else settleFrame (grantRefused t d x) fid
      else settleFrame (if x.cid.isSome then guardLeave (grantRefused t d x) fid else grantRefused t d x) fid := by
  have no : ¬ x.phase = 1 := by omega
  rw [poolGrant, hx, hf]
  exact if_neg no

end Grants

/-- The device once the oldest cell in flight from one slice to another has landed: its credit sets out (R21). -/
def cellLanded (d : Dev) (src dst : Nat) : Dev :=
  setFp d { d.fp with
    flight := eraseFirst (fun x => x.1 == src && x.2.1 == dst) d.fp.flight
    backs := SMap.set 0 d.fp.backs (src * 64 + dst) (SMap.get 0 d.fp.backs (src * 64 + dst) + 1) }

/-- The device once a transfer has counted a cell that has landed. -/
def cellCounted (d : Dev) (id : Nat) : Dev := mapXfer d id (fun x => { x with arrived := x.arrived + 1 })

/-- The device once a cell is written to every chain that its transfer fills; the first one puts the copy of the transfer,
where it has one, in its queue (R22, R188). -/
def cellStored (t : TimeState) (d : Dev) (id : Nat) (x : Xfer) : Dev :=
  let d := (d.fp.chains.filter (fun k => k.xfer == id)).foldl (fun d k => fillChain d k.id 1) d
  match x.cid with
  | some cid => if x.arrived = 0 then arriveCopy t d cid else d
  | none => d

section Cells
variable {t : TimeState} {d : Dev} {src dst id : Nat} {x : Xfer}
  (hc : findFirst (fun x => x.1 == src && x.2.1 == dst) d.fp.flight = some (src, dst, id))
  (hx : xferOf (cellLanded d src dst) id = some x)
include hc hx

/-- A cell of a transfer that is dead is counted alone. -/
theorem cellArrival_dead (hd : x.dead = true) :
    cellArrival t d src dst = endXfers (cellCounted (cellLanded d src dst) id) := by
  rw [cellLanded] at hx
  simp only [cellArrival, hc, hx, hd, if_true, cellCounted, cellLanded]

/-- A cell that arrives is counted and written to every chain that its transfer fills (R22, R188). -/
theorem cellArrival_live (hd : x.dead = false) :
    cellArrival t d src dst
      = settleFrame (endXfers (cellStored t (cellCounted (cellLanded d src dst) id) id x)) x.fid := by
  rw [cellLanded] at hx
  simp only [cellArrival, hc, hx, hd, Bool.false_eq_true, if_false]
  rfl

end Cells

/-- A retry is counted at a link that is ON (R23). -/
theorem d2dRetry_on {d : Dev} {l : Nat} (hl : l < 56) (ho : isOn d ⟨.d2d, l⟩ = true) :
    d2dRetry d l = countN d (Ev.plain .d2d 0) l 0 0 0 1 := by
  simp [d2dRetry, hl, ho]

/-- Settles O21: the branches of each command, as the rules above give them. -/
theorem crossingsComplete : Obligations.CrossingsComplete := by
  unfold Obligations.CrossingsComplete
  intro s
  refine ⟨?credit, ?request, ?grant, ?cell, ?retry⟩
  case credit => exact fun src dst hs hd hb => act_ok (isSlice_pair hs hd) (creditReturn_back hb)
  case request =>
    intro fid c x f hc hx hf
    have goes {d d' : Dev} (e : d = d') := act_ok (s := s) (decide_eq_true hc) e
    refine ⟨fun dead => goes (poolRequest_dead hx hf dead), fun live gone => goes (poolRequest_repls hx hf live gone),
      fun y live hy => ⟨fun r refused => ⟨fun alone => ?_, fun chain => ?_⟩, fun fits h5 spills => ?_, fun fits pool => ?_⟩⟩
    · exact goes (poolRequest_refused hx hf live hy refused (Prod.ext alone rfl))
    · exact goes (poolRequest_repls_go_on hx hf live hy refused (Prod.ext chain rfl))
    · exact goes (poolRequest_spilled hx hf live hy fits (by rw [decide_eq_true h5]; exact spills))
    · refine goes (poolRequest_chained hx hf live hy fits ?_)
      obtain h5 | stays := pool
      · rw [decide_eq_false (not_not_intro h5), Bool.false_and]
      · rw [Bool.and_eq_false_iff]
        exact .inr stays
  case grant =>
    intro fid c x f hc hx hf
    have goes {d d' : Dev} (e : d = d') := act_ok (s := s) (decide_eq_true hc) e
    refine ⟨fun yes => goes (poolGrant_yes hx hf yes), fun no => ⟨fun plain => ?_, fun launch late => ?_, fun launch runs => ?_⟩⟩
    · exact goes ((poolGrant_no hx hf no).trans (if_neg (ne_true_of_eq_false plain)))
    · exact goes ((poolGrant_no hx hf no).trans ((if_pos launch).trans (if_neg late)))
    · exact goes ((poolGrant_no hx hf no).trans ((if_pos launch).trans (if_pos runs)))
  case cell =>
    intro src dst id x hs hd hc d hx
    exact ⟨fun dead => act_ok (isSlice_pair hs hd) (cellArrival_dead hc hx dead),
      fun live => act_ok (isSlice_pair hs hd) (cellArrival_live hc hx live)⟩
  case retry => exact fun l hl ho => act_ok (decide_eq_true hl) (d2dRetry_on hl ho)

end Sys2Proof.Machine
end

section
/-! Proofs of the statements of spec/02: steps, stores, and the access codes of fields (R34, R35, R37, R40). -/
namespace Sys2Proof.Machine

/-- Settles O1: the branches of a step, and those of a tick without power and before the boot ROM. -/
theorem stepRunsTheFrontCommand : Obligations.StepRunsTheFrontCommand := by
  unfold Obligations.StepRunsTheFrontCommand
  refine ⟨fun c rest s => rfl, fun s empty => ?_⟩
  have ticks : step s = .next (idle s) := by rw [step, empty]
  refine ⟨ticks, fun off => ?_, fun on early => ?_⟩
  · rw [ticks, idle, off]; rfl
  · rw [ticks, idle, on, if_neg (by decide), if_pos early]

/-- Settles O4: every command answers with its effect settled, and settling leaves the queue. -/
theorem everyCommandCompletes : Obligations.EveryCommandCompletes := by
  unfold Obligations.EveryCommandCompletes
  intro c s
  obtain ⟨tm, d, answers, -⟩ := exec_settles c s
  exact ⟨_, answers, settled_pending ..⟩

/-- Settles O10: the laws of registers and of sparse stores. -/
theorem storesKeepTheirForm : Obligations.StoresKeepTheirForm := by
  unfold Obligations.StoresKeepTheirForm
  refine ⟨fun d b b' sub sub' i i' v r r' => ⟨rdAt_wrAt_same .., fun other => ?_⟩, fun dflt m k j v => ?_⟩
  · exact rdAt_wrAt_ne _ _ _ _ _ _ _ _ _ _ other
  · exact ⟨SMap.get_set_same .., fun other => SMap.get_set_ne _ _ _ _ other, SMap.wf_set dflt m k v⟩

/-- The bits of a whole register. -/
theorem testBit_wholeMask {n : Nat} (hn : n < 64) : Half.whole.mask.testBit n = true := by
  show (2 ^ 64 - 1).testBit n = true
  rw [Nat.testBit_two_pow_sub_one, decide_eq_true hn]

/-- Settles O9: a bit that a field holds lies in the masks of the field's access code alone. -/
theorem writesFollowAccessCodes : Obligations.WritesFollowAccessCodes := by
  unfold Obligations.WritesFollowAccessCodes
  intro s b r i w n f hn defined hf above below
  have code (p : Sys2Proof.Acc → Bool) := accMask_field r p n f hf above below
  rw [written, testBit_mergeWrite _ _ _ _ _ _ _ _ hn, testBit_wholeMask hn, defined]
  simp only [code, Bool.true_and]
  generalize (regView s.tim s.dev b (regSub r) r i).testBit n = old
  generalize w.testBit n = new
  generalize locked s.dev b (regSub r) = lock
  cases f.acc <;> revert old new lock <;> decide

end Sys2Proof.Machine
end

section
/-! Accesses of the pages of BAR0 and of the windows of BAR2: what each kind of violation leaves, and what an access that is
permitted comes to (R34, R45, R46, R404). -/
namespace Sys2Proof.Machine

/-- The device after a write of a register at an offset, from what the write does: one that is not permitted, in whole or in
part, is counted (R45). -/
def afterWrite (t : TimeState) (d : Dev) (b : Blk) (sub off : Nat) : Wrote → Dev
  | .ok e => e
  | .no => violate t d b sub 3 off
  | .part e => violate t e b sub 3 off

/-- What a write of a half brings, at the bits of that half (R34). -/
def halfWord (h : Half) (w : Nat) : Nat := if h = .high then (w % 2 ^ 32) <<< 32 else w

section Bar0
variable {t : TimeState} {d : Dev} {size off w : Nat} {sm : Bool} (hp : powered d = true)
include hp

/-- A write of a page that does not answer counts in page 0 of its region (R46). -/
theorem bar0Write_absent (hl : livePage d off = none) :
    bar0Write t d size off w sm = violate t d (bar0Home off) 0 4 off := by
  simp only [bar0Write, hp, hl, Bool.not_true, Bool.false_eq_true, if_false]

/-- So does a read of one, which answers zero. -/
theorem bar0Read_absent (hl : livePage d off = none) :
    bar0Read t d size off = answer (violate t d (bar0Home off) 0 4 off) 0 := by
  simp only [bar0Read, hp, hl, Bool.not_true, Bool.false_eq_true, if_false]

variable {b : Blk} {sub : Nat} (hl : livePage d off = some (b, sub))
include hl

/-- A write that touches no whole half is UNALIGNED (Table 2.15). -/
theorem bar0Write_unaligned (hh : accHalf size off = none) :
    bar0Write t d size off w sm = violate t (wakeRegs d b) b sub 1 off := by
  simp only [bar0Write, hp, hl, hh, Bool.not_true, Bool.false_eq_true, if_false]

/-- So is such a read. -/
theorem bar0Read_unaligned (hh : accHalf size off = none) :
    bar0Read t d size off = answer (violate t (wakeRegs d b) b sub 1 off) 0 := by
  simp only [bar0Read, hp, hl, hh, Bool.not_true, Bool.false_eq_true, if_false]

variable {h : Half} (hh : accHalf size off = some h)
include hh

/-- A write where no register stands is RESERVED (Table 2.15). -/
theorem bar0Write_reserved (hr : regAt (wakeRegs d b) b sub off = none) :
    bar0Write t d size off w sm = violate t (wakeRegs d b) b sub 2 off := by
  simp only [bar0Write, hp, hl, hh, hr, Bool.not_true, Bool.false_eq_true, if_false]

/-- So is such a read. -/
theorem bar0Read_reserved (hr : regAt (wakeRegs d b) b sub off = none) :
    bar0Read t d size off = answer (violate t (wakeRegs d b) b sub 2 off) 0 := by
  simp only [bar0Read, hp, hl, hh, hr, Bool.not_true, Bool.false_eq_true, if_false]

variable {r : Reg} {i : Nat} (hr : regAt (wakeRegs d b) b sub off = some (r, i))
include hr

/-- A write where a register stands is what `regWrite` makes of it. -/
theorem bar0Write_reg : bar0Write t d size off w sm = afterWrite t (wakeRegs d b) b sub off
    (regWrite t (wakeRegs d b) b sub r i off h (halfWord h w) sm) := by
  simp only [bar0Write, hp, hl, hh, hr, Bool.not_true, Bool.false_eq_true, if_false, halfWord]
  cases regWrite t (wakeRegs d b) b sub r i off h (if h = .high then (w % 2 ^ 32) <<< 32 else w) sm <;> rfl

/-- A read of a register that none may read is NOT_PERMITTED (Table 2.12). -/
theorem bar0Read_denied (hd : readDenied (wakeRegs d b) b r = true) :
    bar0Read t d size off = answer (violate t (wakeRegs d b) b sub 3 off) 0 := by
  simp only [bar0Read, hp, hl, hh, hr, hd, Bool.not_true, Bool.false_eq_true, if_false, if_true]

/-- Any other read of a register is what `regRead` makes of it. -/
theorem bar0Read_reg (hd : readDenied (wakeRegs d b) b r = false) :
    bar0Read t d size off = answer (regRead t (wakeRegs d b) b sub r i off h).2
      (regRead t (wakeRegs d b) b sub r i off h).1 := by
  simp only [bar0Read, hp, hl, hh, hr, hd, Bool.not_true, Bool.false_eq_true, if_false]

end Bar0

section Bar2
variable {t : TimeState} {d : Dev} {size off w : Nat} (hp : powered d = true)
include hp

/-- A write of a place that a window does not have is UNIMPLEMENTED (R353). -/
theorem bar2Write_absent (hs : winSpot d (off / 0x10000 % 4096) (off % 0x10000) = .absent) :
    bar2Write t d size off w = violateWin d (off / 0x10000 % 4096) 4 off := by
  simp only [bar2Write, hp, hs, Bool.not_true, Bool.false_eq_true, if_false]

/-- So is a read of one, which answers zero. -/
theorem bar2Read_absent (hs : winSpot d (off / 0x10000 % 4096) (off % 0x10000) = .absent) :
    bar2Read d size off = answer (violateWin d (off / 0x10000 % 4096) 4 off) 0 := by
  simp only [bar2Read, hp, hs, Bool.not_true, Bool.false_eq_true, if_false]

/-- A write of a place that a window has, touching no whole half, is UNALIGNED (Table 2.15). -/
theorem bar2Write_unaligned (hs : winSpot d (off / 0x10000 % 4096) (off % 0x10000) ≠ .absent) (hh : accHalf size off = none) :
    bar2Write t d size off w = violateWin d (off / 0x10000 % 4096) 1 off := by
  cases spot : winSpot d (off / 0x10000 % 4096) (off % 0x10000) with
  | absent => exact absurd spot hs
  | _ => simp only [bar2Write, hp, hh, spot, Bool.not_true, Bool.false_eq_true, if_false]

/-- So is such a read. -/
theorem bar2Read_unaligned (hs : winSpot d (off / 0x10000 % 4096) (off % 0x10000) ≠ .absent) (hh : accHalf size off = none) :
    bar2Read d size off = answer (violateWin d (off / 0x10000 % 4096) 1 off) 0 := by
  cases spot : winSpot d (off / 0x10000 % 4096) (off % 0x10000) with
  | absent => exact absurd spot hs
  | _ => simp only [bar2Read, hp, hh, spot, Bool.not_true, Bool.false_eq_true, if_false]

variable {h : Half} (hh : accHalf size off = some h)
include hh

/-- A write where a window holds nothing is RESERVED (Table 2.15). -/
theorem bar2Write_reserved (hs : winSpot d (off / 0x10000 % 4096) (off % 0x10000) = .reserved) :
    bar2Write t d size off w = violateWin d (off / 0x10000 % 4096) 2 off := by
  simp only [bar2Write, hp, hh, hs, Bool.not_true, Bool.false_eq_true, if_false]

/-- So is such a read. -/
theorem bar2Read_reserved (hs : winSpot d (off / 0x10000 % 4096) (off % 0x10000) = .reserved) :
    bar2Read d size off = answer (violateWin d (off / 0x10000 % 4096) 2 off) 0 := by
  simp only [bar2Read, hp, hh, hs, Bool.not_true, Bool.false_eq_true, if_false]

/-- A write that a ring register refuses is NOT_PERMITTED (Table 17.5). -/
theorem bar2Write_refused {k : RingKind} {r : Nat} {y : RingReg}
    (hs : winSpot d (off / 0x10000 % 4096) (off % 0x10000) = .ring k r y)
    (hw : ringWrite t d k (off / 0x10000 % 4096) r y h (halfWord h w) = .no) :
    bar2Write t d size off w = violateWin d (off / 0x10000 % 4096) 3 off := by
  simp only [halfWord] at hw
  simp only [bar2Write, hp, hh, hs, hw, Bool.not_true, Bool.false_eq_true, if_false]

end Bar2

/-- Byte enables that cover no whole half leave an access of no size, which touches none (log entry 143). -/
theorem accHalf_uncovered {size addr be : Nat} (h8 : size = 8 → be ≠ 0xFF ∧ (addr % 8 = 0 → be ≠ 0x0F ∧ be ≠ 0xF0))
    (h4 : size = 4 → be ≠ 0x0F) : accHalf (accessed size addr be).1 (accessed size addr be).2 = none := by
  have covers_none : accessed size addr be = (0, addr) := by
    simp only [accessed, Bool.and_eq_true, Bool.or_eq_true, decide_eq_true_eq]
    rw [if_neg, if_neg, if_neg]
    · rintro (⟨hs, hb⟩ | ⟨hs, hb⟩)
      · exact (h8 hs).1 hb
      · exact h4 hs hb
    · exact fun ⟨⟨hs, ha⟩, hb⟩ => ((h8 hs).2 ha).2 hb
    · exact fun ⟨⟨hs, ha⟩, hb⟩ => ((h8 hs).2 ha).1 hb
  rw [covers_none]; rfl

/-- The fields of a count of violations (Table 2.16). -/
theorem violation_fields {kind off n : Nat} (hk : kind < 16) (hn : n < 2 ^ 32) :
    let v := (kind <<< 60 + (off % 2 ^ 28) <<< 32 + n) % 2 ^ 64
    fld v 63 60 = kind ∧ fld v 59 32 = off % 2 ^ 28 ∧ fld v 31 0 = n := by
  simp only [fld, Nat.shiftLeft_eq, Nat.shiftRight_eq_div_pow]
  omega

/-- A violation that does not fill the count writes VIOLATION_COUNT and nothing else (R45, R46). -/
theorem violate_counts {d : Dev} {b : Blk} {sub : Nat} (t : TimeState) (kind off : Nat)
    (h : fld (rdAt d b sub .violationCount 0) 31 0 < 2 ^ 32 - 2) :
    violate t d b sub kind off = wrAt d b sub .violationCount 0
      (kind <<< 60 + (off % 2 ^ 28) <<< 32 + (fld (rdAt d b sub .violationCount 0) 31 0 + 1)) := by
  have unsaturated : satAdd (2 ^ 32 - 1) (fld (rdAt d b sub .violationCount 0) 31 0) 1
      = fld (rdAt d b sub .violationCount 0) 31 0 + 1 := Nat.min_eq_right (by omega)
  rw [violate]
  simp only [unsaturated]
  rw [if_neg]
  rw [Bool.and_eq_true, decide_eq_true_eq]
  omega

/-- Settles O11: the branches of an access of BAR0 and of BAR2 in their order, and the count that a violation leaves. -/
theorem violationsCountOnceByTheirFirstKind : Obligations.ViolationsCountOnceByTheirFirstKind := by
  unfold Obligations.ViolationsCountOnceByTheirFirstKind
  refine ⟨?bar0, ?bar2, ?enables, ?count⟩
  case bar0 =>
    intro s size addr be w on off x
    refine ⟨fun absent => ⟨ends_ok (bar0Write_absent on absent), ends_ok (bar0Read_absent on absent)⟩, fun b sub live => ?_⟩
    refine ⟨fun half => ⟨ends_ok (bar0Write_unaligned on live half), ends_ok (bar0Read_unaligned on live half)⟩,
      fun h half none => ⟨ends_ok (bar0Write_reserved on live half none), ends_ok (bar0Read_reserved on live half none)⟩,
      fun h r i half reg => ⟨fun refused => ends_ok ?_, fun denied => ends_ok (bar0Read_denied on live half reg denied)⟩⟩
    exact (bar0Write_reg on live half reg).trans (congrArg (afterWrite s.tim (wakeRegs s.dev b) b sub off) refused)
  case bar2 =>
    intro s size addr be w on off x p
    exact ⟨fun absent => ⟨ends_ok (bar2Write_absent on absent), ends_ok (bar2Read_absent on absent)⟩,
      fun spot half => ⟨ends_ok (bar2Write_unaligned on spot half), ends_ok (bar2Read_unaligned on spot half)⟩,
      fun h none half => ⟨ends_ok (bar2Write_reserved on half none), ends_ok (bar2Read_reserved on half none)⟩,
      fun h k r y spot half refused => ends_ok (bar2Write_refused on half spot refused)⟩
  case enables => exact fun size addr be h8 h4 => accHalf_uncovered h8 h4
  case count =>
    intro t d b sub kind off hk hc
    rw [violate_counts t kind off hc, rdAt_wrAt_same]
    exact violation_fields hk (by omega)

end Sys2Proof.Machine
end

section
/-! Proofs of the statements of spec/02: writes and reads of registers that an access only stores or returns (R34,
R35, R378). -/
namespace Sys2Proof.Machine

/-- The size of an access of a half of a register (R34). -/
def Half.size : Half → Nat
  | .whole => 8
  | .low => 4
  | .high => 4

/-- The distance of a half from the offset of its register (R34). -/
def Half.off : Half → Nat
  | .high => 4
  | _ => 0

section Place
variable {b : Blk} {sub : Nat} {r : Reg} {i : Nat} (hs : Spot b sub r i)
include hs

/-- Registers stand at multiples of eight bytes (R34). -/
theorem regOff_aligned : regOff b sub r i % 8 = 0 := by
  obtain ⟨-, -, -, -, h8⟩ := hs
  have base := pageBase_mod b sub
  rw [regOff]
  omega

/-- Each half of a register lies in the page of the register. -/
theorem livePage_half {d : Dev} (ho : Open d b) (h : Half) : livePage d (regOff b sub r i + h.off) = some (b, sub) := by
  obtain ⟨hb, hsub, hoff, -, h8⟩ := hs
  obtain ⟨-, live, -, -⟩ := ho
  have inPage : (regInfo r).off + (regInfo r).stride * i + h.off < 0x1000 := by
    have : h.off ≤ 4 := by cases h <;> decide
    omega
  rw [livePage, regOff, Nat.add_assoc, Nat.add_assoc, ← Nat.add_assoc (regInfo r).off, pageAt_page b sub _ hb hsub inPage]
  simp only [live, if_true]

/-- An access of a half of a register finds the register. -/
theorem regAt_half {d : Dev} (hr : reservedNow d b r = false)
    (hi : innerLane d b = false ∨ (regInfo r).place = .header ∨ r = .macCfg) (h : Half) :
    regAt d b sub (regOff b sub r i + h.off) = some (r, i) := by
  have aligned := regOff_aligned hs
  have whole := regAt_open d b sub r i hs hr hi
  have slot : (regOff b sub r i + h.off) % 0x1000 / 8 * 8 = regOff b sub r i % 0x1000 / 8 * 8 := by
    have : h.off ≤ 4 := by cases h <;> decide
    omega
  rw [regAt, slot]
  exact whole

/-- An access of a half touches that half. -/
theorem accHalf_half (h : Half) : accHalf h.size (regOff b sub r i + h.off) = some h := by
  have aligned := regOff_aligned hs
  cases h with
  | whole => simp [accHalf, Half.size, Half.off, aligned]
  | low =>
    have : regOff b sub r i % 4 = 0 := by omega
    simp [accHalf, Half.size, Half.off, aligned, this]
  | high =>
    have h4 : (regOff b sub r i + 4) % 4 = 0 := by omega
    have h8 : (regOff b sub r i + 4) % 8 ≠ 0 := by omega
    simp [accHalf, Half.size, Half.off, h4, h8]

variable {d : Dev} (ho : Open d b) (hr : reservedNow d b r = false)
  (hi : innerLane d b = false ∨ (regInfo r).place = .header ∨ r = .macCfg)
include ho hr hi

/-- A write of a half of a register whose page answers is what `regWrite` makes of it (R34). -/
theorem bar0Write_half (t : TimeState) (h : Half) (w : Nat) (sm : Bool) :
    bar0Write t d h.size (regOff b sub r i + h.off) w sm = afterWrite t d b sub (regOff b sub r i + h.off)
      (regWrite t d b sub r i (regOff b sub r i + h.off) h (halfWord h w) sm) := by
  have awake := wakeRegs_open d b ho
  have found : regAt (wakeRegs d b) b sub (regOff b sub r i + h.off) = some (r, i) := by
    rw [awake]; exact regAt_half hs hr hi h
  rw [bar0Write_reg ho.1 (livePage_half hs ho h) (accHalf_half hs h) found, awake]

/-- A read of a half of a register whose page answers is what `regRead` makes of it (R34). -/
theorem bar0Read_half (hd : readDenied d b r = false) (t : TimeState) (h : Half) :
    bar0Read t d h.size (regOff b sub r i + h.off) = answer (regRead t d b sub r i (regOff b sub r i + h.off) h).2
      (regRead t d b sub r i (regOff b sub r i + h.off) h).1 := by
  have awake := wakeRegs_open d b ho
  have found : regAt (wakeRegs d b) b sub (regOff b sub r i + h.off) = some (r, i) := by
    rw [awake]; exact regAt_half hs hr hi h
  rw [bar0Read_reg ho.1 (livePage_half hs ho h) (accHalf_half hs h) found (by rw [awake]; exact hd), awake]

end Place

section Plain
variable {r : Reg} (hr : writeActs r = false)
include hr

/-- Of the hub's registers, those that a write only stores have no effect of their own. -/
theorem writeHub_plain (t : TimeState) (d : Dev) (i off : Nat) (h : Half) (w v : Nat) : writeHub t d r i off h w v = none := by
  unfold writeHub
  split
  case h_41 => rfl
  all_goals cases hr

/-- No register of a PRBS set is one that a write only stores, but its seed and its status. -/
theorem writePrbs_plain (d : Dev) (b : Blk) (i w v : Nat) : writePrbs d b r i w v = none := by
  unfold writePrbs
  split
  case h_21 => rfl
  all_goals cases hr

/-- The same of a cluster's registers. -/
theorem writeCluster_plain (t : TimeState) (d : Dev) (b : Blk) (h : Half) (w v : Nat) : writeCluster t d b r h w v = none := by
  unfold writeCluster
  split
  case h_20 => rfl
  all_goals cases hr

/-- The same of a slice's registers. -/
theorem writeSlice_plain (t : TimeState) (d : Dev) (b : Blk) (h : Half) (w v : Nat) : writeSlice t d b r h w v = none := by
  unfold writeSlice
  split
  case h_11 =>
    unfold gateWrite
    split
    case h_6 => rfl
    all_goals cases hr
  all_goals cases hr

/-- The write of a register that a write only stores leaves the merged value in it (Table 2.12). -/
theorem writeEffect_plain (t : TimeState) (d : Dev) (b : Blk) (sub i off : Nat) (h : Half) (w v : Nat) (sm : Bool) :
    writeEffect t d b sub r i off h w v sm = .ok (wrAt d b sub r i v) := by
  unfold writeEffect
  split
  case h_10 =>
    have port : (r == .schPort) = false := by
      rw [beq_eq_false_iff_ne]; rintro rfl; cases hr
    cases b.kind <;>
      simp only [writeHub_plain hr, writePrbs_plain hr, writeCluster_plain hr, writeSlice_plain hr, port, Bool.false_eq_true,
        if_false, Option.getD_none]
  all_goals cases hr

end Plain

/-- A write of a half looks at the bits of that half alone (R34). -/
theorem mergeWrite_masked (d : Dev) (b : Blk) (sub : Nat) (r : Reg) (h : Half) (old w : Nat) :
    mergeWrite d b sub r h old (w.land h.mask) = mergeWrite d b sub r h old w := by
  have absorb (x : Nat) : (w.land h.mask).land (h.mask.land x) = w.land (h.mask.land x) := by
    show (w &&& h.mask) &&& (h.mask &&& x) = w &&& (h.mask &&& x)
    rw [Nat.and_assoc, ← Nat.and_assoc h.mask, Nat.and_self]
  have absorb₂ (x y : Nat) : (w.land h.mask).land ((h.mask.land x).land y) = w.land ((h.mask.land x).land y) := by
    have nest : (h.mask.land x).land y = h.mask.land (x.land y) := Nat.and_assoc ..
    rw [nest, absorb]
  simp only [mergeWrite, absorb₂]

/-- A permitted write of a half of a register that a write only stores leaves the merge of its fields (R34, Table 2.12). -/
theorem regWrite_plain {d : Dev} {b : Blk} {sub : Nat} {r : Reg} {h : Half} (plain : writeActs r = false)
    (hsr : (blkSt d b).softReset = false) (hh : h = .whole ∨ wideOnly r = false ∧ spansHalves (locked d b sub) r = false)
    (hm : h.mask.land (accMask r (codeWrites (locked d b sub))) ≠ 0) (t : TimeState) (i off w : Nat) (sm : Bool) :
    regWrite t d b sub r i off h w sm = .ok (wrAt d b sub r i (mergeWrite d b sub r h (regView t d b sub r i) w)) := by
  have reaches : ¬ (h ≠ .whole && (wideOnly r || spansHalves (locked d b sub) r)) := by
    rcases hh with whole | ⟨narrow, apart⟩
    · simp [whole]
    · simp [narrow, apart]
  simp only [regWrite, hsr, Bool.false_and, Bool.false_eq_true, if_false]
  rw [if_neg reaches, if_neg hm, writeEffect_plain plain, mergeWrite_masked]

section Reads
variable {r : Reg} (hr : readActs r = false)
include hr

/-- A register that a read leaves as it is counts no bits under test. -/
theorem prbsCounter_plain : prbsCounter r = false := by
  unfold prbsCounter
  split
  case h_9 => rfl
  all_goals cases hr

/-- The read of a register that a read leaves as it is does nothing beside returning a value. -/
theorem readEffect_plain (t : TimeState) (d : Dev) (b : Blk) (sub : Nat) (h : Half) : readEffect t d b sub r h = d := by
  unfold readEffect
  split
  case h_11 => rfl
  all_goals cases hr

/-- What such a register returns, and the device, once the words of protected memories that it shows have been read: a free
value when one of them cannot be (R253, log entry 163). -/
def shown (t : TimeState) (d : Dev) (b : Blk) (sub : Nat) (r : Reg) (i : Nat) : Nat × Dev :=
  let m := readMems t d b r i
  if m.1 then ((fresh m.2).1 % 2 ^ 64, (fresh m.2).2) else (regView t m.2 b sub r i, m.2)

/-- A permitted read of such a register, in whole or of its low half, is that with the latch (R34). -/
theorem regRead_plain (t : TimeState) (d : Dev) (b : Blk) (sub i off : Nat) {h : Half} (hh : h ≠ .high) :
    regRead t d b sub r i off h
      = latchRead (shown t d b sub r i).2 (off / 8) h (shown t d b sub r i).1 := by
  have pops : r ≠ .macTxtsA := by rintro rfl; cases hr
  simp only [regRead, pops, prbsCounter_plain hr, readEffect_plain hr, hh, shown, if_false, Bool.false_eq_true, decide_false,
    Bool.false_and]

/-- A permitted read of the high half of such a register returns what the latch holds, and releases it (R34). -/
theorem regRead_latched (t : TimeState) {d : Dev} (b : Blk) (sub i : Nat) {off y : Nat} (hl : latched d (off / 8) = y + 1) :
    regRead t d b sub r i off .high = (y, setLatch d (off / 8) 0) := by
  have pops : r ≠ .macTxtsA := by rintro rfl; cases hr
  simp [regRead, pops, prbsCounter_plain hr, readEffect_plain hr, hl, latchRead]

end Reads

/-- Two registers with one offset are one register of one page. -/
theorem spot_unique {b b' : Blk} {sub sub' : Nat} {r r' : Reg} {i i' : Nat} (hs : Spot b sub r i) (hs' : Spot b' sub' r' i')
    (h : regOff b sub r i = regOff b' sub' r' i') : b = b' ∧ sub = sub' ∧ r = r' ∧ i = i' := by
  have mods : (regInfo r).off + (regInfo r).stride * i = (regInfo r').off + (regInfo r').stride * i' := by
    rw [← regOff_mod b sub r i hs, ← regOff_mod b' sub' r' i' hs', h]
  obtain ⟨hb, hsub, hoff, hfind, -⟩ := hs
  obtain ⟨hb', hsub', hoff', hfind', -⟩ := hs'
  have page : some (b, sub) = some (b', sub') := by
    rw [← pageAt_page b sub _ hb hsub hoff, ← pageAt_page b' sub' _ hb' hsub' hoff', ← Nat.add_assoc, ← Nat.add_assoc]
    exact congrArg pageAt h
  cases page
  rw [mods, hfind'] at hfind
  cases hfind
  exact ⟨rfl, rfl, rfl, rfl⟩

/-- A register that a write only stores is none of those that serving the ports may change (R260). -/
theorem regOff_ne_flipSlot {b : Blk} {sub : Nat} {r : Reg} {i n j : Nat} (hs : Spot b sub r i) (plain : writeActs r = false)
    (hn : n < 64) (hj : j < 8) : regOff b sub r i / 8 ≠ flipSlot n j := by
  intro meets
  have flip : Spot ⟨.sch, n⟩ j .errFlipC 0 := spot_header _ _ _ hn hj (by decide)
  have aligned := regOff_aligned hs
  have aligned' := regOff_aligned flip
  rw [flipSlot] at meets
  obtain ⟨-, -, rfl, -⟩ := spot_unique hs flip (by omega)
  cases plain

/-- An access of eight bytes covers its register. -/
theorem accessed_whole (o : Nat) : accessed 8 o 0xFF = (8, o) := by simp [accessed]

/-- An access of four bytes, or of the low half of eight, covers the low half. -/
theorem accessed_low {n o : Nat} (ho : o % 8 = 0) (hn : n = 4 ∨ n = 8) : accessed n o 0x0F = (4, o) := by
  rcases hn with rfl | rfl <;> simp [accessed, ho]

/-- An access of four bytes further on covers the high half. -/
theorem accessed_high (o : Nat) : accessed 4 (o + 4) 0x0F = (4, o + 4) := by simp [accessed]

/-- So does one of the high half of eight. -/
theorem accessed_upper {o : Nat} (ho : o % 8 = 0) : accessed 8 o 0xF0 = (4, o + 4) := by simp [accessed, ho]

/-- A write that covers bytes from its offset on carries its word as it stands. -/
theorem carried_here {n a be k : Nat} (hc : accessed n a be = (k, a)) (w : Nat) : carried n a be w = w := by
  simp [carried, hc]

/-- A write that covers the high half of eight bytes carries the high half of its word. -/
theorem carried_upper {a : Nat} (ha : a % 8 = 0) (w : Nat) : carried 8 a 0xF0 w = w / 2 ^ 32 := by
  simp [carried, accessed_upper ha]

section Access
variable {s : State} {b : Blk} {r : Reg} {i : Nat} (hs : Spot b (regSub r) r i) (ho : Open s.dev b)
  (hr : reservedNow s.dev b r = false) (hi : innerLane s.dev b = false)
include hs ho hr hi

/-- A permitted write of a half of a register that a write only stores leaves the merge of its fields in it (R34). -/
theorem bar0Write_plain {h : Half} (plain : writeActs r = false)
    (hh : h = .whole ∨ wideOnly r = false ∧ spansHalves (locked s.dev b (regSub r)) r = false)
    (hm : h.mask.land (accMask r (codeWrites (locked s.dev b (regSub r)))) ≠ 0) (w : Nat) (sm : Bool) :
    bar0Write s.tim s.dev h.size (regOff b (regSub r) r i + h.off) w sm = wr s.dev b r
      (mergeWrite s.dev b (regSub r) r h (regView s.tim s.dev b (regSub r) r i) (halfWord h w)) i := by
  rw [bar0Write_half hs ho hr (.inl hi), regWrite_plain plain ho.2.2.1 hh hm]
  rfl

/-- The same of a command that covers the half. -/
theorem registerWrite_plain {h : Half} (plain : writeActs r = false)
    (hh : h = .whole ∨ wideOnly r = false ∧ spansHalves (locked s.dev b (regSub r)) r = false)
    (hm : h.mask.land (accMask r (codeWrites (locked s.dev b (regSub r)))) ≠ 0) {n be a : Nat}
    (hc : accessed n a be = (h.size, regOff b (regSub r) r i + h.off)) {w : Word} {x : Nat} (hx : carried n a be w.toNat = x) :
    exec (.registerWrite 0 ⟨n, be⟩ a w) s = .next (settled s (wr s.dev b r (mergeWrite s.dev b (regSub r) r h
      (regView s.tim s.dev b (regSub r) r i) (halfWord h x)) i)) := by
  refine ends_ok ?_
  show bar0Write s.tim s.dev (accessed n a be).1 (accessed n a be).2 (carried n a be w.toNat) _ = _
  rw [hc, hx]
  exact bar0Write_plain hs ho hr hi plain hh hm _ _

/-- The same of the whole register. -/
theorem registerWrite_whole (plain : writeActs r = false)
    (hm : Half.whole.mask.land (accMask r (codeWrites (locked s.dev b (regSub r)))) ≠ 0) (w : Word) :
    exec (.registerWrite 0 ⟨8, 0xFF⟩ (regOff b (regSub r) r i) w) s
      = .next (settled s (wr s.dev b r (written s b r w.toNat i) i)) :=
  registerWrite_plain hs ho hr hi (h := .whole) plain (.inl rfl) hm (accessed_whole _) (carried_here (accessed_whole _) _)

/-- A permitted read of a half of a register by a command that covers the half (R34). -/
theorem registerRead_half {h : Half} (hd : readDenied s.dev b r = false) {n be a : Nat}
    (hc : accessed n a be = (h.size, regOff b (regSub r) r i + h.off)) {v : Nat} {d : Dev}
    (hv : regRead s.tim s.dev b (regSub r) r i (regOff b (regSub r) r i + h.off) h = (v, d)) :
    exec (.registerReadLatch 0 ⟨n, be⟩ a) s = .next (settled s (answer d v)) := by
  refine ends_ok ?_
  show bar0Read s.tim s.dev (accessed n a be).1 (accessed n a be).2 = _
  rw [hc, bar0Read_half hs ho hr (.inl hi) hd, hv]

end Access

/-- Settles O12: the merge is stored, ports that are served anew leave registers that a write only stores, and registers with
other places keep what they hold. -/
theorem plainWritesChangeOneRegister : Obligations.PlainWritesChangeOneRegister := by
  unfold Obligations.PlainWritesChangeOneRegister
  intro s t b r i w ⟨noReset, noDetach⟩ hs ho hr hi plain permitted ran
  rw [registerWrite_whole hs ho hr hi plain permitted] at ran
  have leaves : Leaves s t (wr s.dev b r (written s b r w.toNat i) i) := ends_leaves noReset noDetach ran
  obtain ⟨-, -, -, others, -⟩ := id leaves
  refine ⟨leaves, ?_, fun b' sub' r' i' apart noFlip => ?_⟩
  · exact (others _ _ _ _ (fun n hn j hj => regOff_ne_flipSlot hs plain hn hj)).trans (rdAt_wrAt_same ..)
  · exact (others _ _ _ _ noFlip).trans (rdAt_wrAt_ne _ _ _ _ _ _ _ _ _ _ apart)

/-- Settles O60: an access covers a half of its register, whose write stores the merge, and whose read returns what the
register shows. -/
theorem accessesComplete : Obligations.AccessesComplete := by
  unfold Obligations.AccessesComplete
  intro s b r i w hs ho hr hi o v
  have aligned : o % 8 = 0 := regOff_aligned hs
  refine ⟨fun plain => ⟨fun permitted => ⟨?_, ?_⟩,
    fun narrow apart => ⟨fun permitted n be hn hbe => ?_, fun permitted => ⟨?_, ?_⟩⟩⟩,
    fun plain allowed => ⟨?_, ?_, fun n hn => ?_, fun y held => ⟨?_, ?_⟩⟩⟩
  · exact registerWrite_whole hs ho hr hi plain permitted w
  · exact ends_ok (bar0Write_plain hs ho hr hi (h := .whole) plain (.inl rfl) permitted w.toNat true)
  · subst hbe
    have low := accessed_low aligned hn
    exact registerWrite_plain hs ho hr hi (h := .low) plain (.inr ⟨narrow, apart⟩) permitted low (carried_here low _)
  · have high := accessed_high o
    exact registerWrite_plain hs ho hr hi (h := .high) plain (.inr ⟨narrow, apart⟩) permitted high (carried_here high _)
  · exact registerWrite_plain hs ho hr hi (h := .high) plain (.inr ⟨narrow, apart⟩) permitted (accessed_upper aligned)
      (carried_upper aligned _)
  · exact registerRead_half hs ho hr hi (h := .whole) allowed (accessed_whole o) (regRead_plain plain _ _ _ _ _ _ (by decide))
  · have whole := regRead_plain plain s.tim s.dev b (regSub r) i o (h := .whole) (by decide)
    refine ends_ok ((bar0Read_half hs ho hr (.inl hi) allowed s.tim .whole).trans ?_)
    exact congrArg (fun x => answer x.2 x.1) whole
  · exact registerRead_half hs ho hr hi (h := .low) allowed (accessed_low aligned hn)
      (regRead_plain plain _ _ _ _ _ _ (by decide))
  all_goals
    have key : (o + 4) / 8 = o / 8 := by omega
    rw [← key] at held ⊢
  · exact registerRead_half hs ho hr hi (h := .high) allowed (accessed_high o) (regRead_latched plain _ _ _ _ held)
  · exact registerRead_half hs ho hr hi (h := .high) allowed (accessed_upper aligned) (regRead_latched plain _ _ _ _ held)

end Sys2Proof.Machine
end

section
/-! Proofs of the statements of spec/02: the states of a block, and the control registers of its pages (R39 to R46). -/
namespace Sys2Proof.Machine

/-- Bring-up ends: an enabled block is ON, and one that was disabled meanwhile goes down (R41). -/
theorem bringUp_ends {d : Dev} {b : Blk} (hc : (blkSt d b).cur = 1) (hs : stuckOff d b = false)
    (hk : b.kind ≠ .hbm ∨ (tripped d = false ∧ rdF d (devBlk .pwr) .pwrStat 2 0 < 2)) (t : TimeState) :
    bringUp t d b = if (blkSt d b).enable then upDone (setCur d b 2 false) b else goDown t d b := by
  have free : (b.kind == .hbm && (tripped d || 2 ≤ rdF d (devBlk .pwr) .pwrStat 2 0)) = false := by
    rcases hk with other | ⟨cool, running⟩
    · simp [other]
    · simp [cool, running]
  rw [bringUp]
  exact if_neg (by simp [hc, hs, free])

/-- Settles O39: the branches of each command. -/
theorem blockStatesComplete : Obligations.BlockStatesComplete := by
  unfold Obligations.BlockStatesComplete
  intro s b hb
  have goes {d d' : Dev} (e : d = d') : act s (isBlk b) d = .next (settled s d') := act_ok (decide_eq_true hb) e
  refine ⟨fun enabling trained ready => ?bringUp, fun disabling drained => ?shutDown,
    fun off pend soft released trained => ?restart, fun soft => ?softReset, fun moves => ?stuck⟩
  case bringUp =>
    have ends := bringUp_ends enabling trained ready s.tim
    exact ⟨fun on => goes (ends.trans (if_pos on)), fun off => goes (ends.trans (if_neg (ne_true_of_eq_false off)))⟩
  case shutDown => exact goes (by simp [shutDown, disabling, drained])
  case restart => exact goes (by simp [pendRestart, off, pend, soft, released, trained])
  case softReset => exact goes (by simp [softDone, soft])
  case stuck => exact goes (by simp [stuckBlock, moves])

/-- A bit of a Bool as a bit. -/
theorem bit_b2n (x : Bool) : bit (b2n x) 0 = x ∧ bit (b2n x) 1 = false ∧ bit (b2n x) 2 = false := by
  cases x <;> decide

/-- The bits of a CTRL word with SOFT_RESET and ENABLE (Table 2.6). -/
theorem bit_softReset (x : Bool) : bit (2 + b2n x) 0 = x ∧ bit (2 + b2n x) 1 = true ∧ bit (2 + b2n x) 2 = false := by
  cases x <;> decide

/-- The bits of a CTRL word with LOCK and ENABLE (Table 2.6). -/
theorem bit_lock (x : Bool) : bit (4 + b2n x) 0 = x ∧ bit (4 + b2n x) 1 = false ∧ bit (4 + b2n x) 2 = true := by
  cases x <;> decide

/-- A command of a header register writes it, where its page answers (R37). -/
theorem headWrite_page {s : State} {b : Blk} {sub : Nat} {r : Reg} {w : Nat} (ho : Open s.dev b) (hs : Spot b sub r 0)
    (hp : (regInfo r).place = .header) (hr : reservedNow s.dev b r = false) :
    act s (isBlk b) (headWrite s.tim s.dev b sub r w) = .next (settled s (afterWrite s.tim s.dev b sub (regOff b sub r 0)
      (regWrite s.tim s.dev b sub r 0 (regOff b sub r 0) .whole w false))) := by
  obtain ⟨hb, hsub, -⟩ := id hs
  refine act_ok (decide_eq_true hb) ?_
  have page : blkPage b sub = true := by simp [blkPage, hb, hsub]
  rw [headWrite, if_pos page]
  exact bar0Write_half hs ho hr (.inr (.inl hp)) s.tim .whole w false

/-- A write of CTRL is not held up by a lock or by a soft reset (R41, R42). -/
theorem regWrite_ctrl (t : TimeState) (d : Dev) (b : Blk) (sub off : Nat) {w : Nat} (hw : w < 2 ^ 64) (sm : Bool) :
    regWrite t d b sub .ctrl 0 off .whole w sm = ctrlWrite t d b sub w sm := by
  have writable : ∀ lock, Half.whole.mask.land (accMask .ctrl (codeWrites lock)) ≠ 0 := by decide
  simp only [regWrite, ne_eq, not_true_eq_false, decide_false, Bool.and_false, Bool.false_and, Bool.false_eq_true, if_false,
    writable, land_mask w hw]
  rfl

/-- A write of CTRL but one by which the endpoint would disable itself comes to what `writeCtrl` makes of it (R381). -/
theorem ctrlWrite_host {t : TimeState} {d e : Dev} {b : Blk} {sub w : Nat} {ok : Bool} (hp : b.kind ≠ .pci ∨ bit w 0 = true)
    (h : writeCtrl t d b sub w = (e, ok)) : ctrlWrite t d b sub w false = if ok then .ok e else .part e := by
  have stays : (b.kind == .pci && !bit w 0) = false := by
    rcases hp with other | on
    · simp [other]
    · simp [on]
  simp only [ctrlWrite, stays, Bool.false_and, Bool.false_eq_true, if_false, h]
  cases ok <;> rfl

section CtrlPage
variable {s : State} {b : Blk} {sub w : Nat} {e : Dev} (hb : b.inst < b.kind.count) (hsub : sub < b.kind.info.span)
  (ho : Open s.dev b) (hw : w < 2 ^ 64) (hp : b.kind ≠ .pci ∨ bit w 0 = true)
include hb hsub ho hw hp

/-- A command that writes CTRL of a page that answers, when all of its word is permitted. -/
theorem ctrl_permitted (h : writeCtrl s.tim s.dev b sub w = (e, true)) :
    act s (isBlk b) (headWrite s.tim s.dev b sub .ctrl w) = .next (settled s e) := by
  rw [headWrite_page ho (spot_header b sub .ctrl hb hsub (.inl rfl)) rfl rfl, regWrite_ctrl _ _ _ _ _ hw,
    ctrlWrite_host hp h]
  rfl

/-- When some of it is not, it is counted as NOT_PERMITTED at CTRL (R45). -/
theorem ctrl_refused (h : writeCtrl s.tim s.dev b sub w = (e, false)) :
    act s (isBlk b) (headWrite s.tim s.dev b sub .ctrl w)
      = .next (settled s (violate s.tim e b sub 3 (regOff b sub .ctrl 0))) := by
  rw [headWrite_page ho (spot_header b sub .ctrl hb hsub (.inl rfl)) rfl rfl, regWrite_ctrl _ _ _ _ _ hw,
    ctrlWrite_host hp h]
  rfl

end CtrlPage

/-- A fixed-on block takes ENABLE 1 alone, and nothing of it changes (R43). -/
theorem writeCtrl_fixed {d : Dev} {b : Blk} {w : Nat} (hf : isFixed b = true) (hl : bit w 2 = false) (t : TimeState)
    (sub : Nat) : writeCtrl t d b sub w = (d, bit w 0 && !bit w 1) := by
  simp only [writeCtrl, hl, hf, Bool.false_eq_true, if_false, if_true]

/-- The endpoint is not fixed-on (Table 2.17). -/
theorem isFixed_not_pci {b : Blk} (hf : isFixed b = true) : b.kind ≠ .pci := by
  intro h
  rw [isFixed, h] at hf
  cases hf

/-- Settles O14: `writeCtrl` permits a fixed-on block's write when it says ENABLE 1 without SOFT_RESET. -/
theorem fixedBlocksRefuseStopAndReset : Obligations.FixedBlocksRefuseStopAndReset := by
  unfold Obligations.FixedBlocksRefuseStopAndReset
  intro s b sub hf hb hsub ho
  have other := isFixed_not_pci hf
  have takes (w : Nat) (hl : bit w 2 = false) := writeCtrl_fixed (d := s.dev) hf hl s.tim sub
  refine ⟨ctrl_refused hb hsub ho (by decide) (.inl other) (takes 0 rfl), fun en => ?_,
    ctrl_permitted hb hsub ho (by decide) (.inl other) (takes 1 rfl)⟩
  cases en with
  | false => exact ctrl_refused hb hsub ho (by decide) (.inl other) (takes 2 rfl)
  | true => exact ctrl_refused hb hsub ho (by decide) (.inl other) (takes 3 rfl)

/-- A MAC may be enabled when it is already, or when its owner and its lanes permit it; no other write of CTRL is held up by
that (R285, R401). -/
theorem mac_permitted {d : Dev} {b : Blk} {w : Nat}
    (hm : b.kind ≠ .mac ∨ bit w 0 = false ∨ (blkSt d b).enable = true ∨ macMay d b.inst = true) :
    (b.kind == .mac && bit w 0 && !(blkSt d b).enable && !macMay d b.inst) = false := by
  rcases hm with other | off | on | may
  · simp [other]
  · simp [off]
  · simp [on]
  · simp [may]

section Ctrl
variable {t : TimeState} {d e : Dev} {b : Blk} {sub w : Nat} (hf : isFixed b = false)
  (hlock : (if bit w 2 then wrAt d b sub .ctrl 0 4 else d) = e) (hi : innerLane e b = false)
  (hm : b.kind ≠ .mac ∨ bit w 0 = false ∨ (blkSt e b).enable = true ∨ macMay e b.inst = true)
include hf hlock hi hm

/-- A write of CTRL without SOFT_RESET stores LOCK and acts by its ENABLE (R41, Table 2.13). -/
theorem writeCtrl_enable (hs : bit w 1 = false) : writeCtrl t d b sub w = (writeEnable t e b (bit w 0), true) := by
  have may := mac_permitted hm
  simp only [writeCtrl, hlock, hf, hi, may, hs, Bool.false_and, Bool.false_eq_true, if_false]

/-- A SOFT_RESET of a block that is OFF starts, with the ENABLE that is written recorded (R42). -/
theorem writeCtrl_softReset (hs : bit w 1 = true) (hc : (blkSt e b).cur = 0) (hr : (blkSt e b).softReset = false) :
    writeCtrl t d b sub w = (setBlk e b { blkSt e b with softReset := true, enable := bit w 0 }, true) := by
  have may := mac_permitted hm
  simp [writeCtrl, hlock, hf, hi, may, hs, hc, hr]

end Ctrl

/-- CTRL and MAC_CFG do not meet: LOCK leaves the width of a port. -/
theorem innerLane_lock {d : Dev} {b : Blk} {sub : Nat} (hb : b.inst < b.kind.count) (hsub : sub < b.kind.info.span) (v : Nat) :
    innerLane (wrAt d b sub .ctrl 0 v) b = innerLane d b := by
  obtain ⟨k, n⟩ := b
  by_cases mac : k = .mac
  · subst mac
    have ctrl := spot_header ⟨.mac, n⟩ sub .ctrl hb hsub (.inl rfl)
    have cfg : Spot ⟨.mac, n⟩ (regSub .macCfg) .macCfg 0 := spot_of .mac .macCfg 0 n hb (by decide)
    have apart : regKey ⟨.mac, n⟩ sub .ctrl 0 ≠ regKey ⟨.mac, n⟩ (regSub .macCfg) .macCfg 0 := by
      intro meets
      have a := regOff_aligned ctrl
      have a' := regOff_aligned cfg
      rw [regKey, regKey] at meets
      obtain ⟨-, -, same, -⟩ := spot_unique ctrl cfg (by omega)
      cases same
    simp only [innerLane, portWidth, rdF, rd, rdAt_wrAt_ne _ _ _ _ _ _ _ _ _ _ apart]
  · have other : (k == .mac) = false := by simp [mac]
    simp only [innerLane, other, Bool.false_and]

/-- CTRL.ENABLE of a page reads ENABLE of its block, but in a lane inside a wider port (Table 2.6, R47). -/
theorem ctrlView_enable {d : Dev} {b : Blk} (hi : innerLane d b = false) (sub : Nat) :
    ctrlView d b sub % 2 = b2n (blkSt d b).enable := by
  have lock : (rdAt d b sub .ctrl 0).land 4 % 2 = 0 := by
    show (rdAt d b sub .ctrl 0 &&& 4) % 2 ^ 1 = 0
    rw [Nat.and_mod_two_pow]
    exact Nat.and_zero _
  have bound : b2n (blkSt d b).enable < 2 := by cases (blkSt d b).enable <;> decide
  simp only [ctrlView, shownBlk, hi, Bool.false_eq_true, if_false]
  omega

/-- VIOLATION_COUNT shows what it holds. -/
theorem regView_violationCount (t : TimeState) (d : Dev) (b : Blk) (sub : Nat) :
    regView t d b sub .violationCount 0 = rdAt d b sub .violationCount 0 := by
  obtain ⟨k, n⟩ := b
  cases k <;> rfl

/-- VIOLATION_COUNT shows no word of a protected memory. -/
theorem readMems_violationCount (t : TimeState) (d : Dev) (b : Blk) : readMems t d b .violationCount 0 = (false, d) := by
  obtain ⟨k, n⟩ := b
  cases k <;> rfl

/-- A 64-bit read of VIOLATION_COUNT returns it and clears the count (R46). -/
theorem regRead_violationCount (t : TimeState) (d : Dev) (b : Blk) (sub off : Nat) :
    regRead t d b sub .violationCount 0 off .whole = (rdAt d b sub .violationCount 0,
      wrAt d b sub .violationCount 0 (putFld (rdAt d b sub .violationCount 0) 31 0 0)) := by
  have mems := readMems_violationCount t d b
  have view := regView_violationCount t d b sub
  simp only [regRead, prbsCounter, mems, view, latchRead, readEffect, Half.hasLow, reduceCtorEq, decide_false, Bool.false_and,
    Bool.false_eq_true, if_false]
  rfl

/-- A write of ERR_STATUS of a page that answers clears the bits that it names but those that set again (R39). -/
theorem errStatusWrite_page {t : TimeState} {d : Dev} {b : Blk} {sub w : Nat} (hb : b.inst < b.kind.count)
    (hsub : sub < b.kind.info.span) (ho : Open d b) (hw : w < 2 ^ 64) (again : Nat) :
    errStatusWrite t d b sub w again = errClear t d b sub w again := by
  have spot := spot_header b sub .errStatus hb hsub (.inr (.inl rfl))
  unfold errStatusWrite
  split
  · next plain =>
    have none : again = 0 := by
      simpa [ho.1, livePage_open d b sub .errStatus 0 spot ho, ho.2.2.1] using plain
    rw [none]
    exact headWrite_ok t d _ b sub .errStatus w hw spot ho rfl (.inr (.inl rfl)) (by decide) rfl
  · rw [wakeRegs_open d b ho]

/-- Settles O40: what each command writes or reads in a page that answers, and what the page makes of it. -/
theorem controlPagesComplete : Obligations.ControlPagesComplete := by
  unfold Obligations.ControlPagesComplete
  intro s b sub hb hsub ho
  refine ⟨fun hf hi => ⟨fun en hp hm => ?enable, fun en hp hm off => ?reset, fun hp => ?lock⟩, fun w again => ?clear, ?count⟩
  case enable =>
    obtain ⟨b0, b1, b2⟩ := bit_b2n en
    have ctrl := writeCtrl_enable (t := s.tim) (d := s.dev) (sub := sub) (w := b2n en) hf (if_neg (ne_true_of_eq_false b2)) hi
      (by rwa [b0]) b1
    rw [b0] at ctrl
    exact ctrl_permitted hb hsub ho (by cases en <;> decide) (by rwa [b0]) ctrl
  case reset =>
    obtain ⟨b0, b1, b2⟩ := bit_softReset en
    have ctrl := writeCtrl_softReset (t := s.tim) (d := s.dev) (sub := sub) (w := 2 + b2n en) hf
      (if_neg (ne_true_of_eq_false b2)) hi (by rwa [b0]) b1 off ho.2.2.1
    rw [b0] at ctrl
    exact ctrl_permitted hb hsub ho (by cases en <;> decide) (by rwa [b0]) ctrl
  case lock =>
    have as_read : 4 + ctrlView s.dev b sub % 2 = 4 + b2n (blkSt s.dev b).enable := congrArg (4 + ·) (ctrlView_enable hi sub)
    show act s (isBlk b) (headWrite s.tim s.dev b sub .ctrl (4 + ctrlView s.dev b sub % 2)) = _
    rw [as_read]
    generalize on : (blkSt s.dev b).enable = en at hp
    obtain ⟨b0, b1, b2⟩ := bit_lock en
    have enabled_stays : b.kind ≠ .mac ∨ en = false ∨ (blkSt (wrAt s.dev b sub .ctrl 0 4) b).enable = true
        ∨ macMay (wrAt s.dev b sub .ctrl 0 4) b.inst = true := by
      cases en with
      | false => exact .inr (.inl rfl)
      | true => exact .inr (.inr (.inl on))
    have ctrl := writeCtrl_enable (t := s.tim) (d := s.dev) (sub := sub) (w := 4 + b2n en) hf (if_pos b2)
      ((innerLane_lock hb hsub 4).trans hi) (by rwa [b0]) b1
    rw [b0] at ctrl
    exact ctrl_permitted hb hsub ho (by cases en <;> decide) (by rwa [b0]) ctrl
  case clear => exact act_ok (decide_eq_true hb) (errStatusWrite_page hb hsub ho w.isLt again.toNat)
  case count =>
    have spot := spot_header b sub .violationCount hb hsub (.inr (.inr (.inl rfl)))
    have page : blkPage b sub = true := by simp [blkPage, hb, hsub]
    refine act_ok (decide_eq_true hb) ?_
    rw [headRead, if_pos page, bar0Read_open _ _ _ _ _ _ spot ho rfl (.inr (.inl rfl)) rfl, regRead_violationCount]

end Sys2Proof.Machine
end

section
/-! Proofs of the statement about table programs (spec/03, spec/04, spec/16): words of the key builder and of the chains,
directory entries, weights of groups, and accumulators (R75, R88, R97, R99, R358). -/
namespace Sys2Proof.Machine

/-- A command that writes a data register leaves what the register's handler `own` answers, where its page answers and the
write is permitted (R34, Table 2.12). -/
theorem dataWrite_ok {s : State} {ok : Bool} {b : Blk} {r : Reg} {w : Word} {own : Option Dev} {e : Dev} (hu : ok = true)
    (hs : Spot b (regSub r) r 0) (ho : Open s.dev b) (hr : reservedNow s.dev b r = false) (hi : innerLane s.dev b = false)
    (hm : ∀ lock, Half.whole.mask.land (accMask r (codeWrites lock)) ≠ 0)
    (handler : ∀ v, writeEffect s.tim s.dev b (regSub r) r 0 (regOff b (regSub r) r 0) .whole w.toNat v false = wrote own)
    (permitted : own = some e) : act s ok (hostWrite s.tim s.dev b r 0 w.toNat) = .next (settled s e) := by
  subst permitted
  exact act_ok hu (hostWrite_ok _ _ _ _ _ _ _ w.isLt hs ho hr (.inl hi) hm (handler _))

/-- A chain word is stored while its profile is unused and its index is a chain's; OP of a result word and CARRY_DST of a
STAGE_CTRL word are to be in range (R88, Tables 4.4 and 4.17). -/
theorem writeChain_stored {d : Dev} {c w : Nat} :
    let a := rd d ⟨.exm, c⟩ .exmChainAddr
    let pr := fld a 10 5
    let i := fld a 4 0
    i ≤ 25 → profileUsed d c pr = false → (i % 2 = 1 → fld w 63 60 ≠ 3 ∧ fld w 63 60 < 5) →
    (i % 2 = 0 → i ≠ 0 → fld w 50 44 ≤ 78) →
    writeChain d c w = some (wr (writeWord (memSet d .exmChain c (pr * 32 + i) w) ⟨.exm, c⟩ 5 (256 + pr * 32 + i))
      ⟨.exm, c⟩ .exmChainAddr (chainAdvance a)) := by
  intro a pr i index unused result stage
  refine if_neg ?_
  rcases Nat.mod_two_eq_zero_or_one i with even | odd
  · simpa [a, pr, i, unused, even] using ⟨index, stage even⟩
  · simpa [a, pr, i, unused, odd] using ⟨index, result odd⟩

/-- A directory entry is stored when its KIND is one, its TCAM blocks are no other table's, and a table that is held or named
keeps its VALID, KIND, LOCAL and blocks (R88, R100, Table 4.16). -/
theorem writeDir_stored {d : Dev} {c w : Nat} :
    let tid := rdF d ⟨.exm, c⟩ .exmDirAddr 7 0
    let u := w.land (rwMask .exmDirData)
    let old := memGet d .exmDir c tid
    fld u 62 60 < 4 → bit u 63 = false ∨ fld u 62 60 ≠ 3 ∨ blocksClash d c tid u = false →
    (fld old 63 59 = fld u 63 59 ∧ fld old 51 45 = fld u 51 45)
      ∨ (tableHeld d c tid = false ∧ tableNamed d c tid = false) →
    writeDir d c w = some (writeWord (memSet d .exmDir c tid u) ⟨.exm, c⟩ 5 tid) := by
  intro tid u old kind blocks free
  have kindOk : ¬ 4 ≤ fld u 62 60 := Nat.not_le.mpr kind
  have apart : (bit u 63 && fld u 62 60 == 3 && blocksClash d c tid u) = false := by
    rcases blocks with invalid | other | noClash
    · simp [invalid]
    · simp [other]
    · simp [noClash]
  have may : ((decide (fld old 63 59 ≠ fld u 63 59) || decide (fld old 51 45 ≠ fld u 51 45))
      && (tableHeld d c tid || tableNamed d c tid)) = false := by
    rcases free with ⟨same, sameBlocks⟩ | ⟨notHeld, notNamed⟩
    · simp [same, sameBlocks]
    · simp [notHeld, notNamed]
  refine if_neg ?_
  rw [decide_eq_false kindOk, apart, may]
  decide

/-- A key-builder word is stored while its profile is unused and its key is one of the 14; the field of an instruction with
a source lies in its key (R75, Table 3.15). -/
theorem writeKb_stored {d : Dev} {k w : Nat} :
    let a := rd d ⟨.prs, k⟩ .prsKbAddr
    let n := fld w 49 43
    let i := kbIx (fld a 13 8) (fld a 7 4) (fld a 3 0)
    fld a 7 4 ≤ 13 → profileInUse d k (fld a 13 8) = false → fld w 63 62 = 0 ∨ (n ≠ 0 ∧ fld w 42 36 + n ≤ 80) →
    writeKb d k w = some (wr (writeWord (memSet d .prsKb k i w) ⟨.prs, k⟩ 0 i) ⟨.prs, k⟩ .prsKbAddr (kbAdvance a)) := by
  intro a n i key unused field
  have keyOk : ¬ 13 < fld a 7 4 := Nat.not_lt.mpr key
  have fits : (fld w 63 62 != 0 && (n == 0 || decide (80 < fld w 42 36 + n))) = false := by
    rcases field with empty | ⟨long, inside⟩
    · simp [empty]
    · simp [long, inside]
  refine if_neg ?_
  rw [decide_eq_false keyOk, unused, fits]
  decide

/-- A weight that software writes, as EXM_WGT_DATA applies it to one cluster: no base value of Limitur and no weight kept by a
fence remains of the member (R99, R124, R337). -/
def writtenWeight (t : TimeState) (m w : Nat) (d : Dev) (c : Nat) : Dev :=
  weightWrite t (setFlt (clearBase d c m) { d.flt with saved := d.flt.saved.filter (fun x => !(x.1 == c && x.2.1 == m)) }) c m w

/-- EXM_WGT_DATA writes the weight of a member that no frozen partition owns, in one cluster or in all (R99, R124,
Table 4.18). -/
theorem writeWeight_clusters {t : TimeState} {d : Dev} {c w : Nat} :
    let a := rd d ⟨.exm, c⟩ .exmWgtAddr
    memberFrozen d (fld a 18 0) = false →
    writeWeight t d c w
      = some ((if bit a 63 then upto 0 8 else [c]).foldl (writtenWeight t (fld a 18 0) (w % 256)) d) :=
  fun thawed => if_neg (ne_true_of_eq_false thawed)

/-- A weight waits for the switch of a group that names its member (R99). -/
theorem weightWrite_waits {t : TimeState} {d : Dev} {c m w : Nat}
    (named : ∃ e ∈ d.entries, e.kind = 6 ∧ e.cluster = c ∧ groupHas e m = true) :
    weightWrite t d c m w = { d with wgtPend := d.wgtPend.filter (fun x => !(x.1 == c && x.2.1 == m)) ++ [(c, m, w)] } := by
  obtain ⟨e, he, kind, cluster, has⟩ := named
  exact if_pos (List.any_eq_true.mpr ⟨e, he, by simp [kind, cluster, has]⟩)

/-- It acts at once where no group names its member (R99). -/
theorem weightWrite_acts {t : TimeState} {d : Dev} {c m w : Nat}
    (unnamed : ∀ e ∈ d.entries, e.kind = 6 → e.cluster = c → groupHas e m = false) :
    weightWrite t d c m w = applyWeight t d c m w := by
  refine if_neg ?_
  simpa [and_imp] using unnamed

/-- The oldest flush queued for a cluster is applied while the stack of its counters is ON (R358). -/
theorem accFlush_oldest {t : TimeState} {d : Dev} {c : Nat} {a : Machine.Acc} (on : isOn d (stackFor d c) = true)
    (oldest : findFirst (fun a => a.cluster == c) d.fc.flush = some a) :
    accFlush t d c = applyFlush t (setFc d { d.fc with flush := eraseFirst (fun a => a.cluster == c) d.fc.flush }) a := by
  rw [accFlush, if_pos on, oldest]

/-- Settles O35: the handlers of the data registers, the two outcomes of a weight, its switch, and the oldest flush. -/
theorem tableProgramsAreStored : Obligations.TableProgramsAreStored := by
  unfold Obligations.TableProgramsAreStored
  refine ⟨fun s c w hc ho => ?cluster, fun t d c m w => ⟨weightWrite_waits, weightWrite_acts⟩,
    fun s c g hc => act_ok (decide_eq_true hc) rfl,
    fun s c a hc on oldest => act_ok (decide_eq_true hc) (accFlush_oldest on oldest),
    fun s k w hk ho key unused field => ?keys⟩
  case cluster =>
    refine ⟨fun index unused result stage => ?chain, fun kind blocks free => ?directory, fun thawed => ?weight⟩
    case chain =>
      have answers : reservedNow s.dev ⟨.exm, c⟩ .exmChainData = false := decide_eq_false (Nat.not_lt.mpr index)
      exact dataWrite_ok (decide_eq_true hc) (spot_of .exm .exmChainData 0 c hc (by decide)) ho answers rfl (by decide)
        (fun _ => rfl) (writeChain_stored index unused result stage)
    case directory =>
      exact dataWrite_ok (decide_eq_true hc) (spot_of .exm .exmDirData 0 c hc (by decide)) ho rfl rfl (by decide)
        (fun _ => rfl) (writeDir_stored kind blocks free)
    case weight =>
      have stored := dataWrite_ok (decide_eq_true hc) (spot_of .exm .exmWgtData 0 c hc (by decide)) ho rfl rfl (by decide)
        (fun _ => rfl) (writeWeight_clusters (t := s.tim) (w := w.toNat) thawed)
      refine ⟨fun one => ?_, fun all => ?_⟩
      · rwa [if_neg (ne_true_of_eq_false one)] at stored
      · rwa [if_pos all] at stored
  case keys =>
    exact dataWrite_ok (decide_eq_true hk) (spot_of .prs .prsKbData 0 k hk (by decide)) ho rfl rfl (by decide)
      (fun _ => rfl) (writeKb_stored key unused field)

end Sys2Proof.Machine
end

section
/-! Proofs of the statements of spec/04 about searches: the priority search of the TCAM, and whose entries a lookup finds (R77,
R79, R101, R102, R112). -/
namespace Sys2Proof.Machine

/-- The TCAM entries that a version sees and that match a key under their masks, of one table and one partition (R77, R100). -/
def tcamMatches (d : Dev) (v c tid part : Nat) (key : List Byte) : List Entry :=
  (seen d v 4 c).filter (fun e => e.tid == tid && e.part == part && tcamMatch d e (keyWords key 10))

section Priority
variable {d : Dev} {v c tid part dir : Nat} {key : List Byte}

/-- A search by priority finds, of the matches that can be read, the one that `bestPrio` picks (R101). -/
theorem searchTcam_hit (on : tcamOn d c dir = true) : (searchTcam d v c tid part dir key none).hit
    = bestPrio ((tcamMatches d v c tid part key).filter (fun e => !entryDead d e)) :=
  congrArg Found.hit (if_pos on)

/-- It says whether there were several (R101). -/
theorem searchTcam_multi (on : tcamOn d c dir = true) : (searchTcam d v c tid part dir key none).multi
    = decide (1 < ((tcamMatches d v c tid part key).filter (fun e => !entryDead d e)).length) :=
  congrArg Found.multi (if_pos on)

end Priority

/-- Settles O15: the search picks by `bestPrio`, whose winner is the least by PRIORITY and then by place. -/
theorem tcamLowestPriorityWins : Obligations.TcamLowestPriorityWins := by
  unfold Obligations.TcamLowestPriorityWins
  intro d v c tid p dir key on
  refine ⟨?none, ?several, fun e hit => ?winner⟩
  case none => rw [searchTcam_hit on]; exact bestPrio_none _
  case several => rw [searchTcam_multi on]; exact decide_eq_true_iff
  case winner => exact bestPrio_least _ e ((searchTcam_hit on).symm.trans hit)

/-- An entry that a lookup may find: of the frame's own partition (R77), in its cluster, and shown by its version (R112). -/
def OwnEntry (d : Dev) (v c part : Nat) (e : Entry) : Prop :=
  e.part = part ∧ e.cluster = c ∧ visible d v e = true ∧ e ∈ d.entries

section Own
variable {d : Dev} {v c tid part dir : Nat} {key : List Byte} {e : Entry}

/-- Entries that a version sees are own entries once their partition is compared. -/
theorem seen_own {kind : Nat} {ok : Entry → Bool} (compares : ∀ e, ok e = true → e.part = part) :
    ∀ e ∈ (seen d v kind c).filter ok, OwnEntry d v c part e := by
  intro e he
  obtain ⟨hseen, hok⟩ := List.mem_filter.mp he
  exact ⟨compares e hok, seen_mem hseen⟩

/-- A search among own entries hits an own entry. -/
theorem settleSearch_own {l : List Entry} {pick : List Entry → Option Entry} {bad : List (Blk × Nat × Nat)}
    (picks : ∀ l e, pick l = some e → e ∈ l) (own : ∀ e ∈ l, OwnEntry d v c part e)
    (hit : (settleSearch d l pick bad).hit = some e) : OwnEntry d v c part e :=
  own e (settleSearch_mem d l pick bad picks e hit).1

/-- What hits was searched: its block, or its table's blocks, are ON (R107). -/
theorem hit_searched {on : Bool} {r : Found} (hit : (if on then r else Found.miss).hit = some e) : r.hit = some e := by
  cases on
  · cases hit
  · exact hit

/-- An EM lookup finds own entries alone (R91). -/
theorem searchEm_own (hit : (searchEm d v c tid part key).hit = some e) : OwnEntry d v c part e := by
  refine settleSearch_own (fun _ _ => List.mem_of_head?) (seen_own fun e ok => ?_) (hit_searched hit)
  simp only [Bool.and_eq_true, beq_iff_eq] at ok
  exact ok.1.2

/-- A FLOW lookup finds own entries alone (R93). -/
theorem searchFlow_own (hit : (searchFlow d v c part key).hit = some e) : OwnEntry d v c part e := by
  refine settleSearch_own (fun _ _ => List.mem_of_head?) (seen_own fun e ok => ?_) (hit_searched hit)
  simp only [Bool.and_eq_true, beq_iff_eq] at ok
  exact ok.1.2

/-- An LPM lookup finds own entries alone (R96). -/
theorem searchLpm_own {six : Bool} (hit : (searchLpm d v c tid part key six).hit = some e) : OwnEntry d v c part e := by
  refine settleSearch_own longest_mem (seen_own fun e ok => ?_) (hit_searched hit)
  simp only [Bool.and_eq_true, beq_iff_eq] at ok
  exact ok.1.1.2

/-- The matches of a TCAM search are own entries. -/
theorem tcamMatches_own : ∀ e ∈ tcamMatches d v c tid part key, OwnEntry d v c part e := by
  refine seen_own fun e ok => ?_
  simp only [Bool.and_eq_true, beq_iff_eq] at ok
  exact ok.1.2

/-- A TCAM lookup finds own entries alone, by priority or stepping (R101, R102). -/
theorem searchTcam_own {start : Option Nat} (hit : (searchTcam d v c tid part dir key start).hit = some e) :
    OwnEntry d v c part e := by
  have hit := hit_searched hit
  cases start with
  | none => exact settleSearch_own (fun l e best => (bestPrio_least l e best).1) tcamMatches_own hit
  | some s => exact settleSearch_own lowestIx_mem (fun e he => tcamMatches_own e (List.mem_of_mem_filter he)) hit

end Own

/-- Settles O16: each of the four searches finds own entries alone. -/
theorem lookupsStayInTheirPartition : Obligations.LookupsStayInTheirPartition := by
  unfold Obligations.LookupsStayInTheirPartition
  rintro d v c tid p dir key six start e (em | flow | lpm | tcam)
  · exact searchEm_own em
  · exact searchFlow_own flow
  · exact searchLpm_own lpm
  · exact searchTcam_own tcam

end Sys2Proof.Machine
end

section
/-! Proofs of the statement about FLOW lookups that return and frames at VE (R86, R87, R90, R94, R136, R137, R140, R250). -/
namespace Sys2Proof.Machine

/-- The device once the oldest FLOW lookup of a cluster has left its queue (R87). -/
def flowTaken (d : Dev) (c : Nat) : Dev :=
  setFp d { d.fp with flow := eraseFirst (fun x => x.1 == c) d.fp.flow }

/-- What the FLOW lookup of a frame finds: the version is that of the frame's epoch (R93, R110). -/
def flowFound (d : Dev) (c : Nat) (f : Frame) : Found :=
  searchFlow d (epochVersion d (mEpoch f.sect)) c (mPart f.sect) f.k0

/-- The frame's result and the device once the words that the lookup met are read (R90). -/
def flowRead (t : TimeState) (d : Dev) (c : Nat) (f : Frame) : Res × Dev := resHurt t d f.res (flowFound d c f).bad

/-- The result of the entry that a FLOW lookup has found, and the device once it is made (R86). -/
def flowEntry (t : TimeState) (d : Dev) (c : Nat) (f : Frame) (e : Entry) : Res × Dev :=
  flowRes t (flowRead t d c f).2 (epochVersion d (mEpoch f.sect)) c (mLsHash f.sect) (mProfile f.sect) e

section Flow
variable {t : TimeState} {d : Dev} {c fid : Nat} {f : Frame}
  (hx : findFirst (fun x => x.1 == c) d.fp.flow = some (c, fid)) (hf : frameOf (flowTaken d c) fid = some f)
  (live : f.gone = false) (waits : f.hbm = true)
include hx hf live waits

/-- A lookup that returns while the stack is not ON is treated as its chain's HBM_LKP_BUSY option says (R94, R250). -/
theorem flowReturn_busy (off : isOn (flowTaken d c) (stackFor (flowTaken d c) c) = false) : flowReturn t d c
    = complete t (flowBusy (flowTaken d c) f f.res).2 fid (flowBusy (flowTaken d c) f f.res).1 := by
  rw [flowTaken] at hf off
  simp only [flowReturn, hx, hf, live, waits, off, flowTaken, Bool.not_false, Bool.not_true, Bool.or_false, Bool.false_eq_true,
    if_false, if_true]

section On
variable (on : isOn (flowTaken d c) (stackFor (flowTaken d c) c) = true)
include on

/-- One that meets an uncorrectable word discards its frame as TABLE_UE (R90). -/
theorem flowReturn_hurt (hurt : (flowRead t (flowTaken d c) c f).1.drop = 3 ∧ f.res.drop ≠ 3) : flowReturn t d c
    = complete t (flowRead t (flowTaken d c) c f).2 fid (flowRead t (flowTaken d c) c f).1 := by
  simp only [flowRead, flowFound, flowTaken] at hf on hurt ⊢
  simp only [flowReturn, hx, hf, live, waits, on, hurt, Bool.not_true, Bool.or_false, Bool.false_eq_true, if_false,
    ne_eq, not_false_eq_true, decide_true, Bool.and_self, if_true]

section Sound
variable (sound : ¬ ((flowRead t (flowTaken d c) c f).1.drop = 3 ∧ f.res.drop ≠ 3))
include sound

/-- One that misses leaves the result that the chain had (R86). -/
theorem flowReturn_miss (miss : (flowFound (flowTaken d c) c f).hit = none) : flowReturn t d c
    = complete t (flowRead t (flowTaken d c) c f).2 fid f.res := by
  simp only [flowRead, flowFound, flowTaken] at hf on sound miss ⊢
  simp only [flowReturn, hx, hf, live, waits, on, sound, miss, Bool.not_true, Bool.or_false, Bool.false_eq_true,
    Bool.and_eq_true, decide_eq_true_eq, if_false]

/-- One that hits takes the result of the entry alone (R86). -/
theorem flowReturn_hit {e : Entry} (hit : (flowFound (flowTaken d c) c f).hit = some e) : flowReturn t d c
    = complete t (flowEntry t (flowTaken d c) c f e).2 fid (flowEntry t (flowTaken d c) c f e).1 := by
  simp only [flowEntry, flowRead, flowFound, flowTaken] at hf on sound hit ⊢
  simp only [flowReturn, hx, hf, live, waits, on, sound, hit, Bool.not_true, Bool.or_false, Bool.false_eq_true,
    Bool.and_eq_true, decide_eq_true_eq, if_false]

end Sound
end On
end Flow

section Ve
variable {t : TimeState} {d : Dev} {f : Frame}

/-- A frame keeps its number past VE. -/
@[simp] theorem Frame.past_fid : f.past.fid = f.fid := rfl

/-- A frame that is due at VE is counted and decided on (R89, R136). -/
theorem verifyFrame_decides {fid : Nat} (hf : frameOf d fid = some f) (due : veEarly f = false)
    (awake : gated d (portSlice f.port) = false) (keep : mDrop f.past.sect = false) : verifyFrame t d fid
    = veDecide t (veCount (mapFrame d f.fid (fun _ => f.past)) f.past) f.past := by
  simp only [verifyFrame, hf, due, awake, keep, Frame.past_fid, Bool.or_self, Bool.false_eq_true, if_false]

/-- One that PA drops is discarded there (R136). -/
theorem verifyFrame_drops {fid : Nat} (hf : frameOf d fid = some f) (due : veEarly f = false)
    (awake : gated d (portSlice f.port) = false) (drop : mDrop f.past.sect = true) : verifyFrame t d fid
    = veDrop t (mapFrame d f.fid (fun _ => f.past)) f.past := by
  simp only [verifyFrame, hf, due, awake, drop, Frame.past_fid, Bool.or_self, Bool.false_eq_true, if_false, if_true]

/-- A result or a meter that drops the frame cancels its launch, or discards it (Table 6.2). -/
theorem veDecide_discards (out : f.res.drop ≠ 0 ∨ f.chg = 4) :
    veDecide t d f = if f.launch = 2 then cancel t d f else veDrop t d f :=
  if_pos (by simpa only [Bool.or_eq_true, decide_eq_true_eq] using out)

/-- A frame that goes on is confirmed when it was launched with the image of its result, and is admitted otherwise
(Table 6.2). -/
theorem veDecide_goes_on (keep : f.res.drop = 0) (green : f.chg ≠ 4) : veDecide t d f
    = if f.launch = 2 ∧ f.pred = f.image then veConfirm t (sampleFrame t d f) f else veAdmit t (sampleFrame t d f) f := by
  simp only [veDecide, keep, green, ne_eq, not_true_eq_false, decide_false, Bool.or_self, Bool.false_eq_true, if_false,
    Bool.and_eq_true, decide_eq_true_eq]

end Ve

/-- Settles O20: the branches of FLOW_LOOKUP_RESULT, of VERIFY and of what VE decides. -/
theorem flowLookupsAndVerification : Obligations.FlowLookupsAndVerification := by
  unfold Obligations.FlowLookupsAndVerification
  refine ⟨?flow, ?verify, ?decide⟩
  case flow =>
    intro s c fid f hc hx d v r h hf live waits
    have goes {d'} (e : flowReturn s.tim s.dev c = d') := act_ok (s := s) (decide_eq_true hc) e
    refine ⟨fun off => goes (flowReturn_busy hx hf live waits off), fun on => ⟨fun hurt => ?_, fun sound => ?_⟩⟩
    · exact goes (flowReturn_hurt hx hf live waits on hurt)
    · have sound : ¬ (h.1.drop = 3 ∧ f.res.drop ≠ 3) := by rwa [not_and_or, not_not]
      exact ⟨fun miss => goes (flowReturn_miss hx hf live waits on sound miss),
        fun e hit => goes (flowReturn_hit hx hf live waits on sound hit)⟩
  case verify =>
    exact fun s fid f hf due awake => ⟨fun keep => ends_ok (verifyFrame_decides hf due awake keep),
      fun drop => ends_ok (verifyFrame_drops hf due awake drop)⟩
  case decide =>
    refine fun t d f => ⟨veDecide_discards, fun keep green launched right => ?_, fun keep green other => ?_⟩
    · exact (veDecide_goes_on keep green).trans (if_pos ⟨launched, right⟩)
    · exact (veDecide_goes_on keep green).trans (if_neg (not_and_or.mpr other))

end Sys2Proof.Machine
end

section
/-! Proofs of the statement about TCAM blocks: searches by software and the shadow checker (R102, R105, R107). -/
namespace Sys2Proof.Machine

/-- A search of the TCAM table whose first block this is starts with GO: it takes the version of the cluster's copy of
VER_CURRENT, and the last result is no longer valid (Table 4.23). -/
theorem srchCtrl_starts {d : Dev} {b w : Nat} (go : fld w 63 63 = 1) (first : (tableAt d b).isSome = true) :
    srchCtrl d b w = some (wrF (memSet (wr d ⟨.tcm, b⟩ .tcmSrchCtrl (2 ^ 63 + w.land (0xFFF <<< 48 + 0x1FFFF <<< 16)))
      .tcmEpoch b 0 (unitVersion d (64 + b / 8) + 1)) ⟨.tcm, b⟩ .tcmSrchRes 63 63 0) := by
  have asked : bit w 63 = true := by rw [bit_eq_fld, go, beq_self_eq_true]
  have known : (tableAt d b).isNone = false := by rw [← Option.not_isSome, first, Bool.not_true]
  simp only [srchCtrl, asked, known, Bool.false_eq_true, if_false, if_true]

/-- The device once the search of a block is over: GO is clear and the search holds no version (Table 4.23). -/
def srchEnded (d : Dev) (b : Nat) : Dev := memSet (wrF d ⟨.tcm, b⟩ .tcmSrchCtrl 63 63 0) .tcmEpoch b 0 0

/-- What the search of a block finds in its table `tid`, with the partition, the key and, for a step, the start index that
the registers hold at its end (R102). -/
def srchFound (d : Dev) (b tid dir : Nat) : Found :=
  let w := rd d ⟨.tcm, b⟩ .tcmSrchCtrl
  searchTcam (srchEnded d b) (memGet d .tcmEpoch b 0 - 1) (b / 8) tid (fld w 59 48) dir
    (wordBytes ((upto 0 10).map (fun i => rd (srchEnded d b) ⟨.tcm, b⟩ .tcmSrchKey i)))
    (if bit w 32 then some (fld w 31 16) else none)

section Search
variable {t : TimeState} {d : Dev} {b : Nat} (runs : bit (rd d ⟨.tcm, b⟩ .tcmSrchCtrl) 63 = true)
include runs

/-- A search whose table is gone ends with a miss. -/
theorem srchDone_noTable (gone : tableAt (srchEnded d b) b = none) :
    srchDone t d b = wr (srchEnded d b) ⟨.tcm, b⟩ .tcmSrchRes (2 ^ 63) := by
  simp only [srchEnded] at gone ⊢
  simp only [srchDone, runs, gone, Bool.not_true, Bool.false_eq_true, if_false]

section Table
variable {tid dir : Nat} (table : tableAt (srchEnded d b) b = some (tid, dir))
include table

/-- A search that finds nothing ends with a miss (R102). -/
theorem srchDone_miss (miss : (srchFound d b tid dir).hit = none) : srchDone t d b
    = wr (hurtWords t (srchEnded d b) (srchFound d b tid dir).bad).2 ⟨.tcm, b⟩ .tcmSrchRes (2 ^ 63) := by
  simp only [srchFound, srchEnded] at table miss ⊢
  simp only [srchDone, runs, table, miss, Bool.not_true, Bool.false_eq_true, if_false]

/-- One that finds an entry ends with its index in the table, its PRIORITY, and whether there were several (R102). -/
theorem srchDone_hit {e : Entry} (hit : (srchFound d b tid dir).hit = some e) : srchDone t d b
    = wr (hurtWords t (srchEnded d b) (srchFound d b tid dir).bad).2 ⟨.tcm, b⟩ .tcmSrchRes
      (2 ^ 63 + 2 ^ 62 + b2n (srchFound d b tid dir).multi <<< 61 + (e.place - dirFirst dir * 8192) <<< 16 + prioOf e) := by
  simp only [srchFound, srchEnded] at table hit ⊢
  simp only [srchDone, runs, table, hit, Bool.not_true, Bool.false_eq_true, if_false]

end Table
end Search

/-- The words of the shadow copy of an entry of a block. -/
def shadowWords (i : Nat) : List Nat := upto (i * 22) 22

/-- The device once the checker has read the words of its row, which are row `i` of the copies (R105, R257). -/
def shadowRead (t : TimeState) (d : Dev) (b i : Nat) : Dev := (shadowWords i).foldl (scrubWord t ⟨.tcm, b⟩ 1) d

section Shadow
variable {t : TimeState} {d : Dev} {b : Nat} (on : isOn d ⟨.tcm, b⟩ = true) (checks : bit (rd d ⟨.tcm, b⟩ .tcmCfg) 7 = true)
include on checks

/-- The checker leaves a row that equals its copy, or whose copy cannot be read, and moves on (R105). -/
theorem shadowCheck_leaves {i : Nat} (row : preg d ⟨.tcm, b⟩ 0 .pos = i)
    (same : memGet (shadowRead t d b i) .tcmFlip b i = 0 ∨ (shadowWords i).any (fun w => isUe d ⟨.tcm, b⟩ 1 w) = true) :
    shadowCheck t d b = setPreg (shadowRead t d b i) ⟨.tcm, b⟩ 0 .pos ((i + 1) % 8192) := by
  simp only [shadowRead, shadowWords] at same ⊢
  rcases same with same | hurt
  · simp only [shadowCheck, on, checks, row, same, Bool.not_true, Bool.or_self, ne_eq, not_true_eq_false, decide_false,
      Bool.and_false, Bool.false_eq_true, if_false]
  · simp only [shadowCheck, on, checks, row, hurt, Bool.not_true, Bool.or_self, Bool.false_and, Bool.false_eq_true, if_false]

/-- It corrects a row that differs from a copy that can be read, reports it, and moves on (R105). -/
theorem shadowCheck_corrects {i : Nat} (row : preg d ⟨.tcm, b⟩ 0 .pos = i)
    (differs : memGet (shadowRead t d b i) .tcmFlip b i ≠ 0)
    (good : (shadowWords i).any (fun w => isUe d ⟨.tcm, b⟩ 1 w) = false) :
    shadowCheck t d b = setPreg (reportFault (memSet (shadowRead t d b i) .tcmFlip b i 0) 4 1 ⟨.tcm, b⟩ 0 i true)
      ⟨.tcm, b⟩ 0 .pos ((i + 1) % 8192) := by
  simp only [shadowRead, shadowWords] at differs good ⊢
  simp only [shadowCheck, on, checks, row, differs, good, Bool.not_true, Bool.not_false, Bool.or_self, Bool.false_eq_true,
    ne_eq, not_false_eq_true, decide_true, Bool.and_self, if_false, if_true]

end Shadow

/-- Settles O34: the start and the end of a search, and the two outcomes of a check. -/
theorem tcamSearchAndShadow : Obligations.TcamSearchAndShadow := by
  unfold Obligations.TcamSearchAndShadow
  intro s b hb
  have goes {d d'} (e : d = d') := act_ok (s := s) (ok := isBlk ⟨.tcm, b⟩) (decide_eq_true hb) e
  refine ⟨fun w ho go first => ?start, fun runs => ?finish, fun on checks => ?shadow⟩
  case start =>
    have goBit : fld w.toNat 63 63 = 1 := congrArg (· % 2) ((Nat.shiftRight_eq_div_pow w.toNat 63).trans go)
    refine goes (hostWrite_ok _ _ _ _ _ _ _ w.isLt (spot_of .tcm .tcmSrchCtrl 0 b hb (by decide)) ho rfl (.inl rfl)
      (by decide) ?_)
    show wrote (srchCtrl s.dev b (putFld (written s ⟨.tcm, b⟩ .tcmSrchCtrl w.toNat) 63 63 (fld w.toNat 63 63))) = _
    rw [goBit]
    exact congrArg wrote (srchCtrl_starts (fld_putFld _ 63 63 1) first)
  case finish =>
    exact ⟨fun gone => goes (srchDone_noTable runs gone), fun tid dir table =>
      ⟨fun miss => goes (srchDone_miss runs table miss), fun e hit => goes (srchDone_hit runs table hit)⟩⟩
  case shadow =>
    exact ⟨fun same => goes (shadowCheck_leaves on checks rfl same),
      fun differs good => goes (shadowCheck_corrects on checks rfl differs good)⟩

end Sys2Proof.Machine
end

section
/-! Proofs of the statement about epochs and drains (R109, R111, R114, R126). -/
namespace Sys2Proof.Machine

/-- A ring of a partition that the device has. -/
theorem isRing_lt {p r : Nat} (hp : p < 4096) (hr : r < 16) : isRing p r = true := by
  simp only [isRing, hp, hr, decide_true, Bool.and_self]

section Epochs
variable {t : TimeState} {d : Dev}

/-- A unit with nothing in flight of an old epoch sends the report that it owes (R111). -/
theorem epochReport_sends {u e : Nat} (hu : u < 72) (he : e < 8) (owes : owed d u e = 1) (old : e ≠ unitVersion d u % 8)
    (done : inFlight d u e = false) (here : unitAway d u = false) : epochReport d u e = setOwed d u e 2 :=
  if_pos (by simp only [hu, he, owes, old, done, here, ne_eq, not_false_eq_true, decide_true, Bool.not_false, Bool.and_self])

/-- A report that arrives is owed no longer, and retires what it can (R111). -/
theorem drained_retires {u e : Nat} (sent : owed d u e = 2) : drained t d u e = retireLoop 8 t (setOwed d u e 0) :=
  if_pos sent

/-- The ring's oldest VER_DRAIN completes once its version has drained (R109). -/
theorem verDrainDone_completes {p r x q n v : Nat}
    (first : findFirst (fun x => x.1 == p && x.2.1 == r) d.cmt.drainWaits = some (x, q, n, v))
    (past : hasDrained d v = true) :
    verDrainDone d p r = completeDesc { d with cmt := { d.cmt with
      drainWaits := eraseFirst (fun x => x.1 == p && x.2.1 == r) d.cmt.drainWaits } } p r n 0
        (cmtWord 0 0 false false 0 0) := by
  simp only [verDrainDone, first, past, if_true]

/-- A version that lives too long is reported (R126). -/
theorem drainSlow_reports (late : d.cmt.oldest ≠ verCurrent d) (limit : rdF d cmtBlk .cmtCfg 47 32 ≠ 0) :
    drainSlow t d = errFault t d cmtBlk 0 16 0 0 :=
  if_pos (by simp only [late, limit, ne_eq, not_false_eq_true, decide_true, Bool.and_self])

end Epochs

/-- Settles O41: the branch of each command that its hypotheses choose. -/
theorem epochsDrainAndSettle : Obligations.EpochsDrainAndSettle := by
  unfold Obligations.EpochsDrainAndSettle
  intro s
  refine ⟨?report, ?drained, ?settle, ?drain, ?slow⟩
  case report =>
    exact fun u e hu he owes old done here => act_ok (decide_eq_true hu) (epochReport_sends hu he owes old done here)
  case drained => exact fun u e hu sent => act_ok (decide_eq_true hu) (drained_retires sent)
  case settle => exact fun tag ht settling => act_ok (decide_eq_true ht) (if_pos settling)
  case drain =>
    intro p r x n v hp hr first past
    exact act_ok (isRing_lt hp hr) (verDrainDone_completes first past)
  case slow => exact fun late limit => ends_ok (drainSlow_reports late limit)

end Sys2Proof.Machine
end

section
/-! Proofs of the statement about assigning versions and the switch (R110, R119, R121, R122, R293). -/
namespace Sys2Proof.Machine

/-- The front batch waits for a reason: its ring's commit stalls, one of the device itself does not (Table 5.12). -/
def frontStalls (t : TimeState) (d : Dev) (b : Batch) (n : Nat) : Dev :=
  if b.internal then d else stallBegin t d b.part b.ring b.desc n

/-- The device once the front batch has its credits: its stall is over and it has left the queue (R121, R293). -/
def frontTaken (t : TimeState) (d : Dev) (b : Batch) (rest : List Nat) : Dev :=
  let d := takeCredits d b
  let d := if b.internal then d else stallEnd t d b.part b.ring b.desc
  { d with cmt := { d.cmt with queue := rest } }

section Assign
variable {t : TimeState} {d : Dev} {g : Nat} {rest : List Nat} {b : Batch}
  (on : isOn d cmtBlk = true) (room : roomForVersion d = true) (free : d.tw.rebase = none) (unheld : d.tw.held = [])
  (whole : d.tw.numbers.contains (64, (d.cmt.latest + 1) % 2 ^ 32) = false) (front : d.cmt.queue = g :: rest)
  (batch : batchOf d g = some b) (calm : ringSwitching d b = false)
include on room free unheld whole front batch calm

/-- With nothing of a pair in the way the engine looks at the front batch: at its number, and then at its credits (R121,
R122, R293). -/
theorem versionAssign_front : versionAssign t d =
    let v := (d.cmt.latest + 1) % 2 ^ 32
    if d.tw.hold = true ∨ attached d = true ∧ d.tw.numbers.contains (g, v) = false then frontStalls t d b 3
    else if d.cmt.credits = 0 ∨ b.internal = false ∧ partCredit d b.part = false then frontStalls t d b 2
    else assignVersion (setTw (frontTaken t d b rest) { (frontTaken t d b rest).tw with
      numbers := (frontTaken t d b rest).tw.numbers.filter (fun x => x.1 != g) }) v (some g) := by
  simp only [versionAssign, on, room, free, unheld, findFirst, whole, front, batch, calm, Bool.not_true, Bool.or_self,
    Bool.false_eq_true, if_false, frontStalls, frontTaken, Bool.not_or, Bool.not_not, Bool.or_eq_true, Bool.and_eq_true,
    Bool.not_eq_true', decide_eq_true_eq]

end Assign

/-- The oldest switch is over: its version is current, and CMT_COUNT counts it (Table 5.6). -/
def versionCurrent (t : TimeState) (d : Dev) (x : Switch) (rest : List Switch) : Dev :=
  count (wr (memSet { d with cmt := { d.cmt with switches := rest } } .verTick 0 (verCurrent d % 8) t.tick)
    cmtBlk .verCurrent x.version) (Ev.plain .cmt 0) 0 0 0 0

/-- The twin hears the verdict on its commit of this version (R123). -/
def verdictSent (d : Dev) (v : Nat) : Dev :=
  match d.tw.acks.find? (fun a => a.1 == v) with
  | some a => setTw (send d (.cersa (.commitAck a.1 a.2))) { d.tw with acks := d.tw.acks.filter (fun y => y.1 != a.1) }
  | none => d

/-- The batch of a switch, if it has one, is current (R118). -/
def batchEnded (t : TimeState) (d : Dev) (x : Switch) : Dev :=
  match x.tag.bind (batchOf d) with
  | some b => batchCurrent t d b
  | none => d

/-- A version that ends a cut-over attaches the pair (R313). -/
def cutEnded (t : TimeState) (d : Dev) (v : Nat) : Dev := if d.tw.cut = some v then cutDone t d v else d

section Switch
variable {t : TimeState} {d : Dev}

/-- The oldest tag that is not resolved is resolved (Table 5.6). -/
theorem tagResolveAck_resolves {x : Switch} (oldest : findFirst (fun x => !x.resolved) d.cmt.switches = some x) :
    tagResolveAck d = { d with cmt := { d.cmt with
      switches := mapIf (fun y => y.version == x.version) (fun y => { y with resolved := true }) d.cmt.switches } } := by
  simp only [tagResolveAck, oldest]

/-- A unit adopts the next version that is resolved, and is awaited no longer (R119). -/
theorem sliceAdopt_adopts {u : Nat} {x : Switch} (next : findFirst (fun x => x.units.contains u) d.cmt.switches = some x)
    (resolved : x.resolved = true) : sliceAdopt d u = adopt { d with cmt := { d.cmt with
      switches := mapIf (fun y => y.version == x.version) (fun y => { y with units := y.units.filter (fun z => z != u) })
        d.cmt.switches } } u x.version := by
  simp only [sliceAdopt, next, resolved, if_true]

/-- The oldest switch completes when it is resolved and awaits no unit (R119). -/
theorem switchComplete_ends {x : Switch} {rest : List Switch} (oldest : d.cmt.switches = x :: rest)
    (resolved : x.resolved = true) (adopted : x.units.any (fun u => !unitAway d u) = false) :
    switchComplete t d = retireLoop 8 t (cmtDown t (ackDetach
      (cutEnded t (batchEnded t (verdictSent (versionCurrent t d x rest) x.version) x) x.version))) := by
  simp only [switchComplete, oldest, resolved, adopted, Bool.not_true, Bool.or_self, Bool.false_eq_true, if_false]
  rfl

/-- The batch of a ring is current with its bases (R334). -/
theorem batchCurrent_ring {b : Batch} (ring : b.internal = false) :
    batchCurrent t d b = commitCurrent (commitBases d b.tag) b := by
  simp only [batchCurrent, ring, Bool.not_false, if_true]

/-- A commit outside a pair completes its changes and then itself (R118). -/
theorem commitCurrent_alone {b : Batch} (alone : b.joint = false)
    (unsourced : (endChanges d b 0 1 b.version).tw.source.contains b.part = false)
    (apart : attached (endChanges d b 0 1 b.version) = false) :
    commitCurrent d b = completeDesc (endChanges d b 0 1 b.version) b.part b.ring b.desc 0
      (cmtWord 0 0 false false (okCount b) b.version) := by
  simp only [commitCurrent, alone, unsourced, apart, Bool.false_and, Bool.or_self, Bool.false_eq_true, if_false]

end Switch

/-- Settles O42: what stands in the way of the front batch, the steps of a switch, and the credits that come back. -/
theorem versionsAreAssignedAndAdopted : Obligations.VersionsAreAssignedAndAdopted := by
  unfold Obligations.VersionsAreAssignedAndAdopted
  intro s
  refine ⟨?assign, ?resolve, ?adopt, ?complete, ?ring, ?alone, ?credit, ?partCredit⟩
  case assign =>
    intro g rest b on room free unheld whole front batch calm
    have looks := versionAssign_front (t := s.tim) on room free unheld whole front batch calm
    exact ⟨fun early => ends_ok (looks.trans (if_pos early)),
      fun mine poor => ends_ok (looks.trans ((if_neg mine).trans (if_pos poor))),
      fun mine rich => ends_ok (looks.trans ((if_neg mine).trans (if_neg rich)))⟩
  case resolve => exact fun x oldest => ends_ok (tagResolveAck_resolves oldest)
  case adopt => exact fun u x hu next resolved => act_ok (decide_eq_true hu) (sliceAdopt_adopts next resolved)
  case complete => exact fun x rest oldest resolved adopted => ends_ok (switchComplete_ends oldest resolved adopted)
  case ring => exact fun t d b ring => batchCurrent_ring ring
  case alone => exact fun d b alone unsourced apart => commitCurrent_alone alone unsourced apart
  case credit => exact ends_ok rfl
  case partCredit => exact fun p hp => act_ok (decide_eq_true hp) rfl

end Sys2Proof.Machine
end

section
/-! Proofs of the statement about the commit descriptors (R109, R115 to R119, R121). -/
namespace Sys2Proof.Machine

/-- Words that are zero hold no reserved bit (Table 5.3). -/
theorem words_zero {c : Desc} {l : List Nat} (zero : ∀ i ∈ l, dw c i = 0) :
    l.any (fun i => decide (dw c i ≠ 0)) = false := by
  simpa only [List.any_eq_false, decide_eq_true_eq, not_not] using zero

/-- The batch that a change of a ring joins, and the device with it: the open one, or a fresh one under a free tag (R115). -/
def joined (d : Dev) (p r : Nat) : Option (Batch × Dev) :=
  match openBatch d p r with
  | some b => some (b, d)
  | none => (freeTag d).map (fun g =>
      (freshBatch g p r false, { d with cmt := { d.cmt with batches := d.cmt.batches ++ [freshBatch g p r false] } }))

/-- A change has started, and its batch is stored with it. -/
def changeStarts (t : TimeState) (p r n : Nat) (d : Dev) (b : Batch) : Dev :=
  startDesc (setBatch (stallEnd t d p r n) b) p r n

/-- What the evaluation of a change leaves, as the next change of its batch (R116, R117). -/
def changeTaken (t : TimeState) (d : Dev) (b : Batch) (p r : Nat) (c : Desc) (img : List Byte) : Eval → Dev
  | .wait => stallBegin t d p r c.n 5
  | .ok e => changeStarts t p r c.n (writeWord e cmtBlk 0 (stageWord b.tag b.changes.length))
      { b with changes := b.changes ++ [⟨c.n, 1⟩], count := b.count + 1, log := b.log ++ [⟨c.words, img⟩] }
  | .tbl n => changeStarts t p r c.n d { b with changes := b.changes ++ [⟨c.n, n⟩], count := b.count + 1 }
  | .cmd n => changeStarts t p r c.n (if n = 7 then errFault t d cmtBlk 1 16 0 0 else d)
      { b with changes := b.changes ++ [⟨c.n, 16 + n⟩] }

section Descriptors
variable {t : TimeState} {d : Dev} {p r : Nat} {c : Desc} (on : isOn d cmtBlk = true)
include on

section Frozen
variable (frozen : frozenFor d p = true)
include frozen

/-- A ring of a frozen partition gets FROZEN for a change (R124). -/
theorem tblChange_frozen {img : Option (List Byte)} (next : nextOp d p r 0x20 = some c) :
    tblChange t d p r img = completeDesc d p r c.n 0 (cmtWord 3 0 false false 0 0) := by
  simp only [tblChange, next, on, frozen, Bool.not_true, Bool.false_eq_true, if_false, if_true]

/-- It gets FROZEN for a commit (R124). -/
theorem tblCommit_frozen (next : nextOp d p r 0x21 = some c) :
    tblCommit t d p r = completeDesc d p r c.n 0 (cmtWord 3 0 false false 0 0) := by
  simp only [tblCommit, next, on, frozen, Bool.not_true, Bool.false_eq_true, if_false, if_true]

/-- It gets FROZEN for an abort (R124). -/
theorem tblAbort_frozen (next : nextOp d p r 0x22 = some c) :
    tblAbort t d p r = completeDesc d p r c.n 0 (cmtWord 3 0 false false 0 0) := by
  simp only [tblAbort, next, on, frozen, Bool.not_true, Bool.false_eq_true, if_false, if_true]

/-- It gets FROZEN for a drain (R124). -/
theorem verDrain_frozen (next : nextOp d p r 0x23 = some c) :
    verDrain d p r = completeDesc d p r c.n 0 (cmtWord 3 0 false false 0 0) := by
  simp only [verDrain, next, on, frozen, Bool.not_true, Bool.false_eq_true, if_false, if_true]

end Frozen

section Thawed
variable (thawed : frozenFor d p = false)
include thawed

section Change
variable (next : nextOp d p r 0x20 = some c) {img : List Byte}
include next

/-- A change joins its batch with the status of a full one or the result of its evaluation, or waits for a tag (R115 to
R117). -/
theorem tblChange_thawed : tblChange t d p r (some img) = match joined d p r with
    | some (b, d') =>
      changeTaken t (touchDirs t d' c.words) b p r c img (if maxBatch d ≤ b.count then .cmd 8
        else evalChange t (touchDirs t d' c.words) b.tag p c.words (changeImage c.words img))
    | none => stallBegin t d p r c.n 4 := by
  simp only [tblChange, next, on, thawed, Bool.not_true, Option.isNone_some, Option.getD_some, Bool.false_and,
    Bool.false_eq_true, if_false, joined]
  cases openBatch d p r with
  | some b => rfl
  | none => cases freeTag d <;> rfl

/-- A change that finds a batch joins it, with a refusal when the batch is full (R115 to R117). -/
theorem tblChange_joins {b : Batch} {d' : Dev} (batch : joined d p r = some (b, d')) :
    tblChange t d p r (some img) = if maxBatch d ≤ b.count
      then changeStarts t p r c.n (touchDirs t d' c.words) { b with changes := b.changes ++ [⟨c.n, 24⟩] }
      else changeTaken t (touchDirs t d' c.words) b p r c img
        (evalChange t (touchDirs t d' c.words) b.tag p c.words (changeImage c.words img)) := by
  rw [tblChange_thawed on thawed next, batch]
  exact apply_ite (changeTaken t (touchDirs t d' c.words) b p r c img) ..

/-- One that finds every tag taken waits for a tag (R115). -/
theorem tblChange_waits (unopened : openBatch d p r = none) (full : freeTag d = none) :
    tblChange t d p r (some img) = stallBegin t d p r c.n 4 := by
  rw [tblChange_thawed on thawed next]
  simp only [joined, unopened, full, Option.map_none]

end Change

section Commit
variable (next : nextOp d p r 0x21 = some c) (form : fld (dw c 1) 60 0 = 0) (zero : ∀ i ∈ upto 2 6, dw c i = 0)
include next form zero

/-- A commit without an open batch has no version (Table 5.3). -/
theorem tblCommit_noBatch (unopened : openBatch d p r = none) :
    tblCommit t d p r = completeDesc d p r c.n 0 (cmtWord 0 0 false true 0 (verCurrent d)) := by
  have words := words_zero zero
  simp only [tblCommit, next, on, thawed, form, words, unopened, ne_eq, not_true_eq_false, decide_false, Bool.not_true,
    Bool.or_self, Bool.false_eq_true, if_false]

/-- A commit of an open batch reads its staged words: a batch that cannot be read, or an ALL batch with a failed change, is
discarded, one without a change too, and any other is queued (R118, R119). -/
theorem tblCommit_batch {b : Batch} (opened : openBatch d p r = some b) : tblCommit t d p r =
    let x := readWords t d cmtBlk 0 (stageWords b)
    let e := startDesc (queueBatch x.2 { b with
      desc := c.n, repl := replMode x.2 p (dw c 1), allOrNone := bit (dw c 1) 61 }) p r c.n
    if x.1 = true ∨ bit (dw c 1) 61 = true ∧ b.changes.any (fun y => y.tbl ≠ 1) = true
      then completeDesc (discardBatch t x.2 b 1) p r c.n 0 (cmtWord 1 0 false false 0 0)
    else if okCount b = 0
      then completeDesc (discardBatch t x.2 b 0) p r c.n 0 (cmtWord 0 0 false true 0 (verCurrent x.2))
    else if waitReason x.2 p = 0 then e else stallBegin t e p r c.n (waitReason x.2 p) := by
  have words := words_zero zero
  simp only [tblCommit, next, on, thawed, form, words, opened, ne_eq, not_true_eq_false, decide_false, Bool.not_true,
    Bool.or_self, Bool.false_eq_true, if_false, Bool.or_eq_true, Bool.and_eq_true]

end Commit

/-- An abort discards the ring's open batch, if there is one, and completes with OK (R118). -/
theorem tblAbort_discards (next : nextOp d p r 0x22 = some c) : tblAbort t d p r = completeDesc (match openBatch d p r with
    | some b => discardBatch t d b 1
    | none => d) p r c.n 0 (cmtWord 0 0 false false 0 0) := by
  cases opened : openBatch d p r <;>
    simp only [tblAbort, next, on, thawed, opened, Bool.not_true, Bool.false_eq_true, if_false]

/-- A drain starts and waits for its version (R109). -/
theorem verDrain_waits (next : nextOp d p r 0x23 = some c) (form : fld (dw c 1) 63 32 = 0)
    (zero : ∀ i ∈ upto 2 6, dw c i = 0) : verDrain d p r = startDesc { d with cmt := { d.cmt with
      drainWaits := d.cmt.drainWaits ++ [(p, r, c.n, fld (dw c 1) 31 0)] } } p r c.n := by
  have words := words_zero zero
  simp only [verDrain, next, on, thawed, form, words, ne_eq, not_true_eq_false, decide_false, Bool.not_true,
    Bool.or_self, Bool.false_eq_true, if_false]

end Thawed
end Descriptors

/-- Settles O43: the branches of each descriptor, for a frozen partition and for one that is not. -/
theorem commitDescriptorsComplete : Obligations.CommitDescriptorsComplete := by
  unfold Obligations.CommitDescriptorsComplete
  intro s p r c hp hr on
  have goes {d d'} (e : d = d') := act_ok (s := s) (isRing_lt hp hr) e
  refine ⟨fun frozen => ?frozen, fun thawed => ⟨?change, ?noTag, ?commit, ?noBatch, ?abort, ?drain⟩⟩
  case frozen =>
    exact ⟨fun img next => goes (tblChange_frozen on frozen next), fun next => goes (tblCommit_frozen on frozen next),
      fun next => goes (tblAbort_frozen on frozen next), fun next => goes (verDrain_frozen on frozen next)⟩
  case change =>
    intro img b d next batch
    have batch : joined s.dev p r = some (b, d) := by
      rcases batch with ⟨opened, rfl⟩ | ⟨unopened, g, tag, rfl, rfl⟩
      · simp only [joined, opened]
      · simp only [joined, unopened, tag, Option.map_some]
    exact goes (tblChange_joins on thawed next batch)
  case noTag => exact fun img next unopened full => goes (tblChange_waits on thawed next unopened full)
  case commit =>
    intro b next form zero opened
    have reads := tblCommit_batch (t := s.tim) on thawed next form zero opened
    exact ⟨fun lost => goes (reads.trans (if_pos lost)),
      fun kept empty => goes (reads.trans ((if_neg kept).trans (if_pos empty))),
      fun kept applied => goes (reads.trans ((if_neg kept).trans (if_neg applied)))⟩
  case noBatch => exact fun next form zero unopened => goes (tblCommit_noBatch on thawed next form zero unopened)
  case abort => exact fun next => goes (tblAbort_discards on thawed next)
  case drain => exact fun next form zero => goes (verDrain_waits on thawed next form zero)

end Sys2Proof.Machine
end

section
/-! Proofs of the statement about the numbers and commits of a pair (R122, R123, R315). -/
namespace Sys2Proof.Machine

/-- With Cersa ON only the state of the link decides whether a pair is in one of some states. -/
theorem twinIn_on {d : Dev} (on : isOn d cslBlk = true) (l : List Nat) : twinIn d l = l.contains (twinState d) := by
  rw [twinIn, on, Bool.true_and]

section Pair
variable {t : TimeState} {d : Dev} (on : isOn d cslBlk = true)
include on

/-- Role A grants the next number (R314). -/
theorem numberRequest_grants (paired : twinState d = 4) (roleA : roleB d = false) :
    numberRequest d = setTw (send d (.cersa (.numberGrant ((d.tw.seq + 1) % 2 ^ 32))))
      { d.tw with seq := (d.tw.seq + 1) % 2 ^ 32 } := by
  refine if_pos ?_
  rw [twinIn_on on, paired, roleA]; rfl

/-- Role B gives a number that it asked for to its first batch without one, or to none (R122). -/
theorem numberGrant_numbers {v : Nat} (paired : twinState d = 4) (role : roleB d = true) (asked : 0 < d.tw.asked) :
    numberGrant d v = setTw d { d.tw with
      asked := d.tw.asked - 1
      numbers := d.tw.numbers ++
        [((findFirst (fun g => !d.tw.numbers.any (fun x => x.1 == g)) d.cmt.queue).getD 64, v)] } := by
  refine if_pos ?_
  rw [twinIn_on on, paired, role, decide_eq_true asked]; rfl

/-- A commit as it arrives: its changes are lost when the buffer has no room for them (R317). -/
def arrives (d : Dev) (v p : Nat) (l : List RepChange) (lost : Bool) : Arrived :=
  ⟨v, p, l, lost || !replRoom d (commitSize l)⟩

section Commits
variable {v p : Nat} {l : List RepChange} {lost : Bool} (live : twinState d = 4 ∨ twinState d = 5)
include live

/-- A pair that is attached or detaching is not synced for the first time. -/
theorem twinIn_live : twinIn d [3] = false ∧ twinIn d [4, 5] = true := by
  rw [twinIn_on on, twinIn_on on]
  rcases live with h | h <;> rw [h] <;> decide

/-- A commit for a partition that is synced in keeps its changes to be replayed (R312). -/
theorem commitArrives_replays (synced : d.tw.sink.contains p = true) : commitArrives t d v p l lost = setTw d { d.tw with
    replay := if l = [] then d.tw.replay else d.tw.replay ++ [arrives d v p l lost]
    held := d.tw.held ++ [{ arrives d v p l lost with changes := [] }] } := by
  obtain ⟨old, here⟩ := twinIn_live on live
  simp only [commitArrives, old, here, synced, Bool.false_eq_true, if_false, if_true, arrives]

/-- Any other that does not end a RESYNC is held (R315). -/
theorem commitArrives_held (settled : d.tw.sink.contains p = false)
    (more : l ≠ [] ∨ lost = true ∨ d.tw.source.contains p = false) :
    commitArrives t d v p l lost = setTw d { d.tw with held := d.tw.held ++ [arrives d v p l lost] } := by
  obtain ⟨old, here⟩ := twinIn_live on live
  have goesOn : (decide (l = []) && (!lost && d.tw.source.contains p)) = false := by
    rcases more with changes | lost | unsourced
    · rw [decide_eq_false changes, Bool.false_and]
    · rw [lost, Bool.not_true, Bool.false_and, Bool.and_false]
    · rw [unsourced, Bool.and_false, Bool.and_false]
  simp only [commitArrives, old, here, settled, arrives, setTw_tw, Bool.and_assoc, goesOn, Bool.and_false, Bool.false_eq_true,
    if_false, if_true]

end Commits
end Pair

/-- An acknowledgement ends the wait of a commit, and completes one that is synchronous (R123, R315). -/
theorem replAck_ends {d : Dev} {v : Nat} {ok : Bool} {x : Sent}
    (waits : findFirst (fun x => x.version == v) d.tw.sent = some x) : replAck d v ok =
    let e := setTw d { d.tw with sent := eraseFirst (fun y => y == x) d.tw.sent }
    ackDetach (if x.sync then completeDesc e x.part x.ring x.desc 0 (cmtWord 0 0 (!ok) false x.okc v) else e) := by
  simp only [replAck, waits]

/-- Settles O44: what each message of the partner meets. -/
theorem twinNumbersAndCommits : Obligations.TwinNumbersAndCommits := by
  unfold Obligations.TwinNumbersAndCommits
  intro s on
  refine ⟨?request, ?grant, ?arrival, ?ack⟩
  case request => exact fun paired roleA => ends_ok (numberRequest_grants on paired roleA)
  case grant => exact fun v paired role asked => ends_ok (numberGrant_numbers on paired role asked)
  case arrival =>
    intro v p l lost hp live
    have goes {d'} (e : commitArrives s.tim s.dev v p l lost = d') := act_ok (s := s) (ok := isPart p) (decide_eq_true hp) e
    exact ⟨fun synced => goes (commitArrives_replays on live synced),
      fun settled more => goes (commitArrives_held on live settled more)⟩
  case ack =>
    intro v ok x waits
    have ends := replAck_ends (ok := ok) waits
    refine ⟨fun sync => ends_ok (ends.trans ?_), fun async => ends_ok (ends.trans ?_)⟩
    · simp only [sync, if_true]
    · simp only [async, Bool.false_eq_true, if_false]

end Sys2Proof.Machine
end

section
/-! Proofs of the statement about flushes of the prediction caches and replication fences (R148, R189). -/
namespace Sys2Proof.Machine

/-- The top bit of a register. -/
theorem bit_63 (n : Nat) : bit n 63 = (n / 2 ^ 63 % 2 == 1) := by
  rw [bit, Nat.shiftRight_eq_div_pow]

/-- A write of FDH_FLUSH in a page that answers leaves what its handler makes of it (Table 6.9). -/
theorem fdhFlush_ok {s : State} {c : Nat} {w : Word} {e : Dev} (hc : c < 8) (ho : Open s.dev (fdhBlk c))
    (handled : flushWrite s.tim s.dev c .whole w.toNat (written s (fdhBlk c) .fdhFlush w.toNat) = some e) :
    exec (.fdhFlush c w) s = .next (settled s e) :=
  act_ok (decide_eq_true hc) (hostWrite_ok _ _ _ _ _ _ _ w.isLt (spot_of .fdh .fdhFlush 0 c hc (by decide)) ho rfl (.inl rfl)
    (by decide) (congrArg wrote handled))

section Flush
variable {t : TimeState} {d : Dev} {c w v : Nat}

/-- GO starts a flush where none runs, and notes the tick from which its scan goes, set by set (R148). -/
theorem flushWrite_starts (go : bit w 63 = true) (idle : bit (rd d (fdhBlk c) .fdhFlush) 63 = false) :
    flushWrite t d c .whole w v
      = some (memSet (memSet (wr d (fdhBlk c) .fdhFlush v) .fdhRun 0 c v) .fdhRun 0 (8 + c) (t.tick + 1)) :=
  (if_pos go).trans (if_neg (ne_true_of_eq_false idle))

/-- A write without GO is stored, and starts nothing. -/
theorem flushWrite_stores (stays : bit w 63 = false) : flushWrite t d c .whole w v = some (wr d (fdhBlk c) .fdhFlush v) :=
  if_neg (ne_true_of_eq_false stays)

/-- The end of a flush takes the entries that it names, and GO (R148). -/
theorem flushComplete_ends (runs : bit (memGet d .fdhRun 0 c) 63 = true) : flushComplete d c =
    wrF (predDrop (memSet d .fdhRun 0 c 0)
      (fun k e => k / 262144 == c && (bit (memGet d .fdhRun 0 c) 62 || e.part == fld (memGet d .fdhRun 0 c) 11 0)))
      (fdhBlk c) .fdhFlush 63 63 0 :=
  if_pos runs

end Flush

/-- A write of GO to BPM_REPL_FENCE in a page that answers fences the replications in hand (R189). -/
theorem replFence_ok {s : State} {c : Nat} (hc : c < 8) (ho : Open s.dev ⟨.bpm, c⟩) :
    exec (.replFence c) s = .next (settled s (fenceGo s.dev c)) :=
  act_ok (decide_eq_true hc) (hostWrite_ok _ _ _ _ _ _ _ (by decide) (spot_of .bpm .bpmReplFence 0 c hc (by decide)) ho rfl
    (.inl rfl) (by decide) rfl)

/-- A fence is over once none of its replications is left (R189). -/
theorem fenceDone_ends {d : Dev} {c : Nat} (gone : d.fp.repls.any (fun r => r.cluster == c && r.fenced) = false) :
    fenceDone d c = wrF d ⟨.bpm, c⟩ .bpmReplFence 63 63 0 :=
  if_neg (ne_true_of_eq_false gone)

/-- Settles O28: what FDH_FLUSH makes of GO, and the two ends. -/
theorem flushesAndFencesComplete : Obligations.FlushesAndFencesComplete := by
  unfold Obligations.FlushesAndFencesComplete
  intro s c hc
  refine ⟨fun w ho go idle => ?start, fun w ho stays => ?store, fun runs => ?flushed, fun ho => replFence_ok hc ho,
    fun gone => act_ok (decide_eq_true hc) (fenceDone_ends gone)⟩
  case start => exact fdhFlush_ok hc ho (flushWrite_starts (by rw [bit_63, go]; rfl) idle)
  case store => exact fdhFlush_ok hc ho (flushWrite_stores (by rw [bit_63, stays]; rfl))
  case flushed => exact act_ok (decide_eq_true hc) (flushComplete_ends runs)

end Sys2Proof.Machine
end

section
/-! Proofs of the statement about the mode of a partition, its owners and its ranges (R149, R284, R285, R305). -/
namespace Sys2Proof.Machine

/-- A mark of a protected word stands beside the registers. -/
theorem rdAt_setMark (d : Dev) (b b' : Blk) (m w v sub i : Nat) (r : Reg) :
    rdAt (setMark d b m w v) b' sub r i = rdAt d b' sub r i := rfl

/-- A free value is taken from no register. -/
theorem rdAt_fresh (d : Dev) (b : Blk) (sub i : Nat) (r : Reg) : rdAt (fresh d).2 b sub r i = rdAt d b sub r i := rfl

/-- A flip is armed in a page of its block (Table 2.11). -/
theorem armedPage_lt {d : Dev} {b : Blk} {m sub : Nat} (armed : armedPage d b m = some sub) : sub < b.kind.info.span := by
  have page := (mem_upto _ _ _).mp (findFirst_mem _ _ _ armed)
  omega

/-- A word that is written changes no register but ERR_FLIP_C of the page whose flip it takes (Table 2.11). -/
theorem rdAt_writeWord {d : Dev} {b b' : Blk} {m w sub i : Nat} {r : Reg}
    (apart : ∀ j < b.kind.info.span, regKey b j .errFlipC 0 ≠ regKey b' sub r i) :
    rdAt (writeWord d b m w) b' sub r i = rdAt d b' sub r i := by
  unfold writeWord
  cases armed : armedPage d b m with
  | none => exact rdAt_setMark ..
  | some j =>
    have taken := rdAt_wrAt_ne d b b' j sub .errFlipC r 0 i (putFld (rdAt d b j .errFlipC 0) 31 31 0)
      (apart j (armedPage_lt armed))
    dsimp only
    split_ifs <;> simp only [rdAt_setMark, rdAt_fresh, setPreg, rdAt_memSetD, taken]

/-- A write of a word of the partition table leaves the partition that PART_SEL selects. -/
theorem partSel_writeWord (d : Dev) (m w : Nat) :
    rdF (writeWord d partBlk m w) partBlk .partSel 11 0 = rdF d partBlk .partSel 11 0 := by
  have apart : ∀ j < 64, regKey partBlk j .errFlipC 0 ≠ regKey partBlk (regSub .partSel) .partSel 0 := by decide
  exact congrArg (fld · 11 0) (rdAt_writeWord apart)

/-- SET_MODE of a partition that takes it, outside Crust mode and a transition, changes the mode at once (R305). -/
theorem setMode_begins {s : State} {p : Nat} (hp : p < 4096) (m : Bool) (ho : Open s.dev partBlk) (calm : crustState s.dev = 0)
    (live : (part s.dev p).st = 1 ∨ (part s.dev p).st = 6) (steady : (part s.dev p).trans = false) :
    let w := b2n m <<< 28 + p <<< 16 + 10
    exec (.setMode p m) s = .next (settled s (partSetMode (touch s.tim (partResult (wr (wr s.dev partBlk .partCmd
      (written s partBlk .partCmd w)) partBlk .partCmd w) false 0 10 p) partBlk 0 (partWord p 15)) p m)) := by
  intro w
  have small : w < 2 ^ 64 := (partCmd_word m p 10 hp (by decide)).1
  have allowed : partAllows (part s.dev p) 10 = true := by
    rcases live with h | h <;> simp [partAllows, h, steady]
  have effect := partCmdWrite_ok s p 10 m ⟨[], []⟩ hp (by decide) (fun _ => rfl) (fun _ => calm) allowed
  exact act_ok (decide_eq_true hp) (hostWrite_ok _ _ _ _ _ _ _ small (spot_of .part .partCmd 0 0 (by decide) (by decide)) ho rfl
    (.inl rfl) (by decide) (congrArg Wrote.ok effect))

/-- A transition ends once none of the partition's frames is on its way through the stages that the mode concerns
(Table 6.5). -/
theorem transitionEnd_ends {t : TimeState} {d : Dev} {p : Nat} (runs : (part d p).trans = true)
    (clear : ∀ f ∈ d.fp.frames, mPart f.sect = p → f.gone = false →
      f.launch = 0 ∧ f.verdict = 0 ∧ (f.pre = true → f.stage ≠ 1 ∧ f.adm = 0 ∧ f.rob = false)) :
    transitionEnd t d p = partEnd t (setPart d p { part d p with trans := false }) 0 10 p := by
  refine if_neg ?_
  rw [runs, Bool.not_true, Bool.false_or, List.any_eq_true]
  rintro ⟨f, hf, late⟩
  simp only [Bool.and_eq_true, beq_iff_eq, Bool.not_eq_true'] at late
  obtain ⟨⟨mine, here⟩, late⟩ := late
  obtain ⟨unlaunched, verified, done⟩ := clear f hf mine here
  cases before : f.pre with
  | false => simp [unlaunched, verified, before] at late
  | true =>
    obtain ⟨stage, admitted, released⟩ := done before
    simp [unlaunched, verified, stage, admitted, released] at late

section Ranges
variable {d : Dev} {k : RangeKind} {w : Nat}

/-- Partition 0 has no ranges: a write of one is ignored (R284). -/
theorem writeRange_partition0 (device : rdF d partBlk .partSel 11 0 = 0) : writeRange d k w = some d := if_pos device

/-- A range of the selected partition is stored where it fits and, but for programs, meets no other partition's (R284). -/
theorem writeRange_stored :
    let p := rdF d partBlk .partSel 11 0
    let u := w.land (rwMask (rangeReg k))
    let lo := fld u 31 0
    let n := fld u 63 32
    p ≠ 0 → lo + n ≤ rangeSize k →
    k = .prg ∨ (∀ e ∈ d.parts, e.1 ≠ p → e.1 ≠ 0 → e.2.st ≠ 0 → n = 0
      ∨ fld (rangeOf d e.1 k.ctorIdx) 63 32 = 0
      ∨ overlap lo n (fld (rangeOf d e.1 k.ctorIdx) 31 0) (fld (rangeOf d e.1 k.ctorIdx) 63 32) = false) →
    writeRange d k w = some (setPart d p { part d p with ranges := (part d p).ranges.set k.ctorIdx u }) := by
  intro p u lo n owned fits apart
  refine (if_neg owned).trans (if_neg ?_)
  have fit : ¬ rangeSize k < lo + n := Nat.not_lt.mpr fits
  rw [Bool.or_eq_true, decide_eq_true_eq, Bool.and_eq_true, decide_eq_true_eq, List.any_eq_true]
  rintro (long | ⟨shared, e, he, clash⟩)
  · exact fit long
  · simp only [Bool.and_eq_true, bne_iff_ne] at clash
    obtain ⟨⟨⟨⟨⟨other, owner⟩, live⟩, meets⟩, mine⟩, theirs⟩ := clash
    obtain programs | others := apart
    · exact shared programs
    · obtain empty | empty | clear := others e he other owner live
      · exact mine empty
      · exact theirs empty
      · exact absurd meets (ne_true_of_eq_false clear)

end Ranges

section Stores
variable {s : State} {w : Word} {e : Dev} (ho : Open s.dev partBlk)
include ho

/-- A write of a register of the partition table whose page answers leaves what its record's handler makes of it. -/
theorem recordWrite_ok {r : Reg} (place : Spot partBlk (regSub r) r 0) (answers : reservedNow s.dev partBlk r = false)
    (writable : ∀ lock, Half.whole.mask.land (accMask r (codeWrites lock)) ≠ 0)
    (handler : ∀ v, writeEffect s.tim s.dev partBlk (regSub r) r 0 (regOff partBlk (regSub r) r 0) .whole w.toNat v false
      = wrote (partRecWrite s.dev r v))
    (permitted : partRecWrite s.dev r (written s partBlk r w.toNat) = some e) :
    ends s (hostWrite s.tim s.dev partBlk r 0 w.toNat) = .next (settled s e) :=
  ends_ok (hostWrite_ok _ _ _ _ _ _ _ w.isLt place ho answers (.inl rfl) writable
    ((handler _).trans (congrArg wrote permitted)))

/-- A write of a PART_RANGE register whose page answers writes a word of the selected partition's record, and leaves what the
checks of the range make of it (log entry 162). -/
theorem rangeWrite_ok {k : RangeKind}
    (permitted : writeRange (writeWord s.dev partBlk 0 (partWord (rdF s.dev partBlk .partSel 11 0) (5 + k.ctorIdx))) k
      (written s partBlk (rangeReg k) w.toNat) = some e) :
    exec (.rangeWrite k w) s = .next (settled s e) := by
  cases k <;> exact recordWrite_ok ho (spot_of .part _ 0 0 (by decide) (by decide)) rfl (by decide) (fun _ => rfl) permitted

end Stores

/-- Settles O50: SET_MODE and the end of its transition, the two owners, and a range for each kind. -/
theorem modesOwnersAndRangesComplete : Obligations.ModesOwnersAndRangesComplete := by
  unfold Obligations.ModesOwnersAndRangesComplete
  refine ⟨fun s p hp => ⟨?mode, ?transition⟩, fun s w ho => ⟨?queues, ?port, fun k => ?range⟩⟩
  case mode => exact fun m ho calm live steady => setMode_begins hp m ho calm live steady
  case transition => exact fun runs clear => act_ok (decide_eq_true hp) (transitionEnd_ends runs clear)
  case queues =>
    intro b unused
    exact recordWrite_ok ho (spot_of .part .partQownData 0 0 (by decide) (by decide)) rfl (by decide) (fun _ => rfl)
      (if_neg (ne_true_of_eq_false unused))
  case port =>
    intro l off
    exact recordWrite_ok ho (spot_of .part .partPortData 0 0 (by decide) (by decide)) rfl (by decide) (fun _ => rfl)
      (if_neg (not_not_intro off))
  case range =>
    intro p d u lo n
    have same : rdF d partBlk .partSel 11 0 = p := partSel_writeWord ..
    refine ⟨fun device => rangeWrite_ok ho (writeRange_partition0 (same.trans device)),
      fun owned fits apart => rangeWrite_ok ho ?_⟩
    rw [← same] at owned apart ⊢
    exact writeRange_stored owned fits apart

end Sys2Proof.Machine
end

section
/-! Proofs of the statement about edit programs and the reload of their words (R168 to R170, R172, R258). -/
namespace Sys2Proof.Machine

section Descriptors
variable {t : TimeState} {d : Dev} {r : Nat} {c : Desc}

/-- A load of the device's own ring whose descriptor and payload pass every check completes at once when it holds no program,
and else stores its programs as LOADING and starts (R170, R171). -/
theorem editLoad_stores {payload : List Byte} {progs : List ProgImage} (next : nextOp d 0 r 0x28 = some c)
    (alone : loading d = false) (aligned : dw c 1 % 64 = 0) (reserved : fld (dw c 2) 63 20 = 0) (fits : dw c 2 ≤ 524288)
    (zero : ∀ i ∈ upto 3 5, dw c i = 0) (parsed : payloadProgs payload = some progs)
    (passed : loadCheck progs (usedRanges d) = none) :
    editLoad d 0 r .ok payload =
      if progs = [] then completeDesc d 0 r c.n 0 (editWord 0 0 0) else startDesc (storeProgs d progs 3) 0 r c.n := by
  have wellFormed : ¬ (dw c 1 % 64 ≠ 0 || fld (dw c 2) 63 20 ≠ 0 || 524288 < dw c 2
      || (upto 3 5).any (fun i => dw c i ≠ 0)) := by
    simp only [aligned, reserved, Nat.not_lt.mpr fits, words_zero zero, ne_eq, not_true_eq_false, decide_false, Bool.or_self,
      Bool.false_eq_true, not_false_eq_true]
  simp only [editLoad, next, alone, if_neg wellFormed, parsed, passed, ne_eq, not_true_eq_false, Bool.false_eq_true, if_false]

/-- A LIVE program that the device's own ring retires is RETIRING, and the scan for its predictions begins (R168). -/
theorem editRetire_retires (next : nextOp d 0 r 0x29 = some c) (form : fld (dw c 1) 63 12 = 0)
    (zero : ∀ i ∈ upto 2 6, dw c i = 0) (named : fld (dw c 1) 11 0 ≠ 0) (live : progState d (fld (dw c 1) 11 0) = 1) :
    editRetire t d 0 r =
      let prog := fld (dw c 1) 11 0
      completeDesc (memSet (sweep t (putProg d prog (putFld (progEntry d prog) 63 62 2))) .fdhRun 0 (16 + prog) (t.tick + 1))
        0 r c.n 0 (editWord 0 0 prog) := by
  have words := words_zero zero
  simp only [editRetire, next, form, words, named, live, ne_eq, not_true_eq_false, decide_false, Bool.or_self,
    Bool.false_eq_true, if_false]

end Descriptors

/-- A retired program that no entry and no slice names, and whose scans have ended, is FREE (R168). -/
theorem programFreed_frees {t : TimeState} {d : Dev} {p : Nat} (owned : p ≠ 0) (retired : progState d p = 2)
    (uncopied : progCopies d p = 0) (unnamed : ∀ k ∈ upto 0 64, progRef d k p = 0) (scanned : scanEnded t d p = true) :
    programFreed t d p = eventMgr t (putProg (memSet (sweep t d) .fdhRun 0 (16 + p) 0) p 0) 0x02 0 p 0 0 := by
  have unheld : (upto 0 64).all (fun k => progRef d k p == 0) = true :=
    List.all_eq_true.mpr fun k hk => beq_iff_eq.mpr (unnamed k hk)
  refine if_pos ?_
  simp only [retired, owned, uncopied, unheld, scanned, ne_eq, not_false_eq_true, decide_true, Bool.and_self]

/-- The unknown counts of a slice that holds no frame are rebuilt (R169). -/
theorem refRebuild_clears {d : Dev} {k : Nat}
    (empty : d.fp.copies.any (fun x => x.kind != 3 && x.kind != 4 && copySlice x == k) = false)
    (unread : d.fp.xfers.any (fun x => x.src == k && !x.dead) = false) :
    refRebuild d k = { d with
      mem := d.mem.filter (fun e => !(memKey .edtRef k 0 ≤ e.1 && e.1 < memKey .edtRef k 4096 && bit e.2 32)) } := by
  refine if_neg ?_
  rw [empty, unread]
  exact Bool.false_ne_true

section MachineCheck

/-- A reload is good when the word reads back good and the golden copy of it is (R172, R262). -/
def reloadGood (d : Dev) (n : Nat) (good : Bool) : Bool := good && !goldenBad d n

/-- A copy's grant goes on from this tick when the machine check, which began at a tick, came before its end (R172). -/
def grantAgain (t : TimeState) (began : Nat) (g : Grant) : Grant :=
  if !g.done && began < g.tick + 45 then { g with tick := t.tick } else g

/-- The word of a slice's machine check is reloaded, good or not, and the copies that the check held go on (R172, R173). -/
def reloaded (t : TimeState) (d : Dev) (k n : Nat) (ok : Bool) : Dev :=
  let e := endPend (if ok then memSet d .edtBad k n 0 else d) k n
  setFp e { e.fp with
    copies := mapIf (fun x => x.kind != 3 && x.kind != 4 && copySlice x == k)
      (fun x => { x with grant := x.grant.map (grantAgain t (memGet d .edtMcTime k 8193)) }) e.fp.copies }

/-- The machine check of a word of a slice is over, and is reported in a page: at level 1 in page 0, at level 2 in page 1
(R172). -/
def checkReported (t : TimeState) (d : Dev) (k n page : Nat) (hit : Bool) : Dev :=
  reportFault (errSet t (wrF (memSet d .edtMcTime k 8192 0) ⟨.edt, k⟩ .edtMcLog 62 62 page) ⟨.edt, k⟩ page) 5 (page + 1)
    ⟨.edt, k⟩ page (4 * n) hit

variable {t : TimeState} {d : Dev} {k : Nat} {good : Bool}

/-- The report at the level and in the page that an outcome gives. -/
theorem checkReported_b2n (up hit : Bool) (n : Nat) :
    reportFault (errSet t (wrF (memSet d .edtMcTime k 8192 0) ⟨.edt, k⟩ .edtMcLog 62 62 (b2n up)) ⟨.edt, k⟩ (if up then 1 else 0))
      5 (if up then 2 else 1) ⟨.edt, k⟩ (if up then 1 else 0) (4 * n) hit = checkReported t d k n (b2n up) hit := by
  cases up <;> rfl

/-- With no machine check, the reload that a scrub read asked for ends (R258). -/
theorem mcReloadDone_scrub (idle : memGet d .edtMcTime k 8192 = 0) : mcReloadDone t d k good = scrubReload d k good :=
  if_pos idle

/-- With a machine check, its word is reloaded and the check is reported, in page 1 when the reload was not good or the word's
last check was too short ago (R172). -/
theorem mcReloadDone_check {n : Nat} {up : Bool} (checks : memGet d .edtMcTime k 8192 = n + 1)
    (level : (!reloadGood d n good || memGet (reloaded t d k n (reloadGood d n good)) .edtMcTime k 8194 ≠ 0) = up) :
    mcReloadDone t d k good =
      checkReported t (reloaded t d k n (reloadGood d n good)) k n (b2n up) (bit (preg d ⟨.edt, k⟩ 0 .last) 61) := by
  subst level
  rw [mcReloadDone, checks]
  exact (if_neg n.succ_ne_zero).trans (checkReported_b2n ..)

end MachineCheck

/-- Settles O33: a load, a retirement and their ends, and what rebuilds the counts and the words of a slice. -/
theorem editProgramsComplete : Obligations.EditProgramsComplete := by
  unfold Obligations.EditProgramsComplete
  refine ⟨fun s r c hr => ⟨?load, ?retire⟩, ?loaded, ?freed, fun s k hk => ⟨?rebuilt, ?scrubbed, ?checked⟩⟩
  case load =>
    intro payload progs next alone aligned reserved fits zero parsed passed
    have stores := editLoad_stores next alone aligned reserved fits zero parsed passed
    have ring := isRing_lt (p := 0) (by decide) hr
    exact ⟨fun empty => act_ok ring (stores.trans (if_pos empty)), fun holds => act_ok ring (stores.trans (if_neg holds))⟩
  case retire =>
    intro next form zero prog named live
    exact act_ok (isRing_lt (by decide) hr) (editRetire_retires next form zero named live)
  case loaded => exact fun s loads => ends_ok (if_neg loads)
  case freed =>
    exact fun s p owned retired uncopied unnamed scanned =>
      ends_ok (programFreed_frees owned retired uncopied unnamed scanned)
  case rebuilt => exact fun empty unread => act_ok (decide_eq_true hk) (refRebuild_clears empty unread)
  case scrubbed => exact fun good idle => act_ok (decide_eq_true hk) (mcReloadDone_scrub idle)
  case checked =>
    intro n good checks b ok hit d again held e
    have goes (up : Bool) (level : (!ok || decide (memGet e .edtMcTime k 8194 ≠ 0)) = up) :
        exec (.mcReloadDone k good) s = .next (settled s (checkReported s.tim e k n (b2n up) hit)) :=
      act_ok (decide_eq_true hk) (mcReloadDone_check checks level)
    refine ⟨fun sound first => goes false ?_, fun failed => goes true ?_⟩
    · rw [sound, first]; rfl
    · rcases failed with bad | soon
      · rw [bad]; rfl
      · rw [decide_eq_true soon, Bool.or_true]

end Sys2Proof.Machine
end

section
/-! Proofs of the statement about the tables of scheduling and metering (R201, R205, R211, R216, Table 8.14). -/
namespace Sys2Proof.Machine

/-- A write that no cluster refuses acts in each cluster that it names (Tables 8.13, 8.14). -/
theorem eachCluster_some (d : Dev) (bcast : Bool) (c : Nat) (f : Dev → Nat → Dev) :
    eachCluster d bcast c (fun d c => some (f d c)) = some ((if bcast then upto 0 8 else [c]).foldl f d) := by
  unfold eachCluster
  generalize (if bcast then upto 0 8 else [c]) = l
  induction l generalizing d with
  | nil => rfl
  | cons c l ih => exact ih (f d c)

/-- A queue record is stored while its queue is idle, or when it changes the weight alone, and valid only for a queue that has
an owner; a finish time whose word cannot be read is forgotten (R205, R285, Table 11.3). -/
theorem writeQueue_stored {d : Dev} {k i w : Nat} :
    let u := w.land (rwMask .schQData)
    let q := k * 16384 + i
    let e := if isUe d ⟨.sch, k⟩ 0 i then setFp d { d.fp with
      wf := SMap.erase d.fp.wf (q * 4), heads := SMap.erase d.fp.heads (q * 4) } else d
    fld (memGetD d .schQ k i 1) 63 8 = fld u 63 8 ∨ queueBusy d q = false →
    bit u 63 = false ∨ (part d (queueOwner d q)).st ≠ 0 →
    writeQueue d k i w = some (writeWord (memSetD e .schQ k i 1 u) ⟨.sch, k⟩ 0 i) := by
  intro u q e idle owned
  refine if_neg ?_
  rw [Bool.or_eq_true, Bool.and_eq_true, Bool.and_eq_true, decide_eq_true_eq, beq_iff_eq]
  rintro (⟨changes, busy⟩ | ⟨valid, free⟩)
  · rcases idle with same | idle
    · exact changes same
    · exact ne_true_of_eq_false idle busy
  · rcases owned with invalid | owner
    · exact ne_true_of_eq_false invalid valid
    · exact owner free

/-- A profile is stored with the staged rates and bursts, and its buckets fill, when PBS is at least CBS and, in the mode of
RFC 2698, PIR is at least CIR (R216). -/
theorem writeMeter_stored {t : TimeState} {d : Dev} {k i w : Nat} :
    let u := w.land (rwMask .mtrProf)
    let x : Meter := ⟨u, rd d ⟨.mtr, k⟩ .mtrRate, rd d ⟨.mtr, k⟩ .mtrBurst, 0, 0, 0⟩
    bit u 62 = true ∨ x.cir ≤ x.pir → x.cbs ≤ x.pbs →
    writeMeter t d k i w = some ((upto (meterWord (bankMeter k i) 0) 4).foldl (fun d j => writeWord d ⟨.mtr, k⟩ 0 j)
      (setMeter d (k / 8) (bankMeter k i) (x.full t.tick))) := by
  intro u x rates bursts
  refine if_neg ?_
  rw [Bool.or_eq_true, Bool.and_eq_true, Bool.not_eq_true', decide_eq_true_eq, decide_eq_true_eq]
  rintro (⟨bounded, below⟩ | below)
  · rcases rates with apart | within
    · exact ne_true_of_eq_false bounded apart
    · exact Nat.not_lt.mpr within below
  · exact Nat.not_lt.mpr bursts below

/-- Settles O29: the handlers of the four data registers. -/
theorem schedulingTablesAreStored : Obligations.SchedulingTablesAreStored := by
  unfold Obligations.SchedulingTablesAreStored
  refine ⟨fun s c w hc ho named => ?sampler, fun s k w hk => ⟨fun ho => ⟨fun same owned => ?queue, ?group⟩, fun ho => ?meter⟩⟩
  case sampler =>
    intro a put
    have answers : reservedNow s.dev ⟨.bpm, c⟩ .bpmSmpData = false := beq_eq_false_iff_ne.mpr named
    have stored : exec (.samplerWrite c w) s = .next (settled s ((if bit a 63 then upto 0 8 else [c]).foldl put s.dev)) :=
      dataWrite_ok (decide_eq_true hc) (spot_of .bpm .bpmSmpData 0 c hc (by decide)) ho answers rfl (by decide)
        (fun _ => rfl) (eachCluster_some ..)
    refine ⟨fun one => ?_, fun all => ?_⟩
    · rwa [if_neg (ne_true_of_eq_false one)] at stored
    · rwa [if_pos all] at stored
  case queue =>
    exact dataWrite_ok (decide_eq_true hk) (spot_of .sch .schQData 0 k hk (by decide)) ho rfl rfl (by decide)
      (fun _ => rfl) (writeQueue_stored same owned)
  case group =>
    exact dataWrite_ok (own := some (writeGroup s.tim s.dev k _ _)) (decide_eq_true hk)
      (spot_of .sch .schGData 0 k hk (by decide)) ho rfl rfl (by decide) (fun _ => rfl) rfl
  case meter =>
    intro i u x rates bursts
    exact act_ok (decide_eq_true hk) (hostWrite_ok _ _ _ _ _ _ _ w.isLt (spot_of .mtr .mtrProf 0 k hk (by decide)) ho rfl
      (.inl rfl) (by decide) (congrArg wrote (writeMeter_stored rates bursts)))

end Sys2Proof.Machine
end

section
/-! Proofs of the statement about the spill engine, the auditor, copies for the host, and replication (R188, R190, R195 to R197,
R200, R202, R240, R244, R287, R288). -/
namespace Sys2Proof.Machine

/-- The words of a block are written to HBM, after the copies that a damaged word reaches are marked (R195, R198). -/
def blockWritten (t : TimeState) (d : Dev) (h : Blk) (b : SBlock) : Dev :=
  (upto 0 b.words).foldl (fun d w => writeWord d h 1 (512 * b.id + w)) (hurtCopies t (readBlock t d b).2 b (readBlock t d b).1)

/-- The pool's cells for the cells of a block that is to be read back; a block of records takes none (R196). -/
def readReserved (t : TimeState) (d : Dev) (q : Nat) (b : SBlock) : Dev :=
  let c := queueCluster q
  if b.isRec then d
  else setFp (poolAsk t d c 61 true) { (poolAsk t d c 61 true).fp with
    chains := (poolAsk t d c 61 true).fp.chains ++ [⟨readChain q b.id, c, 0, [], 16, 1, 0, true⟩] }

/-- The read of a closed block is outstanding; one whose write was queued has had it issued first (R240, R244). -/
def readIssued (t : TimeState) (d : Dev) (q : Nat) (b : SBlock) (h : Blk) : Dev :=
  countN (mapBlock (if b.st = 0 then countN (spillFlush t d q) (Ev.plain .hbm 0) h.inst 0 0 0 1 else d) q b.id
    (fun b => { b with st := 2 })) (Ev.plain .hbm 3) h.inst 0 0 0 1

section Spill
variable {t : TimeState} {d : Dev} {q : Nat} {b : SBlock}

/-- The oldest staged block of a queue is written while its stack is up, and is closed and counted (R195). -/
theorem spillFlush_writes (oldest : findFirst (fun b => b.queue == q && b.st == 0) d.fp.blocks = some b)
    (up : 2 ≤ (blkSt d (stackFor d (queueCluster q))).cur) :
    spillFlush t d q = countN (mapBlock (blockWritten t d (stackFor d (queueCluster q)) b) q b.id
      (fun b => { b with st := 1, shut := true })) (Ev.plain .hbm 2) (stackFor d (queueCluster q)).inst 0 0 0 1 := by
  rw [spillFlush, oldest]
  exact if_pos up

/-- A queue with room reads its next block back: an open one from staging, a closed one from HBM (R196, R240). -/
theorem spillRead_reads (next : findFirst (fun b => b.queue == q && b.st ≤ 1) d.fp.blocks = some b)
    (refill : queueCells d q < rdF d ⟨.bpm, queueCluster q⟩ .bpmSpillCfg 47 32)
    (room : b.isRec = true ∨ 16 ≤ poolFree d (queueCluster q) - poolRsv d (queueCluster q) - tailRsv d (queueCluster q))
    (few : countIf (fun b => b.queue == q && b.st == 2) d.fp.blocks < 4)
    (source : b.isOpen = true ∨ 2 ≤ (blkSt d (stackFor d (queueCluster q))).cur) :
    spillRead t d q = if b.isOpen then blockBack t (readReserved t d q b) b
      else readIssued t (readReserved t d q b) q b (stackFor d (queueCluster q)) := by
  rw [spillRead, next]
  refine if_pos ?_
  simpa only [Bool.and_eq_true, Bool.or_eq_true, decide_eq_true_eq] using ⟨⟨⟨refill, room⟩, few⟩, source⟩

/-- The oldest outstanding read of a queue brings its block back (R196, R240). -/
theorem spillReturn_restores (oldest : findFirst (fun b => b.queue == q && b.st == 2) d.fp.blocks = some b) :
    spillReturn t d q = reapFrames (blockBack t d b) := by
  rw [spillReturn, oldest]

end Spill

/-- Spill writes that are paced gain a token, up to 16 (R197). -/
theorem tokenRefill_adds {d : Dev} {c : Nat} (paced : wrCap d c ≠ 0) :
    tokenRefill d c = setTokens d c (min 16 (tokens d c + 1)) :=
  if_neg paced

/-- The cells that no owner reaches, each with the passes over its cluster that have found it suspect, one more now (R200). -/
def leaksSeen (d : Dev) (c : Nat) : List (Nat × Nat × Nat) :=
  d.fp.leaks.map (fun x => if x.1 = c then (x.1, x.2.1, x.2.2 + 1) else x)

/-- Those of the cluster that have been suspect on two passes: they return to the pool (R200). -/
def leaksBack (d : Dev) (c : Nat) : List (Nat × Nat × Nat) := (leaksSeen d c).filter (fun x => x.1 == c && 2 ≤ x.2.2)

/-- The device once the cells that leaked are returned and their link words are good (R200). -/
def leaksReturned (d : Dev) (c : Nat) : Dev :=
  (leaksBack d c).foldl (fun d x => setMark d ⟨.bpm, c⟩ 1 x.2.1 0)
    (setFp d { d.fp with leaks := (leaksSeen d c).filter (fun x => !(x.1 == c && 2 ≤ x.2.2)) })

/-- BPM_AUDIT has the length of the pass and counts what it returned; a count of the cluster that cannot be read is noted, or
rewritten where an earlier pass has noted it (R200, Table 11.2). -/
def auditNoted (d : Dev) (c us n : Nat) : Dev :=
  auditCounts (wr d ⟨.bpm, c⟩ .bpmAudit
    ((us % 2 ^ 32) <<< 32 + satAdd (2 ^ 32 - 1) (rdF d ⟨.bpm, c⟩ .bpmAudit 31 0) n)) c

/-- An audit pass of a pool that is ON returns what leaked, and reports each cell (R200). -/
theorem auditEnd_returns {t : TimeState} {d : Dev} {c us : Nat} (on : isOn d ⟨.bpm, c⟩ = true)
    (audits : bit (rd d ⟨.bpm, c⟩ .bpmCfg) 48 = true) :
    auditEnd t d c us = (leaksBack d c).foldl (fun d x => errFault t d ⟨.bpm, c⟩ 0 6 1 x.2.1)
      (auditNoted (leaksReturned d c) c us (leaksBack d c).length) := by
  refine if_neg ?_
  rw [on, audits]
  decide

section Delivery
variable {t : TimeState} {d : Dev} {x : Copy} {f : Frame} (hf : frameOf d x.fid = some f) (whole : f.tail = true)
include hf whole

/-- A Spore leaves with the bytes that its sampler captures once its frame's tail is in (R202). -/
theorem sporeDelivery_delivers {cid : Nat} (hx : copyOf d cid = some x) (spore : x.kind = 4) :
    let n := min (64 * (x.info.getD 3 0 + 1)) f.len
    sporeDelivery t d cid = deliver t d x f (f.bytes.take n) n := by
  simp only [sporeDelivery, hx, hf, spore, whole, ne_eq, not_true_eq_false, decide_false, Bool.not_true, Bool.or_self,
    Bool.false_eq_true, if_false]

/-- The oldest host copy of a partition leaves on the ring that PART_HOST names, or is counted as HOST_DROP while EN is 0
(R287, R288). -/
theorem hostDelivery_serves {p c : Nat}
    (oldest : findFirst (fun x => x.kind == 3 && x.part == p && x.cluster == c) d.fp.copies = some x) :
    hostDelivery t d p c =
      if bit (part d p).host 4 then deliver t d { x with info := x.info.set 2 (fld (part d p).host 3 0) } f f.bytes 0
      else killCopy t (countCopy d 0 x) x.cid := by
  simp only [hostDelivery, oldest, hf, whole, Bool.not_true, Bool.false_eq_true, if_false]

end Delivery

/-- The device once a replication whose chain is there leaves its queue; what the engines have finished by this tick no longer
takes them (R190). -/
def replTaken (t : TimeState) (d : Dev) (r : Repl) : Dev :=
  setFp d { d.fp with
    repls := eraseFirst (fun x => x == r) d.fp.repls
    engine := d.fp.engine.filter (fun e => t.tick < e.2) }

/-- What a cluster's engine has still to serve. -/
def engineBusy (d : Dev) (c : Nat) : List (Nat × Nat) := d.fp.engine.filter (fun e => e.1 == c)

/-- The device once the records of a replication's list are read (R189, R253). -/
def replRead (t : TimeState) (d : Dev) (c : Nat) (r : Repl) : Dev := (readSpan t d ⟨.bpm, c⟩ 4 (65536 + r.base) r.len).2

/-- The engine of a cluster is taken for as long as it makes `n` copies, after what it has still to serve (R190). -/
def engineTaken (t : TimeState) (d : Dev) (c n : Nat) (busy : List (Nat × Nat)) : Dev :=
  setFp d { d.fp with engine := d.fp.engine ++ [(c, busy.foldl (fun a e => max a e.2) t.tick + ceilDiv n 2)] }

/-- The copies of a replication are made: the chain on which the engine stands at the end, and the device (R188, R190). -/
def replMade (t : TimeState) (d : Dev) (c : Nat) (r : Repl) (f : Frame) : Option Nat × Dev :=
  (replTargets (replRead t d c r) r f.port).foldl (makeCopy t f f.image c)
    (some r.chain, engineTaken t (replRead t d c r) c (replTargets (replRead t d c r) r f.port).length (engineBusy d c))

/-- A replication that is done stores its frame's tail, where it is in, and lets go of the chain (R190). -/
def replDone (t : TimeState) (fid : Nat) (f : Frame) (made : Option Nat × Dev) : Dev :=
  let d := if f.tail then storeTail t made.2 fid else made.2
  settleFrame (match made.1 with
    | some k => releaseChain d k
    | none => d) fid

/-- The replication engine serves a replication whose chain is there: one that finds 4096 before it is lost and counted as
REPL_FULL, and any other has its copies made (R190). -/
theorem replArrival_serves {t : TimeState} {d : Dev} {fid c : Nat} {r : Repl} {f : Frame}
    (hr : findFirst (fun r => r.fid == fid && r.cluster == c) d.fp.repls = some r) (hf : frameOf d fid = some f)
    (chained : r.chain ≠ 0)
    (there : r.xfer = none ∨ ∃ x y, r.xfer = some x ∧ xferOf d x = some y ∧ y.phase = 3 ∧ 0 < y.arrived) :
    replArrival t d fid c =
      if 4096 ≤ (engineBusy (replTaken t d r) c).length then
        settleFrame (releaseChain (countN (replTaken t d r) evReplFull c 0 c (mPart f.sect) 1) r.chain) fid
      else replDone t fid f (replMade t (replTaken t d r) c r f) := by
  rw [replArrival, hr, hf]
  refine if_neg ?_
  rcases there with own | ⟨x, y, cross, hy, granted, arrived⟩
  · simp [own, chained]
  · simp [cross, hy, granted, arrived, chained]

/-- Settles O23: the branches of each command, as the rules above give them. -/
theorem spillAndDeliveryComplete : Obligations.SpillAndDeliveryComplete := by
  unfold Obligations.SpillAndDeliveryComplete
  intro s
  refine ⟨?flush, ?read, ?back, ?token, ?audit, ?spore, ?host, ?repl⟩
  case flush =>
    intro q b hq oldest h up
    exact act_ok (decide_eq_true hq) (spillFlush_writes oldest up)
  case read =>
    intro q b hq next c h refill room few source
    have reads := spillRead_reads (t := s.tim) next refill room few source
    refine ⟨fun opened => act_ok (decide_eq_true hq) (reads.trans (if_pos opened)), fun closed => ?_⟩
    exact act_ok (decide_eq_true hq) (reads.trans (if_neg (ne_true_of_eq_false closed)))
  case back => exact fun q b hq oldest => act_ok (decide_eq_true hq) (spillReturn_restores oldest)
  case token => exact fun c hc paced => act_ok (decide_eq_true hc) (tokenRefill_adds paced)
  case audit => exact fun c us hc on audits => act_ok (decide_eq_true hc) (auditEnd_returns on audits)
  case spore => exact fun cid x f hx hf spore whole => ends_ok (sporeDelivery_delivers hf whole hx spore)
  case host =>
    intro p c x f hp hc oldest hf whole
    have serves := hostDelivery_serves (t := s.tim) hf whole oldest
    have unit : (isPart p && isCluster c) = true := by simp only [isPart, isCluster, hp, hc, decide_true, Bool.and_self]
    exact ⟨fun enabled => act_ok unit (serves.trans (if_pos enabled)),
      fun off => act_ok unit (serves.trans (if_neg (ne_true_of_eq_false off)))⟩
  case repl =>
    intro fid c r f hc hr hf chained there
    have serves := replArrival_serves (t := s.tim) hr hf chained there
    exact ⟨fun full => act_ok (decide_eq_true hc) (serves.trans (if_pos full)),
      fun room => act_ok (decide_eq_true hc) (serves.trans (if_neg (Nat.not_le.mpr room)))⟩

end Sys2Proof.Machine
end

section
/-! Proofs of the statement about grants of SC, tails, verdicts and the end of a transmitted copy (R137, R139, R144, R145, R179,
R187, R199, R206, R228, R394). -/
namespace Sys2Proof.Machine

/-- The device once SC has taken what is void or can never fit from a port; in Crust mode gates are not looked at (R206, R223,
R228). -/
def looked (t : TimeState) (d : Dev) (port : Nat) : Dev := if crustState d = 0 then groom t d port else purgeVoids d

/-- SC discards the copy for its age rather than grant it (R199). -/
def tooOld (t : TimeState) (d : Dev) (x : Copy) : Bool := x.kind ≤ 2 && agedHead t d x

/-- The device once the copy that SC chose has been discarded for its age, and SC has looked at the port again (R199). -/
def lookedAgain (t : TimeState) (d : Dev) (port : Nat) (x : Copy) : Dev := looked t (ageOut t (looked t d port) port x) port

/-- SC's choice after a copy that was too old: granted, unless it is too old as well (R199, log entry 85). -/
def grantNext (t : TimeState) (d : Dev) (port : Nat) : Dev :=
  match choose t d port with
  | none => d
  | some (y, close, e) => if tooOld t d y then d else settleFrame (grantCopy t e y.cid close) y.fid

/-- When nothing is chosen, nothing is granted. -/
theorem grantNext_idle {t : TimeState} {d : Dev} {port : Nat} (empty : choose t d port = none) : grantNext t d port = d := by
  rw [grantNext, empty]

/-- The choice after a copy that was too old is granted when it is not too old itself. -/
theorem grantNext_chosen {t : TimeState} {d e : Dev} {port : Nat} {y : Copy} {close : Option Nat}
    (chosen : choose t d port = some (y, close, e)) :
    grantNext t d port = if tooOld t d y then d else settleFrame (grantCopy t e y.cid close) y.fid := by
  rw [grantNext, chosen]

section Grant
variable {t : TimeState} {d e : Dev} {port : Nat} {x : Copy} {close : Option Nat}
  (on : isOn d ⟨.sch, portSlice port⟩ = true) (active : slcState d (portSlice port) = 0)
include on active

/-- When nothing is chosen, nothing is granted (R206). -/
theorem scGrant_idle (empty : choose t (looked t d port) port = none) : scGrant t d port = looked t d port := by
  rw [looked] at empty
  simp only [scGrant, on, active, empty, looked, Bool.not_true, ne_eq, not_true_eq_false, decide_false, Bool.or_self,
    Bool.false_eq_true, if_false]

/-- The copy that SC chooses is granted, unless it is too old: then it is discarded, and SC looks at the next one; it waits
when the port has discarded another for its age in this clock (R199, R206, log entry 85). -/
theorem scGrant_chosen (chosen : choose t (looked t d port) port = some (x, close, e)) :
    scGrant t d port =
      if tooOld t (looked t d port) x then
        if !mayAge t (looked t d port) port then looked t d port else grantNext t (lookedAgain t d port x) port
      else settleFrame (grantCopy t e x.cid close) x.fid := by
  rw [looked] at chosen
  simp only [scGrant, on, active, chosen, Bool.not_true, ne_eq, not_true_eq_false, decide_false, Bool.or_self,
    Bool.false_eq_true, if_false]
  rfl

end Grant

/-- A copy was granted before its frame's tail, and is neither over nor to be discarded (R187). -/
def leavesEarly (fid : Nat) (x : Copy) : Bool :=
  x.fid == fid && (match x.grant with
    | some g => g.cut && !g.done && !g.drop
    | none => false)

/-- The frame is over its port's MTU (R394). -/
def overMtu (d : Dev) (f : Frame) : Bool := portMtu d f.port < f.len

/-- The device once the tail of a frame is counted and the frame is marked with what RX found; the hits that count bytes have
its true length (R179, R394). -/
def tailNoted (d : Dev) (fid : Nat) (f : Frame) (fcs fec : Bool) : Dev :=
  let e := mapFrame (tailCount d f fcs fec) fid
    (fun x => { x with tail := true, bad := !fcs || !fec || overMtu d f, fcsBad := !fcs })
  if f.stage = 2 && !mDrop f.sect && mLenSrc f.sect ≠ 0 then countHits e f 0 f.len else e

section Tail
variable {t : TimeState} {d : Dev} {fid : Nat} {f : Frame} {fcs fec : Bool}

/-- A tail that ends its frame leaves no copy to look at (R394). -/
theorem tailArrival_gone (gone : frameOf (frameTail t d fid fcs fec) fid = none) :
    tailArrival t d fid fcs fec = frameTail t d fid fcs fec := by
  rw [tailArrival, gone]

variable (hf : frameOf d fid = some f) (late : f.tail = false)
include hf late

/-- The copies that leave while the frame arrives end with its tail (R187). -/
theorem tailArrival_ends_copies {g : Frame} (hg : frameOf (frameTail t d fid fcs fec) fid = some g) (stored : g.tail = true) :
    tailArrival t d fid fcs fec = settleFrame (((frameTail t d fid fcs fec).fp.copies.filter (leavesEarly fid)).foldl
      (tailCopy t g) (frameTail t d fid fcs fec)) fid := by
  simp only [tailArrival, hf, hg, late, stored, Bool.not_false, Bool.and_self, if_true]
  rfl

/-- A frame shorter than 64 bytes is counted and forgotten (R394). -/
theorem frameTail_runt (short : f.len < 64) :
    frameTail t d fid fcs fec = setFp (countN d (Ev.plain .mac 3) f.port 0 0 0 1)
      { d.fp with frames := d.fp.frames.filter (fun x => x.fid != fid) } := by
  simp only [frameTail, hf, late, short, Bool.false_eq_true, if_false, if_true]

/-- A longer one is counted; a MAC control frame is consumed, one over the MTU that has not left is discarded, and any other
is stored (R179, R228, R394). -/
theorem frameTail_ends (long : 64 ≤ f.len) :
    frameTail t d fid fcs fec =
      if f.control then tailControl t (tailNoted d fid f fcs fec) f (fcs && fec && !overMtu d f)
      else if overMtu d f && !cutOut d fid then goOn t (killFrame t (tailNoted d fid f fcs fec) fid) f
      else tailStore t (tailNoted d fid f fcs fec) fid := by
  simp only [frameTail, hf, late, Nat.not_lt.mpr long, Bool.false_eq_true, if_false]
  rfl

end Tail

/-- A verdict takes effect in its egress slice, and the frames behind go on (R139). -/
theorem verdictArrival_applies {t : TimeState} {d : Dev} {fid : Nat} {f : Frame} (hf : frameOf d fid = some f)
    (sent : f.verdict ≠ 0) :
    verdictArrival t d fid = goOn t (settleFrame (applyVerdict t d fid f.verdict) fid) f := by
  simp only [verdictArrival, hf, sent, if_false]

/-- The copy's frame has left, stomped unless it is good and verified; one that ran past the close of its window is an error
of the slice's SCH (R144, R187, R223). -/
def txSent (t : TimeState) (d : Dev) (x : Copy) (f : Frame) (g : Grant) : Dev :=
  let port := copyPort d x
  let d := emit d x f g (g.stomp || f.bad || !x.verified)
  if overrun d x then
    countN (errFault t d ⟨.sch, portSlice port⟩ 2 20 0 0) (Ev.plain .sch 3) (portSlice port) (ixSpc port (copyTc d x)) 0 0 1
  else d

/-- A frame that has ended before its verdict is an error of its ingress FDH; its program is no longer held (R144, R145). -/
def txLate (t : TimeState) (d : Dev) (x : Copy) (f : Frame) : Dev :=
  let c := portCluster f.port
  let d := countFdh (errFault t d (fdhBlk c) 2 19 0 0) 9 c (mPart f.sect) 1
  match x.refAt with
  | some k => dropRef t d k x.prog
  | none => d

/-- The end of a granted copy sends it; a copy whose verdict is still to come waits for it, and any other is dropped (R144,
R145). -/
theorem txFrameEnd_sends {t : TimeState} {d : Dev} {cid : Nat} {x : Copy} {f : Frame} {g : Grant}
    (hx : copyOf d cid = some x) (hf : frameOf d x.fid = some f) (granted : x.grant = some g) (out : x.st = 2)
    (going : g.done = false) (kept : g.drop = false) (whole : f.tail = true) (left : begun t d x g = true) :
    txFrameEnd t d cid =
      if !x.verified && !(x.refAt.isNone && x.kind ≠ 5) then
        mapCopy (txLate t (txSent t d x f g) x f) cid (fun y => { y with refAt := none, grant := some { g with done := true } })
      else settleFrame (dropCopy t (txSent t d x f g) cid) x.fid := by
  simp only [txFrameEnd, hx, granted, hf, out, going, kept, whole, left, Bool.not_true, ne_eq, not_true_eq_false, decide_false,
    Bool.or_self, Bool.false_eq_true, if_false]
  rfl

/-- Settles O22: the branches of a grant, of a tail, and of the end of a copy. -/
theorem grantsTailsAndVerdictsComplete : Obligations.GrantsTailsAndVerdictsComplete := by
  unfold Obligations.GrantsTailsAndVerdictsComplete
  refine ⟨?grant, fun s fid f a b hf late => ?tail, fun s fid f hf sent => ends_ok (verdictArrival_applies hf sent), ?txEnd⟩
  case grant =>
    intro s port hp on active look old d goes
    have goes {d'} (e : scGrant s.tim s.dev port = d') := act_ok (s := s) (ok := isPort port) (decide_eq_true hp) e
    refine ⟨fun empty => goes (scGrant_idle on active empty), fun x close e chosen => ?_⟩
    have chooses := scGrant_chosen on active chosen
    refine ⟨fun young => goes (chooses.trans (if_neg (ne_true_of_eq_false young))), fun old spent => ?_, fun old may => ?_⟩
    · exact goes (chooses.trans ((if_pos old).trans (if_pos (congrArg not spent))))
    · have ages := chooses.trans ((if_pos old).trans (if_neg (ne_true_of_eq_false (congrArg not may))))
      refine ⟨fun empty => goes (ages.trans (grantNext_idle empty)), fun y close e chosen => ⟨fun old => ?_, fun young => ?_⟩⟩
      · exact goes (ages.trans ((grantNext_chosen chosen).trans (if_pos old)))
      · exact goes (ages.trans ((grantNext_chosen chosen).trans (if_neg (ne_true_of_eq_false young))))
  case tail =>
    refine ⟨fun gone => ends_ok (tailArrival_gone gone), fun g hg stored => ends_ok (tailArrival_ends_copies hf late hg stored),
      fun short => frameTail_runt hf late short, fun long => ?_⟩
    have ends := frameTail_ends (t := s.tim) (fcs := a) (fec := b) hf late long
    refine ⟨fun control => ends.trans (if_pos control), fun plain exceeds stays => ?_, fun plain goesOn => ?_⟩
    · refine ends.trans ((if_neg (ne_true_of_eq_false plain)).trans (if_pos ?_))
      rw [overMtu, exceeds, stays]
      rfl
    · refine ends.trans ((if_neg (ne_true_of_eq_false plain)).trans (if_neg ?_))
      rw [overMtu]
      rcases goesOn with within | out
      · rw [within, Bool.false_and]
        decide
      · rw [out, Bool.not_true, Bool.and_false]
        decide
  case txEnd =>
    intro s cid x g f hx hf granted out going kept whole left
    have sends := txFrameEnd_sends hx hf granted out going kept whole left
    refine ⟨fun settled => ends_ok (sends.trans (if_neg ?_)), fun unverified held => ends_ok (sends.trans (if_pos ?_))⟩
    · rcases settled with verified | ⟨undone, plain⟩
      · simp [verified]
      · simp [undone, plain]
    · rcases held with ref | crust
      · simp [unverified, Option.isSome_iff_ne_none, ref]
      · simp [unverified, crust]

end Sys2Proof.Machine
end

section
/-! Proofs of the statements about device time (R217, R379): what changes it, and that it stays a time. -/
namespace Sys2Proof.Machine

/-- Device time at reset is a time (R379). -/
theorem legalTime_reset : legalTime TimeState.reset.now := by unfold legalTime; decide

/-- A system reset leaves a time (R217, R379). -/
theorem legalTime_timeReset (t : TimeState) : legalTime (timeReset t).now := legalTime_reset

/-- Applying a request leaves a time: a step leaves one, and an increment leaves device time as it is (R217). -/
theorem legalTime_timeApply {t : TimeState} (h : legalTime t.now) (d : Dev) : legalTime (timeApply t d).1.now := by
  unfold timeApply
  dsimp only
  split
  case isTrue none_waits => exact h
  case isFalse waits =>
    split
    case isTrue step => exact legalTime_stepTime _ h _
    case isFalse incr => exact h

/-- How a command ends leaves a time (R217). -/
theorem legalTime_settled {s : State} (h : legalTime s.tim.now) (d : Dev) : legalTime (settled s d).tim.now := by
  rcases settled_tim s d with same | reset
  · rwa [same]
  · rw [reset]
    exact legalTime_timeReset s.tim

/-- Every command settles its effect on a device time that is a time (R217): its own, one to which a request was applied, or
that of power-on. -/
theorem exec_settles_on_legalTime {s : State} (h : legalTime s.tim.now) (c : Instr) :
    ∃ tm d, exec c s = .next (settled { s with tim := tm } d) ∧ legalTime tm.now := by
  by_cases apply : c = .timeAdjustApply
  · subst apply
    exact ⟨_, _, rfl, legalTime_timeApply h s.dev⟩
  · by_cases power : ∃ a b r n, c = .powerOnReset a b r n
    · obtain ⟨a, b, r, n, rfl⟩ := power
      exact ⟨_, _, rfl, legalTime_reset⟩
    · obtain ⟨tm, d, ran, same⟩ := exec_settles c s
      have tim : tm = s.tim := same apply fun a b r n e => power ⟨a, b, r, n, e⟩
      exact ⟨tm, d, ran, tim ▸ h⟩

/-- A tick leaves a time (R217). -/
theorem legalTime_idle {s : State} (h : legalTime s.tim.now) : legalTime (idle s).tim.now := by
  unfold idle
  split
  case isTrue unpowered => exact h
  case isFalse powered =>
    split
    case isTrue early => exact h
    case isFalse runs => exact legalTime_settled (s := { s with tim := advance s.tim }) (legalTime_advance s.tim) _

/-- Settles O6: a step is a tick or a command, and each leaves a time. -/
theorem deviceTimeStaysLegal : Obligations.DeviceTimeStaysLegal := by
  unfold Obligations.DeviceTimeStaysLegal
  intro s t h ran
  unfold step at ran
  split at ran
  case h_1 empty =>
    cases ran
    exact legalTime_idle h
  case h_2 c rest front =>
    obtain ⟨tm, d, ends, legal⟩ := exec_settles_on_legalTime (s := { s with pending := rest }) h c
    cases ends.symm.trans ran
    exact legalTime_settled legal d

/-- Settles O5: any other command settles on device time as it was. -/
theorem onlyTheseCommandsChangeTime : Obligations.OnlyTheseCommandsChangeTime := by
  unfold Obligations.OnlyTheseCommandsChangeTime
  intro c s t ran noApply noPower
  obtain ⟨tm, d, ends, same⟩ := exec_settles c s
  obtain rfl := same noApply noPower
  cases ends.symm.trans ran
  exact settled_tim s d

end Sys2Proof.Machine
end

section
/-! Proof of the statement about how a command ends (R206, R320, R379). -/
namespace Sys2Proof.Machine

/-- Settles O8: nothing that is owed is carried out, and serving the ports anew changes finish times alone. -/
theorem settlingChangesFinishTimesAlone : Obligations.SettlingChangesFinishTimesAlone := by
  unfold Obligations.SettlingChangesFinishTimesAlone
  intro s d noReset noDetach
  have calm : settled s d = done s d := settled_calm s d noDetach noReset
  refine ⟨calm, ?_⟩
  rw [calm]
  exact ⟨rfl, rfl, settleSched_served s.tim d⟩

end Sys2Proof.Machine
end

section
/-! Proof of the statement about what a meter passes as green (R213, R214). -/
namespace Sys2Proof.Machine

/-- What a charge passes as green (R214), in units of the buckets: its length when it is green, and nothing
when it is not. -/
def chargeGreen (x : Meter) (e : Nat × Nat × Nat) : Nat :=
  if (meterCharge x e.1 e.2.1 e.2.2).1 = 1 then e.1 * unitsPerByte else 0

/-- The committed bucket pays for what a charge passes as green: with what is left in it, that is no more than was in it and
what CIR has added (R214). -/
theorem chargeGreen_paid (x : Meter) (e : Nat × Nat × Nat) :
    chargeGreen x e + (meterCharge x e.1 e.2.1 e.2.2).2.tc ≤ x.tc + (e.2.2 - x.last) * x.cir := by
  obtain ⟨-, -, -, -, left, green⟩ := meterCharge_bounds x e.1 e.2.1 e.2.2
  have refill := (meterRefill_bounds x e.2.2).1
  unfold chargeGreen
  split
  case isTrue isGreen =>
    have paid := green isGreen
    omega
  case isFalse notGreen => omega

/-- A charge leaves the rate of a meter, and notes its tick (R214). -/
theorem meterCharge_cir_last (x : Meter) (len colour t : Nat) :
    (meterCharge x len colour t).2.cir = x.cir ∧ (meterCharge x len colour t).2.last = t := by
  obtain ⟨last, rate, -⟩ := meterCharge_bounds x len colour t
  exact ⟨congrArg (fld · 23 0) rate, last⟩

/-- After a charge no bucket is over its size (R214). -/
theorem meterCharge_within (x : Meter) (len colour t : Nat) :
    (meterCharge x len colour t).2.tc ≤ x.cbs ∧ (meterCharge x len colour t).2.tp ≤ x.pbs := by
  obtain ⟨-, -, -, peak, committed, -⟩ := meterCharge_bounds x len colour t
  obtain ⟨-, tc, tp⟩ := meterRefill_bounds x t
  exact ⟨committed.trans tc, peak.trans tp⟩

/-- Charges in the order of their ticks pass as green no more than the committed bucket held at first and what CIR has added
since (R214), by induction on the charges: each pays for itself from the bucket. -/
theorem greenUnits_le (l : List (Nat × Nat × Nat)) : ∀ (x : Meter) (t : Nat), inTickOrder x.last l → x.last ≤ t →
    (∀ e ∈ l, e.2.2 ≤ t) → greenUnits x l ≤ x.tc + (t - x.last) * x.cir := by
  induction l with
  | nil => exact fun x t _ _ _ => Nat.zero_le _
  | cons e l ih =>
    intro x t order _ past
    obtain ⟨now, later⟩ := order
    obtain ⟨cir, last⟩ := meterCharge_cir_last x e.1 e.2.1 e.2.2
    have due : e.2.2 ≤ t := past e List.mem_cons_self
    have rest := ih (meterCharge x e.1 e.2.1 e.2.2).2 t (by rwa [last]) (by rwa [last])
      (fun f hf => past f (List.mem_cons_of_mem e hf))
    rw [cir, last] at rest
    have first := chargeGreen_paid x e
    have whole : (e.2.2 - x.last) * x.cir + (t - e.2.2) * x.cir = (t - x.last) * x.cir := by
      rw [← Nat.add_mul, Nat.add_comm, Nat.sub_add_sub_cancel due now]
    show chargeGreen x e + greenUnits _ l ≤ _
    omega

/-- Settles O17: the committed bucket pays for every charge, and it holds no more than its size. -/
theorem greenStaysWithinTheCommittedRate : Obligations.GreenStaysWithinTheCommittedRate := by
  unfold Obligations.GreenStaysWithinTheCommittedRate
  refine ⟨fun x l t order start past => ?_, meterCharge_within⟩
  have bound := greenUnits_le l x t order start past
  exact ⟨bound, fun full => bound.trans (Nat.add_le_add_right full _)⟩

end Sys2Proof.Machine
end

section
/-! Proof of the statement about gate lists (R220, R221, R223, R224). -/
namespace Sys2Proof.Machine

/-- In Crust mode gates are not looked at (R228). -/
theorem gateOpens_crust {d : Dev} (crust : crustState d ≠ 0) (t : TimeState) (port : Nat) : gateOpens t d port = d :=
  if_pos crust

/-- Outside Crust mode the heads that do not fit the window that opens are discarded and counted (R223). -/
theorem gateOpens_normal {d : Dev} (normal : crustState d = 0) (t : TimeState) (port : Nat) :
    gateOpens t d port = (portHeads d port).foldl (fun d x =>
      if eligibleButGate t d x && tooLong t d x then
        killCopy t
          (unsetF (countN d (Ev.plain .sch 2) (portSlice port) (ixSpc port (copyTc d x)) 0 0 1) (qKey x.queue)) x.cid
      else d) d :=
  if_neg (not_not_intro normal)

/-- A pending list whose instant has come takes over (R221). -/
theorem gateTakeover_due {t : TimeState} {d : Dev} {port y : Nat} (instant : takeoverAt d port = some y)
    (due : y ≤ dtNum t.now) :
    gateTakeover t d port = setGate d port ⟨1 - (gateOf d port).oper, (gateOf d port).enable, none⟩ := by
  simp only [gateTakeover, instant, due, if_true]

/-- A dozing slice that is not waking records the cause and wakes (R326). -/
theorem wakeSlice_dozing {d : Dev} {n : Nat} (dozing : slcState d n = 1) (asleep : memGet d .slcWake 0 n = 0) (cause : Nat) :
    wakeSlice d n cause = memSet (wrF d ⟨.slc, n⟩ .slcPwrStat 3 0 cause) .slcWake 0 n cause := by
  simp [wakeSlice, dozing, asleep]

/-- The wake moment of a window asks the slice to wake, with cause 4, for a port that keeps that option and has frames
(R224). -/
theorem gateWake_asks {d : Dev} {port : Nat} (keeps : bit (rd d ⟨.sch, portSlice port⟩ .schPort (port % 16)) 32 = true)
    (frames : d.fp.copies.any
      (fun x => x.kind != 3 && x.kind != 4 && copyPort d x == port && (x.st == 1 || x.st == 3)) = true) :
    gateWake d port = wakeSlice d (portSlice port) 4 := by
  simp only [gateWake, keeps, frames, Bool.and_self, if_true]

/-- The gates of a port read as they were stored. -/
@[simp] theorem gateOf_setGate (d : Dev) (port : Nat) (g : Gate) : gateOf (setGate d port g) port = g :=
  SMap.get_set_same ..

/-- A gate list is as it was after a store of a port's gates. -/
theorem listOk_setGate (d : Dev) (p : Nat) (g : Gate) (port l : Nat) : listOk (setGate d p g) port l = listOk d port l := rfl

/-- A GO of a good list, with none pending, makes it pending: it takes over 1 µs on at the earliest (R221). -/
theorem gateCtrl_go {t : TimeState} {d : Dev} {port w : Nat} (go : bit w 63 = true) (free : (gateOf d port).pend = none)
    (good : listOk d port (1 - (gateOf d port).oper) = true) :
    gateCtrl t d port w =
      (setGate (setGate d port ⟨(gateOf d port).oper, bit w 0, none⟩) port
        ⟨(gateOf d port).oper, bit w 0, some (dtNum t.now + 1000 * 2 ^ 32)⟩, true) := by
  simp [gateCtrl, go, free, good, listOk_setGate, instant]

/-- What the bus makes of an answer of `gateCtrl`: a write that is refused is one of which a part is permitted (R221). -/
def gateWrote (x : Dev × Bool) : Wrote := if x.2 then .ok x.1 else .part x.1

/-- A write of SCH_GATE_CTRL acts on the port that SCH_GATE_ADDR names, with GO as it was written (R221). -/
theorem writeEffect_gateCtrl (t : TimeState) (d : Dev) (n sub i off : Nat) (h : Half) (w v : Nat) (sm : Bool) :
    writeEffect t d ⟨.sch, n⟩ sub .schGateCtrl i off h w v sm
      = gateWrote (gateCtrl t d (gatePort d n) (putFld v 63 63 (fld w 63 63))) := by
  show (match gateCtrl t d (gatePort d n) (putFld v 63 63 (fld w 63 63)) with
    | (d, true) => Wrote.ok d
    | (d, false) => Wrote.part d) = _
  obtain ⟨e, permitted⟩ := gateCtrl t d (gatePort d n) (putFld v 63 63 (fld w 63 63))
  cases permitted <;> rfl

/-- The bits of the word by which a write of SCH_GATE_CTRL acts: GO, and ENABLE as it was written (Table 2.12). -/
theorem gateGo_word (s : State) (n w : Nat) (go : w / 2 ^ 63 = 1) :
    let v := putFld (written s ⟨.sch, n⟩ .schGateCtrl w) 63 63 (fld w 63 63)
    bit v 63 = true ∧ bit v 0 = decide (w % 2 = 1) := by
  have goes : fld w 63 63 = 1 := congrArg (· % 2) ((Nat.shiftRight_eq_div_pow w 63).trans go)
  have bits : definedBits ⟨.sch, n⟩ .schGateCtrl = definedBits ⟨.sch, 0⟩ .schGateCtrl := rfl
  have plain : plainField ⟨.sch, n⟩ .schGateCtrl 0 0 = true := by
    rw [plainField, bits]
    decide
  have enable : fld (written s ⟨.sch, n⟩ .schGateCtrl w) 0 0 = fld w 0 0 := fld_written_rw _ _ _ _ _ _ plain
  refine ⟨?_, ?_⟩
  · rw [bit_eq_fld, fld_putFld, goes]
    decide
  · rw [bit_eq_fld, fld_putFld_ne _ _ _ _ _ _ (.inr (by decide)), enable]
    rfl

/-- Settles O24: the branches of each command. -/
theorem gateListsTakeOver : Obligations.GateListsTakeOver := by
  unfold Obligations.GateListsTakeOver
  refine ⟨fun s port hp => ?gates, fun s slice w hs ho go => ?go⟩
  case gates =>
    have goes {d d'} (e : d = d') := act_ok (s := s) (ok := isPort port) (decide_eq_true hp) e
    exact ⟨fun normal => goes (gateOpens_normal normal s.tim port), fun crust => goes (gateOpens_crust crust s.tim port),
      fun y instant due => goes (gateTakeover_due instant due),
      fun keeps frames dozing asleep => goes ((gateWake_asks keeps frames).trans (wakeSlice_dozing dozing asleep 4))⟩
  case go =>
    intro port free good
    obtain ⟨goes, enable⟩ := gateGo_word s slice w.toNat go
    have ctrl := gateCtrl_go (t := s.tim) goes free good
    rw [enable] at ctrl
    refine act_ok (decide_eq_true hs) (hostWrite_ok _ _ _ _ _ _ _ w.isLt
      (spot_of .sch .schGateCtrl 0 slice hs (by decide)) ho rfl (.inl rfl) (by decide) ?_)
    rw [writeEffect_gateCtrl]
    exact congrArg gateWrote ctrl

end Sys2Proof.Machine
end

section
/-! Proof of the statement about device time's requests, reads and pulses (R217, R219, R231, R387). -/
namespace Sys2Proof.Machine

/-- What a request does depends on the requests that wait alone, which serving the ports anew leaves (R206, R217). -/
theorem timeApply_settleSched (t u : TimeState) (d : Dev) : (timeApply t (settleSched u d)).1 = (timeApply t d).1 := by
  have same (i : Nat) : memGet (settleSched u d) .timReq 0 i = memGet d .timReq 0 i :=
    memGet_settleSched u d .timReq 0 i (by decide)
  unfold timeApply
  simp only [same]
  split <;> rfl

/-- TIME_ADJUST_APPLY ends with the request applied when nothing is owed (R217). -/
theorem timeAdjustApply_done {s : State} (calm : Calm s) :
    exec .timeAdjustApply s = .next (done { s with tim := (timeApply s.tim s.dev).1 } (timeApply s.tim s.dev).2) := by
  obtain ⟨noReset, noDetach⟩ := calm
  obtain ⟨reset, twin⟩ := timeApply_rest (t := s.tim) (d := s.dev)
  exact ends_done (reset.trans noReset) ((congrArg Twin.acked twin).trans noDetach)

/-- A request that stands alone, made by a command that owes nothing, takes effect when it is applied next (R217). -/
theorem timeAdjustApply_asked {s : State} {d : Dev} (noReset : d.resetReq = false) (noDetach : d.tw.acked = false)
    (first : memGet d .timReq 0 0 = 0) (free : memGet d .timReq 0 1 = 0) {k : Nat} (kind : k = 1 ∨ k = 2) (v : Nat) :
    ∃ u, exec .timeAdjustApply (done s (timeAsk d k v)) = .next u ∧
      u.tim = if k = 1 then
          { s.tim with now := stepTime s.tim.now v, hist := [(s.tim.tick, dtNum (stepTime s.tim.now v), s.tim.incr)] }
        else { s.tim with incr := v, hist := (s.tim.tick, dtNum s.tim.now, v) :: s.tim.hist } := by
  have calm : Calm (done s (timeAsk d k v)) := by
    refine ⟨?_, ?_⟩
    · rw [done_dev, settleSched_resetReq]
      exact noReset
    · rw [done_dev, settleSched_tw]
      exact noDetach
  refine ⟨_, timeAdjustApply_done calm, ?_⟩
  exact (timeApply_settleSched s.tim s.tim _).trans (timeApply_ask s.tim d k v first free kind)

/-- A write of a register of device time by a command whose effect `e` owes nothing. -/
theorem timWrite_done {s : State} {r : Reg} {w : Word} {e : Dev} (ho : Open s.dev timBlk) (hs : Spot timBlk (regSub r) r 0)
    (hr : reservedNow s.dev timBlk r = false) (hm : ∀ lock, Half.whole.mask.land (accMask r (codeWrites lock)) ≠ 0)
    (he : writeEffect s.tim s.dev timBlk (regSub r) r 0 (regOff timBlk (regSub r) r 0) .whole w.toNat
      (written s timBlk r w.toNat) false = .ok e)
    (noReset : e.resetReq = false) (noDetach : e.tw.acked = false) :
    ends s (hostWrite s.tim s.dev timBlk r 0 w.toNat) = .next (done s e) := by
  rw [hostWrite_ok _ _ _ _ _ _ _ w.isLt hs ho hr (.inl rfl) hm he]
  exact ends_done noReset noDetach

/-- A write of STEP makes a request of the offset (R217). -/
theorem timeStep_asks {s : State} (calm : Calm s) (ho : Open s.dev timBlk) (w : Word) :
    exec (.timeStep w) s = .next (done s (timeAsk s.dev 1 w.toNat)) :=
  timWrite_done ho (spot_of .tim .timStep 0 0 (by decide) (by decide)) rfl (by decide) rfl calm.1 calm.2

/-- A write of INCR stores the increment and makes a request of it (R217). -/
theorem timeIncrWrite_asks {s : State} (calm : Calm s) (ho : Open s.dev timBlk) (w : Word) :
    exec (.timeIncrWrite w) s = .next (done s (timeAsk (wr s.dev timBlk .timIncr (written s timBlk .timIncr w.toNat)) 2
      (written s timBlk .timIncr w.toNat))) :=
  timWrite_done ho (spot_of .tim .timIncr 0 0 (by decide) (by decide)) rfl (by decide) rfl calm.1 calm.2

/-- The low word of a time goes out, and the high one is kept in a register for the next read (R231). -/
def timeAnswered (d : Dev) (low : Nat) (r : Reg) (high : Nat) : Dev := answer (wr d timBlk r high) low

/-- A read of NOW_NS gives the fraction and the nanoseconds, and keeps the seconds in NOW_S (R231). -/
theorem regRead_timNowNs (t : TimeState) (d : Dev) (off : Nat) :
    regRead t d timBlk (regSub .timNowNs) .timNowNs 0 off .whole
      = (t.now.frac <<< 32 + t.now.ns, wr d timBlk .timNowS t.now.sec) := rfl

/-- A read of CAP_NS gives what was captured of the nanoseconds, and keeps the seconds in CAP_S (R231). -/
theorem regRead_timPpsCapNs (t : TimeState) (d : Dev) (off : Nat) :
    regRead t d timBlk (regSub .timPpsCapNs) .timPpsCapNs 0 off .whole
      = (rd d timBlk .timPpsCapNs, wr d timBlk .timPpsCapS (memGet d .timReq 0 3)) := rfl

/-- A read of a register of device time that keeps the high word in `r'` (R231). -/
theorem timRead_done {s : State} {r r' : Reg} {low high : Nat} (calm : Calm s) (ho : Open s.dev timBlk)
    (hs : Spot timBlk (regSub r) r 0) (hr : reservedNow s.dev timBlk r = false) (hd : readDenied s.dev timBlk r = false)
    (reads : regRead s.tim s.dev timBlk (regSub r) r 0 (regOff timBlk (regSub r) r 0) .whole
      = (low, wr s.dev timBlk r' high)) :
    ends s (hostRead s.tim s.dev timBlk r 0) = .next (done s (timeAnswered s.dev low r' high)) := by
  rw [hostRead_ok _ _ _ _ _ hs ho hr (.inl rfl) hd, reads]
  exact ends_done calm.1 calm.2

/-- What such a read leaves: the low word has gone out, and the high one is in its register (R231). -/
theorem timeAnswered_leaves (s : State) (low high : Nat) {r : Reg} (hub : regOff timBlk (regSub r) r 0 / 8 < 0x200000) :
    (done s (timeAnswered s.dev low r high)).dev.out = s.dev.out ++ [.readData (BitVec.ofNat 64 low)]
      ∧ rd (done s (timeAnswered s.dev low r high)).dev timBlk r = high % 2 ^ 64 := by
  refine ⟨settleSched_out .., ?_⟩
  rw [done_dev, rd_settleSched _ _ _ _ _ hub, timeAnswered, answer, rd_send, rd_wr_same]

/-- The PPS output rises, where OUT_EN drives it (R231). -/
theorem ppsOut_rises {d : Dev} (on : bit (rd d timBlk .timPps) 0 = true) (low : memGet d .timReq 0 2 = 0) :
    ppsOut d = send (memSet d .timReq 0 2 1) (.pps true) := by
  simp [ppsOut, on, low, b2n]

/-- The PPS output falls when it is up (R231). -/
theorem ppsOut_falls {d : Dev} (high : memGet d .timReq 0 2 = 1) :
    ppsOut d = send (memSet d .timReq 0 2 0) (.pps false) := by
  simp [ppsOut, high, b2n]

/-- A PPS pulse is two rows: the output rises at the first and falls at the second (R231). -/
theorem ppsOutPulse_twice {s : State} (calm : Calm s) (on : bit (rd s.dev timBlk .timPps) 0 = true)
    (low : memGet s.dev .timReq 0 2 = 0) :
    ∃ t u, exec .ppsOutPulse s = .next t ∧ t.dev.out = s.dev.out ++ [.pps true]
      ∧ exec .ppsOutPulse t = .next u ∧ u.dev.out = s.dev.out ++ [.pps true, .pps false] := by
  have rises := (congrArg (ends s) (ppsOut_rises on low)).trans (ends_done calm.1 calm.2)
  generalize hd : send (memSet s.dev .timReq 0 2 1) (.pps true) = d at rises
  have out : (settleSched s.tim d).out = s.dev.out ++ [.pps true] := by
    rw [settleSched_out, ← hd]; rfl
  have high : memGet (settleSched s.tim d) .timReq 0 2 = 1 := by
    rw [memGet_settleSched _ _ _ _ _ (by decide), ← hd, memGet_send, memGet_memSet_same]
  have falls : exec .ppsOutPulse (done s d)
      = .next (done (done s d) (send (memSet (settleSched s.tim d) .timReq 0 2 0) (.pps false))) := by
    refine (congrArg (ends (done s d)) (ppsOut_falls high)).trans (ends_done ?_ ?_)
    · exact (settleSched_resetReq s.tim d).trans (by rw [← hd]; exact calm.1)
    · exact (congrArg Twin.acked (settleSched_tw s.tim d)).trans (by rw [← hd]; exact calm.2)
  refine ⟨_, _, rises, out, falls, ?_⟩
  rw [done_dev, settleSched_out, send_out]
  show (settleSched s.tim d).out ++ _ = _
  rw [out, List.append_assoc]
  rfl

/-- The edge that IN_EDGE names captures device time (R231). -/
theorem ppsIn_captures {d : Dev} {rising : Bool} (on : bit (rd d timBlk .timPps) 1 = true)
    (edge : bit (rd d timBlk .timPps) 2 ≠ rising) (t : TimeState) :
    ppsIn t d rising = memSet (wr d timBlk .timPpsCapNs (2 ^ 63 + t.now.ns)) .timReq 0 3 t.now.sec := by
  simp [ppsIn, on, edge.symm]

/-- Settles O30: the branches of each command. -/
theorem deviceTimeCommandsComplete : Obligations.DeviceTimeCommandsComplete := by
  unfold Obligations.DeviceTimeCommandsComplete
  refine ⟨fun s w calm ho first free => ⟨?step, ?incr⟩,
    fun s calm => ⟨fun ho => ?now, fun ho => ?capture, ?pulse, ?edge, ?realign⟩⟩
  case step =>
    obtain ⟨u, ran, tim⟩ := timeAdjustApply_asked (s := s) calm.1 calm.2 first free (.inl rfl) w.toNat
    refine ⟨_, u, timeStep_asks calm ho w, rfl, ran, ?_⟩
    simp [tim]
  case incr =>
    obtain ⟨u, ran, tim⟩ := timeAdjustApply_asked (s := s)
      (d := wr s.dev timBlk .timIncr (written s timBlk .timIncr w.toNat)) calm.1 calm.2 first free (.inr rfl)
      (written s timBlk .timIncr w.toNat)
    refine ⟨_, u, timeIncrWrite_asks calm ho w, rfl, ran, ?_⟩
    simp [tim]
  case now =>
    exact ⟨_, timRead_done calm ho (spot_of .tim .timNowNs 0 0 (by decide) (by decide)) rfl rfl (regRead_timNowNs ..),
      timeAnswered_leaves s _ _ (by decide)⟩
  case capture =>
    exact ⟨_, timRead_done calm ho (spot_of .tim .timPpsCapNs 0 0 (by decide) (by decide)) rfl rfl (regRead_timPpsCapNs ..),
      timeAnswered_leaves s _ _ (by decide)⟩
  case pulse => exact ppsOutPulse_twice calm
  case edge =>
    intro rising on edge small
    refine ⟨_, (congrArg (ends s) (ppsIn_captures on edge s.tim)).trans (ends_done calm.1 calm.2), ?_, ?_⟩
    · rw [done_dev, rd_settleSched _ _ _ _ _ (by decide), rd_memSet, rd_wr_same]
      exact Nat.mod_eq_of_lt (by omega)
    · rw [done_dev, memGet_settleSched _ _ _ _ _ (by decide), memGet_memSet_same]
  case realign => exact ends_done calm.1 calm.2

end Sys2Proof.Machine
end

section
/-! Proof of the statement about the state after reset (R43, R217, R379). -/
namespace Sys2Proof.Machine

/-- Right after reset every register holds its reset value (R379). -/
theorem rdAt_reset (b : Blk) (sub : Nat) (r : Reg) (i : Nat) :
    rdAt State.reset.dev b sub r i = resetValue false b sub r i % 2 ^ 64 :=
  BitVec.toNat_ofNat ..

/-- Right after reset the blocks that are fixed-on are ON, and no others (R43). -/
theorem isOn_reset (b : Blk) : isOn State.reset.dev b = b.kind.info.fixed := by
  show ((blkDefault b).cur == 2) = _
  unfold blkDefault
  cases b.kind.info.fixed <;> rfl

/-- Right after reset partition 0 is ACTIVE, and the others are free (R379). -/
theorem part_reset (p : Nat) : (part State.reset.dev p).st = if p = 0 then 1 else 0 :=
  apply_ite Part.st ..

/-- Settles O2: nothing is stored in the state after reset, so that each register, block and partition is as it is by
default. -/
theorem resetStateIsTheTables : Obligations.ResetStateIsTheTables := by
  unfold Obligations.ResetStateIsTheTables
  exact ⟨rfl, legalTime_reset, rfl, rdAt_reset, isOn_reset, part_reset, rfl, rfl, rfl, rfl⟩

end Sys2Proof.Machine
end

section
/-! Proof of the statement about pauses (R225 to R228). -/
namespace Sys2Proof.Machine

/-- A port and class that exist pass the check of a command that names both. -/
theorem isClass_lt {port tc : Nat} (hp : port < 1024) (hc : tc < 8) : isClass port tc = true := by
  simp only [isClass, hp, hc, decide_true, Bool.and_self]

section Frames
variable {t : TimeState} {d : Dev} {port : Nat} (wide : portWidth d port ≠ 0) (on : isOn d ⟨.mac, port⟩ = true)
  (up : linkUp d port = true)
include wide on up

/-- A pause frame of 802.3x pauses every class for its quanta, and is counted for each (R225). -/
theorem pfcFrame_pause (mode : pfcMode d port = 1) (en : Nat) (timers : List Nat) :
    pfcFrame t d port 1 en timers = (upto 0 8).foldl (fun d c =>
      pauseClass t (countN d (Ev.plain .mac 12) port c 0 0 1) port c (timers.headD 0)) d := by
  simp [pfcFrame, wide, on, up, mode]

/-- A PFC frame is counted for each class that it names, and pauses those that honour it (R225). -/
theorem pfcFrame_pfc (mode : pfcMode d port = 2) (normal : crustState d = 0) (en : Nat) (timers : List Nat) :
    pfcFrame t d port 0x0101 en timers = (setBits en 8).foldl (fun d c =>
      let e := countN d (Ev.plain .mac 12) port c 0 0 1
      if bit (pfcReg e port) (8 + c) then pauseClass t e port c (timers.getD c 0) else e) d := by
  simp [pfcFrame, wide, on, up, mode, normal]

end Frames

/-- A refresh repeats the frame for the classes in XOFF, from a slice that is asked to wake (R226). -/
theorem pfcRefresh_sends {d : Dev} {port : Nat} (held : xoffOf d port ≠ []) (normal : crustState d = 0)
    (mode : pfcMode d port ≠ 0) :
    pfcRefresh d port = sendPause (wakeSlice d (portSlice port) 5) port (xoffOf d port) [] := by
  simp [pfcRefresh, held, normal, mode]

/-- The device once a storm is reported, as class 20 with ERR bit 1 of SCH, and counted (R227). -/
def stormReported (t : TimeState) (d : Dev) (port tc : Nat) : Dev :=
  countN (errFault t d ⟨.sch, portSlice port⟩ 1 20 0 0) (Ev.plain .mac 15) port tc 0 0 1

/-- The class ignores pause frames from now on (R227). -/
def deafened (d : Dev) (port tc : Nat) : Dev := setFp d { d.fp with deaf := (port, tc) :: d.fp.deaf }

section Storm
variable {t : TimeState} {d : Dev} {port tc : Nat} (watched : fld (pfcReg d port) 59 48 ≠ 0)
  (pausing : paused t d port tc = true)
include watched pausing

/-- A storm of a class that is watched is reported, and with WD_ACT a class that hears pause frames ignores them (R227). -/
theorem pfcStorm_watched : pfcStorm t d port tc =
    let e := stormReported t d port tc
    if bit (pfcReg e port) 60 && !e.fp.deaf.contains (port, tc) then deafened e port tc else e :=
  if_neg (by simp [watched, pausing])

/-- A storm without WD_ACT is reported alone (R227). -/
theorem pfcStorm_reports (act : bit (pfcReg (stormReported t d port tc) port) 60 = false) :
    pfcStorm t d port tc = stormReported t d port tc :=
  (pfcStorm_watched watched pausing).trans (if_neg (by simp [act]))

/-- With WD_ACT the class ignores pause frames from then on (R227). -/
theorem pfcStorm_acts (act : bit (pfcReg (stormReported t d port tc) port) 60 = true)
    (heard : (port, tc) ∉ (stormReported t d port tc).fp.deaf) :
    pfcStorm t d port tc = deafened (stormReported t d port tc) port tc :=
  (pfcStorm_watched watched pausing).trans (if_pos (by rw [act, List.contains_eq_mem, decide_eq_false heard]; rfl))

end Storm

/-- Settles O25: the branches of each command. -/
theorem pausesComplete : Obligations.PausesComplete := by
  unfold Obligations.PausesComplete
  intro s port hp
  have goes {d d'} (e : d = d') := act_ok (s := s) (ok := isPort port) (decide_eq_true hp) e
  have classGoes {cls d d'} (hc : cls < 8) (e : d = d') := act_ok (s := s) (isClass_lt hp hc) e
  refine ⟨?pause, ?pfc, fun cls hc => ?expiry, ?refresh, fun cls hc watched pausing => ?storm,
    fun cls hc => classGoes hc rfl⟩
  case pause => exact fun en timers mode wide on up => goes (pfcFrame_pause wide on up mode en timers)
  case pfc => exact fun en timers mode wide on up normal => goes (pfcFrame_pfc wide on up mode normal en timers)
  case expiry =>
    exact ⟨fun ended => classGoes hc (if_neg (ne_true_of_eq_false ended)), fun lasts => classGoes hc (if_pos lasts)⟩
  case refresh => exact fun held normal mode => goes (pfcRefresh_sends held normal mode)
  case storm =>
    exact ⟨fun off => classGoes hc (pfcStorm_reports watched pausing off),
      fun act heard => classGoes hc (pfcStorm_acts watched pausing act heard)⟩

end Sys2Proof.Machine
end

section
/-! Proof of the statement about the HBM stacks (R235, R246 to R248, R256). -/
namespace Sys2Proof.Machine

section Temperature
variable {t : TimeState} {d : Dev} {c temp : Nat}

/-- HBM_TEMP with a temperature stored: its band, the highest seen, and the temperature itself (R246, Table 10.13). -/
def tempStored (d : Dev) (c temp : Nat) : Dev :=
  let v := rd d ⟨.hbm, c⟩ .hbmTemp
  let new := signed8 temp
  let band := max (refreshBand new) (min (fld v 33 32) (refreshBand (new + 3)))
  let top := if signed8 (fld v 23 16) < new then temp % 256 else fld v 23 16
  wr d ⟨.hbm, c⟩ .hbmTemp (putFld (putFld (putFld v 33 32 band) 23 16 top) 7 0 temp)

/-- An error bit of the stack that is set as a temperature is stored. -/
def tempTold (d : Dev) (c temp n : Nat) : Bool := bit (rdAt (tempStored d c temp) ⟨.hbm, c⟩ 0 .errStatus 0) n

/-- A temperature is reported as class 8: at the warning, and new there (R246, log entry 116). -/
@[reducible] def TempWarns (d : Dev) (c temp : Nat) : Prop :=
  let v := rd d ⟨.hbm, c⟩ .hbmTemp
  let warn : Int := (fld v 31 24 : Nat)
  warn ≤ signed8 temp ∧ ¬ (warn ≤ signed8 (fld v 7 0) ∧ tempTold d c temp 2 = true)

/-- A temperature is reported as class 9: above 125 degrees, and new there (R246, log entry 116). -/
@[reducible] def TempTrips (d : Dev) (c temp : Nat) : Prop :=
  125 < signed8 temp ∧ ¬ (125 < signed8 (fld (rd d ⟨.hbm, c⟩ .hbmTemp) 7 0) ∧ tempTold d c temp 3 = true)

/-- What happens at a threshold `p` unless the report before was there, `q`, and its bit stays set, `told`. -/
theorem ite_unless_told {α : Type} {p q : Prop} [Decidable p] [Decidable q] (told : Bool) (x y : α) :
    (if p then (if decide q && told then y else x) else y) = if p ∧ ¬ (q ∧ told = true) then x else y := by
  by_cases reached : p
  · simp only [reached, if_true, true_and, ite_not, Bool.and_eq_true, decide_eq_true_eq]
  · rw [if_neg reached, if_neg (fun h => reached h.1)]

/-- A temperature of a stack in use is stored, and each threshold that it reaches anew is reported, the warning first
(R246). -/
theorem hbmTemp_reports (stack : (hbmStacks d).contains c = true) : hbmTemp t d c temp =
    let e := tempStored d c temp
    let f := if TempWarns d c temp then errFault t e ⟨.hbm, c⟩ 2 8 0 0 else e
    if TempTrips d c temp then errFault t f ⟨.hbm, c⟩ 3 9 3 0 else f := by
  refine (if_neg (by rw [stack]; decide)).trans ?_
  dsimp only
  rw [ite_unless_told, ite_unless_told]
  rfl

end Temperature

/-- A channel of a stack that is up is marked when its margin is below the limit, and reported as class 13 with ERR bit 5
(R248). -/
theorem trackingSlot_marks {t : TimeState} {d : Dev} {c ch margin : Nat} (channel : ch < 32)
    (up : (blkSt d ⟨.hbm, c⟩).cur ≠ 0) (low : margin < rdF d ⟨.hbm, c⟩ .hbmRetrain 31 24) :
    trackingSlot t d c ch margin
      = errFault t (wrF d ⟨.hbm, c⟩ .hbmRetrain (32 + ch) (32 + ch) 1) ⟨.hbm, c⟩ 5 13 0 0 :=
  if_pos (by simp [channel, up, low])

/-- HBM_REGION of a stack that is OFF, and that no cluster with FLOW_EN uses, is set and owes a refill (R235, Table
10.12). -/
theorem hbmRegion_sets {d : Dev} {c : Nat} (off : (blkSt d ⟨.hbm, c⟩).cur = 0)
    (unused : (served d c).all (fun k => !bit (rd d ⟨.exm, k⟩ .exmFlowCfg) 32) = true) (v : Nat) :
    hbmRegion d c v = some (memSet (wr d ⟨.hbm, c⟩ .hbmRegion (v % 16)) .hbmRefill c 0 1) :=
  if_pos (by rw [off, unused]; rfl)

/-- The top bit of a word is what remains above the other 63. -/
theorem fld_63_word (w : Word) : fld w.toNat 63 63 = w.toNat / 2 ^ 63 := by
  have small := w.isLt
  simp only [fld, Nat.shiftRight_eq_div_pow]
  omega

/-- The top bit that has been put in a number. -/
theorem bit_putFld_63 (v x : Nat) : bit (putFld v 63 63 x) 63 = (x % 2 == 1) := by
  rw [bit_eq_fld, fld_putFld, Nat.pow_one]

section Training
variable {d : Dev} {c w : Nat}

/-- A write of HBM_TRAIN_CTRL without GO keeps GO as it stands (Table 10.15). -/
theorem trainGo_keeps (stays : bit w 63 = false) : trainGo d c w = some (wr d ⟨.hbm, c⟩ .hbmTrainCtrl
    (b2n (bit (rd d ⟨.hbm, c⟩ .hbmTrainCtrl) 63) <<< 63 + fld w 39 0)) := by
  simp [trainGo, stays]

/-- GO starts a pass on a stack that is OFF, and clears DONE (R247, Table 10.15). -/
theorem trainGo_starts (go : bit w 63 = true) (off : (blkSt d ⟨.hbm, c⟩).cur = 0) : trainGo d c w =
    some (wrF (wr d ⟨.hbm, c⟩ .hbmTrainCtrl (2 ^ 63 + fld w 39 0)) ⟨.hbm, c⟩ .hbmTrainRes 63 63 0) := by
  simp [trainGo, go, off, b2n]

end Training

section Writes
variable {s : State} {c : Nat} {w : Word} {e : Dev} (hc : c < 8) (ho : Open s.dev ⟨.hbm, c⟩)
include hc ho

/-- HBM_REGION in a page that answers and is not locked leaves what its handler makes of it (R41, Table 10.12). -/
theorem hbmRegionWrite_ok (free : locked s.dev ⟨.hbm, c⟩ 0 = false)
    (handled : hbmRegion s.dev c (written s ⟨.hbm, c⟩ .hbmRegion w.toNat) = some e) :
    exec (.hbmRegionWrite c w) s = .next (settled s e) :=
  act_ok (decide_eq_true hc) (lockWrite_ok _ _ _ _ _ _ _ w.isLt (spot_of .hbm .hbmRegion 0 c hc (by decide)) ho rfl (.inl rfl)
    free (by decide) (congrArg wrote handled))

/-- A page that is locked refuses HBM_REGION (R41). -/
theorem hbmRegionWrite_locked (held : locked s.dev ⟨.hbm, c⟩ 0 = true) : exec (.hbmRegionWrite c w) s
    = .next (settled s (violate s.tim s.dev ⟨.hbm, c⟩ 0 3 (regOff ⟨.hbm, c⟩ 0 .hbmRegion 0))) :=
  act_ok (decide_eq_true hc) (lockWrite_no _ _ _ _ _ _ (spot_of .hbm .hbmRegion 0 c hc (by decide)) ho rfl (.inl rfl)
    held (by decide))

/-- HBM_TRAIN_CTRL in a page that answers leaves what its handler makes of it, with GO as it was written (Table 10.15). -/
theorem hbmTrainGo_ok
    (handled : trainGo s.dev c (putFld (written s ⟨.hbm, c⟩ .hbmTrainCtrl w.toNat) 63 63 (w.toNat / 2 ^ 63)) = some e) :
    exec (.hbmTrainGo c w) s = .next (settled s e) := by
  rw [← fld_63_word] at handled
  exact act_ok (decide_eq_true hc) (hostWrite_ok _ _ _ _ _ _ _ w.isLt (spot_of .hbm .hbmTrainCtrl 0 c hc (by decide)) ho rfl
    (.inl rfl) (by decide) (congrArg wrote handled))

end Writes

/-- Settles O31: the two thresholds of a temperature, the branches of the other events, and what the handlers of the two
registers make of a write. -/
theorem stacksComplete : Obligations.StacksComplete := by
  unfold Obligations.StacksComplete
  refine ⟨fun s c stack => ?events, fun s c w hc ho => ?writes⟩
  case events =>
    have goes {d d'} (e : d = d') := act_ok (s := s) stack e
    refine ⟨goes rfl, fun temp used => ?temperature,
      fun ch margin channel up low => goes (trackingSlot_marks channel up low),
      fun owes => goes (if_pos owes), fun errors lanes runs => goes (if_pos runs)⟩
    case temperature =>
      have reports := hbmTemp_reports (t := s.tim) (temp := temp) used
      refine ⟨fun cool low => goes ?_, fun hot low => goes ?_, fun cool trip => goes ?_, fun hot trip => goes ?_⟩
      · exact reports.trans ((if_neg low).trans (if_neg cool))
      · exact reports.trans ((if_neg low).trans (if_pos hot))
      · exact reports.trans ((if_pos trip).trans (congrArg (errFault s.tim · _ 3 9 3 0) (if_neg cool)))
      · exact reports.trans ((if_pos trip).trans (congrArg (errFault s.tim · _ 3 9 3 0) (if_pos hot)))
  case writes =>
    refine ⟨fun off unused => ⟨fun free => ?region, hbmRegionWrite_locked hc ho⟩, fun stays => ?store, fun off go => ?start⟩
    case region => exact hbmRegionWrite_ok hc ho free (hbmRegion_sets off unused _)
    case store =>
      refine hbmTrainGo_ok hc ho ?_
      rw [stays]
      exact trainGo_keeps (bit_putFld_63 ..)
    case start =>
      refine hbmTrainGo_ok hc ho ?_
      rw [go]
      exact trainGo_starts (bit_putFld_63 ..) off

end Sys2Proof.Machine
end

section
/-! Support for the statements about the hub's registers: a command that writes one of them by its name,
and an effect that is rewritten. -/
namespace Sys2Proof.Machine

/-- A command that writes a register of one of the hub's blocks leaves what the register's own write answers, where the page
answers and the write is permitted (R34, Table 2.12). -/
theorem hubWrite_ok {s : State} {k : BlkKind} {r : Reg} {i w : Nat} {e : Dev} (hw : w < 2 ^ 64) (ho : Open s.dev ⟨k, 0⟩)
    (hs : Spot ⟨k, 0⟩ (regSub r) r i) (hr : reservedNow s.dev ⟨k, 0⟩ r = false) (hi : innerLane s.dev ⟨k, 0⟩ = false)
    (hm : ∀ lock, Half.whole.mask.land (accMask r (codeWrites lock)) ≠ 0)
    (own : writeEffect s.tim s.dev ⟨k, 0⟩ (regSub r) r i (regOff ⟨k, 0⟩ (regSub r) r i) .whole w
      (written s ⟨k, 0⟩ r w i) false = .ok e) :
    ends s (hostWrite s.tim s.dev ⟨k, 0⟩ r i w) = .next (settled s e) :=
  ends_ok (hostWrite_ok _ _ _ _ _ _ _ hw hs ho hr (.inl hi) hm own)

/-- A command that ends with an effect ends with what the effect is equal to. -/
theorem next_settled_congr {s : State} {d d' : Dev} (e : d = d') :
    (.next (settled s d) : Host.Outcome State Fault Refusal) = .next (settled s d') :=
  by rw [e]

end Sys2Proof.Machine
end

section
/-! Proof of the statement that a step leaves nothing owed (R320, R379). -/
namespace Sys2Proof.Machine

/-- What is owed is owed by the device: device time has no part in it. -/
theorem owes_tim (s : State) (t : TimeState) : owes { s with tim := t } = owes s := rfl

/-- A tick leaves nothing owed that was not owed before it. -/
theorem owes_idle {s : State} (calm : owes s = false) : owes (idle s) = false := by
  unfold idle
  split
  case isTrue unpowered => exact calm
  case isFalse powered =>
    split
    case isTrue early => exact (owes_tim s _).trans calm
    case isFalse runs => exact owes_settled { s with tim := advance s.tim } _

/-- Settles O7: a step is a tick or a command, and how each ends carries out what is owed. -/
theorem everyStepLeavesNothingOwed : Obligations.EveryStepLeavesNothingOwed := by
  unfold Obligations.EveryStepLeavesNothingOwed
  intro s t calm ran
  unfold step at ran
  split at ran
  case h_1 empty =>
    cases ran
    exact owes_idle calm
  case h_2 c rest front =>
    obtain ⟨tm, d, ends, -⟩ := exec_settles c { s with pending := rest }
    cases ends.symm.trans ran
    exact owes_settled { s with pending := rest, tim := tm } d

end Sys2Proof.Machine
end

section
/-! Proofs of the statement about protected memories (R253, R257, R260, R262, R265). -/
namespace Sys2Proof.Machine

/-- A corrected word that waits for its write-back is written back (R253). -/
theorem eccWriteBack_waiting {d : Dev} {b : Blk} {m w : Nat} (waits : 301 ≤ mark d b m w) :
    eccWriteBack d b m w = setMark d b m w 0 :=
  if_pos waits

/-- The words that one read of a scrubber covers, scrubbed (R257). -/
def scrubbedAt (t : TimeState) (d : Dev) (b : Blk) (m : Nat) : Dev :=
  let pos := preg d b m .pos
  if b.kind == .edt && m == 0 then scrubStore d b.inst pos
  else (upto (scrubPlace d b m pos).2 (scrubShape d b m).1).foldl (scrubWord t b (scrubPlace d b m pos).1) d

section Scrub
variable {t : TimeState} {d : Dev} {b : Blk} {m : Nat} (runs : scrubRuns d b m = true)
include runs

/-- A running scrubber scrubs where it stands, and moves on or ends its lap (R257). -/
theorem scrubRead_runs : scrubRead t d b m =
    if (scrubShape d b m).2 ≤ preg d b m .pos + 1 then scrubLap t (scrubbedAt t d b m) b m
    else setPreg (scrubbedAt t d b m) b m .pos (preg d b m .pos + 1) :=
  if_neg (by rw [runs]; decide)

/-- Before the last read of its lap it moves on (R257). -/
theorem scrubRead_moves (more : preg d b m .pos + 1 < (scrubShape d b m).2) :
    scrubRead t d b m = setPreg (scrubbedAt t d b m) b m .pos (preg d b m .pos + 1) :=
  (scrubRead_runs runs).trans (if_neg (not_le_of_gt more))

/-- At the last it ends the lap (R257). -/
theorem scrubRead_laps (last : (scrubShape d b m).2 ≤ preg d b m .pos + 1) :
    scrubRead t d b m = scrubLap t (scrubbedAt t d b m) b m :=
  (scrubRead_runs runs).trans (if_pos last)

end Scrub

/-- Arming a flip of a memory that exists is permitted, and so is a write that does not arm one (Table 2.11). -/
theorem flipWrite_permitted {d : Dev} {b : Blk} {w : Nat} (fits : bit w 31 = false ∨ fld w 23 16 < memCount b.kind)
    (sub : Nat) (h : Half) (v : Nat) : flipWrite d b sub h w v = .ok (wrAt d b sub .errFlipC 0 v) := by
  refine if_neg ?_
  rcases fits with unarmed | named
  · simp [unarmed]
  · simp [named]

section Golden
variable {d : Dev} {w : Nat}

/-- A slice whose copy of a golden word can be used: it is powered and its parity is good (R262). -/
def goldenSource (d : Dev) (w k : Nat) : Bool := slcState d k ≤ 1 && parityBad d k w == 0

/-- The golden word taken from a slice (R262). -/
def goldenTaken (d : Dev) (w k : Nat) : Dev :=
  memSet (setMark d (devBlk .dev) 0 w 0) .edtStore 0 w (storeWord d k w)

/-- Where no slice can give the word it stays bad, and class 1 is reported (R262). -/
theorem goldenRebuild_none (none : findFirst (goldenSource d w) (upto 0 64) = none) :
    goldenRebuild d w = reportFault (setMark d (devBlk .dev) 0 w 100) 1 1 (devBlk .dev) 0 w false := by
  unfold goldenSource at none
  simp only [goldenRebuild, none]

/-- Else it is taken from the first that can; the flips that the slices hold are kept against the new word (R262). -/
theorem goldenRebuild_some {k : Nat} (source : findFirst (goldenSource d w) (upto 0 64) = some k) :
    goldenRebuild d w = reportFault
      (if memGet d .edtStore 0 w = storeWord d k w then goldenTaken d w k
        else (upto 0 64).foldl (fun e j => memSet e .edtBad j w
          ((memGet e .edtBad j w).xor ((memGet d .edtStore 0 w).xor (storeWord d k w)))) (goldenTaken d w k))
      1 1 (devBlk .dev) 0 w false := by
  unfold goldenSource at source
  simp only [goldenRebuild, source, goldenTaken]

end Golden

/-- PROT_CNT shows the count of the memory that PROT_SEL names (R265). -/
theorem regView_protCnt (t : TimeState) (d : Dev) (b : Blk) :
    regView t d b 0 .protCnt 0 = preg d b (protMem d b) .cnt := by
  obtain ⟨k, n⟩ := b
  cases k <;> rfl

/-- PROT_CNT shows no word of a protected memory. -/
theorem readMems_protCnt (t : TimeState) (d : Dev) (b : Blk) : readMems t d b .protCnt 0 = (false, d) := by
  obtain ⟨k, n⟩ := b
  cases k <;> rfl

/-- A 64-bit read of PROT_CNT returns both counts and clears them (R265). -/
theorem regRead_protCnt (t : TimeState) (d : Dev) (b : Blk) (off : Nat) :
    regRead t d b 0 .protCnt 0 off .whole = (preg d b (protMem d b) .cnt, setPreg d b (protMem d b) .cnt
      (putFld (putFld (preg d b (protMem d b) .cnt) 31 0 0) 63 32 0)) := by
  have mems := readMems_protCnt t d b
  have view := regView_protCnt t d b
  simp only [regRead, prbsCounter, mems, view, latchRead, readEffect, reduceCtorEq, decide_false, Bool.false_and,
    Bool.false_eq_true, if_false]
  rfl

/-- Settles O32: the branches of each command, and what a write of ERR_FLIP_C and a read of PROT_CNT do in a page that
answers. -/
theorem protectionComplete : Obligations.ProtectionComplete := by
  unfold Obligations.ProtectionComplete
  refine ⟨fun s b m hb => ?memories, fun s w => ?golden, fun s b hb spot named lane ho => ?count⟩
  case memories =>
    have goes {d d'} (e : d = d') := act_ok (s := s) (ok := isBlk b) (decide_eq_true hb) e
    refine ⟨fun w waits => goes (eccWriteBack_waiting waits), fun runs => ?scrub, fun w _ hm ho fits => goes ?arm⟩
    case scrub => exact ⟨fun more => goes (scrubRead_moves runs more), fun last => goes (scrubRead_laps runs last)⟩
    case arm =>
      exact headWrite_ok _ _ _ _ _ _ _ w.isLt (spot_header b m .errFlipC hb hm (.inr (.inr (.inr (.inl rfl))))) ho rfl
        (.inr (.inl rfl)) (by decide) (flipWrite_permitted fits m .whole _)
  case golden =>
    refine ⟨fun none => ends_ok (goldenRebuild_none none), fun k source => ?_⟩
    have rebuilt := goldenRebuild_some source
    exact ⟨fun same => ends_ok (rebuilt.trans (by rw [if_pos same]; rfl)),
      fun differs => ends_ok (rebuilt.trans (by rw [if_neg differs]; rfl))⟩
  case count =>
    refine act_ok (decide_eq_true hb) ((hostRead_ok _ _ _ _ _ spot ho named (.inl lane) rfl).trans ?_)
    exact congrArg (fun x : Nat × Dev => answer x.2 x.1) (regRead_protCnt s.tim s.dev b _)

end Sys2Proof.Machine
end

section
/-! Proofs of the statement about the fault collector (R266 to R268, R270, R271, R274). -/
namespace Sys2Proof.Machine

section Collector
variable {t : TimeState} {d : Dev} {w : Nat}

/-- The window of a pending class that ends raises it one level, unless the device has stopped (R267). -/
theorem windowExpiry_rises {k : Nat} (runs : d.flt.stopped = false) (pending : 1 ≤ pendLevel d k) (low : pendLevel d k ≤ 3) :
    windowExpiry t d k = enterLevel t d k (pendLevel d k + 1) false :=
  if_pos (by simp only [pending, low, runs, decide_true, Bool.not_false, Bool.and_self])

/-- An acknowledge that names the pending level ends it (R268). -/
theorem faultAck_ends (pending : pendLevel d (fld w 5 0) ≠ 0) (named : pendLevel d (fld w 5 0) = fld w 10 8) :
    faultAck d w = some (setFlt d { d.flt with
      level := SMap.erase d.flt.level (fld w 5 0), units := d.flt.units.filter (fun x => x.1 != fld w 5 0) }) :=
  if_pos (Bool.and_eq_true_iff.2 ⟨decide_eq_true pending, decide_eq_true named⟩)

/-- An injection of a class and level that exist is collected with the source that it names; level 4 needs the strap
(R271). -/
theorem faultInject_collected (cls : fld w 5 0 < 24)
    (level : fld w 10 8 ≤ 3 ∨ (fld w 10 8 = 4 ∧ bit (rd d (devBlk .boot) .bootStrap) 3 = true)) :
    faultInject t d w = some (collect t d ⟨fld w 5 0, fld w 10 8, fld w 47 32, fld w 31 16, 0, 0, true⟩) := by
  refine if_neg ?_
  rcases level with low | ⟨four, strapped⟩
  · simp only [Bool.or_eq_true, Bool.and_eq_true, decide_eq_true_eq]
    omega
  · simp only [four, strapped, cls, not_le_of_gt, decide_false, Bool.not_true, Bool.and_false, Bool.or_self, lt_irrefl,
      Bool.false_eq_true, not_false_eq_true]

/-- A fenced unit is released when no class that fenced it is pending (R274). -/
theorem unfence_releases {u : FUnit} (named : unfenceUnit w = some u)
    (fenced : d.flt.fences.filter (fun x => x.1 == u) ≠ []) (calm : ∀ x ∈ d.flt.fences, x.1 = u → pendLevel d x.2 = 0) :
    unfence t d w = some (restoreWeights t ((unitBlocks u).foldl releaseBlock
      (syncFences (setFlt d { d.flt with fences := d.flt.fences.filter (fun x => x.1 != u) }))) u) := by
  have settledDown : (d.flt.fences.filter (fun x => x.1 == u)).any (fun x => pendLevel d x.2 != 0) = false := by
    rw [List.any_eq_false]
    intro x hx
    obtain ⟨held, unit⟩ := List.mem_filter.1 hx
    simp [calm x held (beq_iff_eq.1 unit)]
  simp only [unfence, named, fenced, settledDown, decide_false, Bool.or_self, Bool.false_eq_true, if_false]

end Collector

/-- Settles O36: the branches of the collector's events, and what the handlers of its registers make of a write. -/
theorem faultCollectorComplete : Obligations.FaultCollectorComplete := by
  unfold Obligations.FaultCollectorComplete
  refine ⟨fun s e => ends_ok rfl, fun s k hk runs pending low => act_ok (decide_eq_true hk) (windowExpiry_rises runs pending low),
    fun s w ho => ?registers⟩
  refine ⟨fun pending named => ?ack, ?clear, fun cls level => ?inject, fun u named fenced calm => ?release⟩
  case ack =>
    exact hubWrite_ok w.isLt ho (spot_of .flt .fltAck 0 0 (by decide) (by decide)) rfl rfl (by decide)
      (congrArg wrote (faultAck_ends pending named))
  case clear =>
    exact hubWrite_ok w.isLt ho (spot_of .flt .fltStatus 0 0 (by decide) (by decide)) rfl rfl (by decide) rfl
  case inject =>
    exact hubWrite_ok w.isLt ho (spot_of .flt .fltInj 0 0 (by decide) (by decide)) rfl rfl (by decide)
      (congrArg wrote (faultInject_collected cls level))
  case release =>
    exact hubWrite_ok w.isLt ho (spot_of .flt .fltUnfence 0 0 (by decide) (by decide)) rfl rfl (by decide)
      (congrArg wrote (unfence_releases named fenced calm))

end Sys2Proof.Machine
end

section
/-! Proofs of the statement about Crust mode, ALIVE and the always-on watchdog (R275, R276, R278, R281). -/
namespace Sys2Proof.Machine

section Crust
variable {t : TimeState} {d : Dev}

/-- Crust mode that was entered becomes CRUST, and sets ERR bit 2 (R278). -/
theorem crustActive_entered (entered : crustState d = 1) :
    crustActive t d = errSet t (wr d fltBlk .fltCrustCtrl 2) fltBlk 2 :=
  if_pos entered

/-- An exit that nothing forbids turns EXITING, sets ERR bit 2 and releases the blocks (R281). -/
theorem crustExit_releases (crust : crustState d = 2) (runs : d.flt.stopped = false)
    (calm : d.flt.level.any (fun e => e.2 % 8 == 3) = false) : crustExit t d
      = some (crustBlocks.foldl releaseBlock (errSet t (wr d fltBlk .fltCrustCtrl (2 ^ 63 + 3)) fltBlk 2)) :=
  if_neg (by simp only [crust, runs, calm, ne_eq, not_true_eq_false, decide_false, Bool.or_self, Bool.false_eq_true,
    not_false_eq_true])

/-- It completes when the blocks are up, or late (R281). -/
theorem crustExited_completes {late : Bool} (exiting : crustState d = 3)
    (up : late = true ∨ crustBlocks.all (fun b => held d b || !(blkSt d b).enable || isOn d b) = true) :
    crustExited t d late = errSet t (wr d fltBlk .fltCrustCtrl 0) fltBlk 2 :=
  if_pos (Bool.and_eq_true_iff.2 ⟨decide_eq_true exiting, (Bool.or_eq_true ..).symm ▸ up⟩)

/-- ALIVE may change level while the always-on clock runs and JTAG does not hold the pin; the first change starts the boot
ROM (R275, R402). -/
theorem aliveMoves_free (clock : memGet (if inStep d 1 then romStart d else d) .boot 0 8 ≠ 1)
    (pin : memGet (if inStep d 1 then romStart d else d) .boot 0 9 < 3) :
    aliveMoves d = aliveToggle (if inStep d 1 then romStart d else d) :=
  if_neg (by simp only [clock, not_le_of_gt pin, decide_false, Bool.or_self, Bool.false_eq_true, not_false_eq_true])

end Crust

/-- Settles O37: the branches of each event, and what a write of EXIT makes of Crust mode. -/
theorem crustAndWatchdogs : Obligations.CrustAndWatchdogs := by
  unfold Obligations.CrustAndWatchdogs
  intro s
  refine ⟨fun entered => ends_ok (crustActive_entered entered), fun ho crust runs calm => ?exit,
    fun late exiting up => ends_ok (crustExited_completes exiting up), fun clock pin => ends_ok (aliveMoves_free clock pin),
    ends_ok rfl, ends_ok rfl⟩
  case exit =>
    exact hubWrite_ok (by decide) ho (spot_of .flt .fltCrustCtrl 0 0 (by decide) (by decide)) rfl rfl (by decide)
      (congrArg wrote (crustExit_releases crust runs calm))

end Sys2Proof.Machine
end

section
/-! Proofs of the statement about supplies and clocks (R383, R386, R387). -/
namespace Sys2Proof.Machine

/-- The supply rails 3 to 10 are the cores of the clusters (R383). -/
def railBlk (rail : Nat) : Blk := if 3 ≤ rail ∧ rail ≤ 10 then ⟨.clu, rail - 3⟩ else devBlk .pwr

section Supplies
variable {t : TimeState} {d : Dev} {rail : Nat} (known : rail ≤ 16)
include known

/-- What an excursion of a rail makes of the device: past a limit it is of class 11, at level 2 in a cluster's core and else at
level 4; within its limits it is of class 10, unless the rail is a core whose new voltage settles (R383). -/
theorem supplyExcursion_known {fail : Bool} : supplyExcursion t d rail fail =
    if fail = true then reportFault d 11 (if 3 ≤ rail ∧ rail ≤ 10 then 2 else 4) (railBlk rail) 0 rail false
    else if (3 ≤ rail ∧ rail ≤ 10) ∧ memGet d .limPrev 6 (rail - 3) ≠ 0
        ∧ t.tick + 1 - memGet d .limPrev 6 (rail - 3) < 360000 then d
    else reportFault d 10 0 (railBlk rail) 0 rail false := by
  simp only [supplyExcursion, not_lt_of_ge known, railBlk, Bool.and_eq_true, decide_eq_true_eq, if_false, and_assoc]

/-- An excursion past a limit is of class 11 (R383). -/
theorem supplyExcursion_fails : supplyExcursion t d rail true
    = reportFault d 11 (if 3 ≤ rail ∧ rail ≤ 10 then 2 else 4) (railBlk rail) 0 rail false :=
  (supplyExcursion_known known).trans (if_pos rfl)

/-- One within them is of class 10, where no voltage that was asked for still settles (R383, R386). -/
theorem supplyExcursion_warns (steady : rail < 3 ∨ 10 < rail ∨ memGet d .limPrev 6 (rail - 3) = 0
      ∨ 360000 ≤ t.tick + 1 - memGet d .limPrev 6 (rail - 3)) :
    supplyExcursion t d rail false = reportFault d 10 0 (railBlk rail) 0 rail false := by
  refine (supplyExcursion_known known).trans ((if_neg (by decide)).trans (if_neg ?_))
  rintro ⟨⟨low, high⟩, asked, early⟩
  omega

/-- While the voltage of a core settles it is none (R383, R386). -/
theorem supplyExcursion_settles (low : 3 ≤ rail) (high : rail ≤ 10) (asked : memGet d .limPrev 6 (rail - 3) ≠ 0)
    (early : t.tick + 1 - memGet d .limPrev 6 (rail - 3) < 360000) : supplyExcursion t d rail false = d :=
  (supplyExcursion_known known).trans ((if_neg (by decide)).trans (if_pos ⟨⟨low, high⟩, asked, early⟩))

end Supplies

/-- A voltage that was asked for is stored once it is written, and reported when the write fails (R386). -/
theorem avsResult_asked {d : Dev} {c : Nat} (hc : c < 8) (asked : memGet d .limPrev 5 c ≠ 0) (ok : Bool) :
    avsResult d c ok = if ok = true
      then wrF (memSet d .limPrev 5 c 0) ⟨.clu, c⟩ .cluAvs 63 48 (memGet d .limPrev 5 c - 1)
      else reportFault (memSet d .limPrev 5 c 0) 10 0 ⟨.clu, c⟩ 0 (3 + c) false :=
  if_neg (by simp only [not_le_of_gt hc, asked, decide_false, Bool.or_self, Bool.false_eq_true, not_false_eq_true])

/-- Without its reference clock every port of a cluster goes down, and its die links are reported (R387). -/
theorem clockLost_cluster {d : Dev} {c : Nat} (hc : c < 8) (runs : clocked d c = true) (t : TimeState) :
    clockLost t d (.sd c) = (upto (7 * c) 7).foldl (fun d i => reportFault d 12 2 ⟨.d2d, d2dPeer i⟩ 0 (d2dPeer i) false)
      ((upto (128 * c) 128).foldl portDown (memSet d .boot 0 (16 + c) 1)) :=
  if_neg (by simp only [not_le_of_gt hc, runs, decide_false, Bool.not_true, Bool.or_self, Bool.false_eq_true,
    not_false_eq_true])

/-- The return of a cluster's clock clears the note (R387). -/
theorem clockBack_cluster {c : Nat} (hc : c < 8) (d : Dev) : clockBack d (.sd c) = memSet d .boot 0 (16 + c) 0 :=
  if_pos hc

/-- Settles O38: the branches of each event. -/
theorem suppliesAndClocks : Obligations.SuppliesAndClocks := by
  unfold Obligations.SuppliesAndClocks
  intro s
  refine ⟨fun rail known => ?supply, fun c hc asked => ?written, fun c mv ma hc => act_ok (decide_eq_true hc) rfl,
    ends_ok rfl, fun c hc runs => ends_ok (clockLost_cluster hc runs s.tim), ends_ok rfl, ends_ok rfl,
    fun c hc => ends_ok (clockBack_cluster hc s.dev), ends_ok rfl⟩
  case supply =>
    exact ⟨ends_ok (supplyExcursion_fails known), fun steady => ends_ok (supplyExcursion_warns known steady),
      fun low high asked early => ends_ok (supplyExcursion_settles known low high asked early)⟩
  case written =>
    have result := avsResult_asked hc asked
    exact ⟨act_ok (decide_eq_true hc) ((result true).trans (if_pos rfl)),
      act_ok (decide_eq_true hc) ((result false).trans (if_neg Bool.false_ne_true))⟩

end Sys2Proof.Machine
end

section
/-! Proofs of the statement about the commands of PART_CMD (R287, R289, R295, R296, R298 to R302, R304, R305). -/
namespace Sys2Proof.Machine

/-- The word of PART_CMD that names an operation and a partition (Table 13.3). -/
theorem partCmd_plain (p op : Nat) : b2n false <<< 28 + p <<< 16 + op = p <<< 16 + op := by
  rw [b2n, if_neg Bool.false_ne_true, Nat.zero_shiftLeft, Nat.zero_add]

/-- The device once PART_CMD holds `v` and `op` of a partition was accepted: status 0 stands in PART_CMD_RES, and the word of
the partition's record with its state was read (R289, log entry 162). -/
def partAccepted (s : State) (v op p : Nat) : Dev :=
  touch s.tim (partResult (wr (wr s.dev partBlk .partCmd v) partBlk .partCmd (p <<< 16 + op)) false 0 op p)
    partBlk 0 (partWord p 15)

section Accepted
variable {s : State} {p : Nat} (hp : p < 4096) (hp0 : p ≠ 0) (ho : Open s.dev partBlk)
include hp hp0 ho

/-- An operation that the state of its partition, and Crust mode, allow is accepted and done (R289, Table 13.3). -/
theorem partOp_accepted {op : Nat} (known : 1 ≤ op ∧ op ≤ 9) (calm : op ≤ 5 ∨ op = 9 ∨ crustState s.dev = 0)
    (allowed : partAllows (part s.dev p) op = true) : partOp s op p 0 = .next (settled s
      (partDo s.tim (partAccepted s (written s partBlk .partCmd (p <<< 16 + op)) op p) (createCheck s.dev p) op p false
        ⟨[], []⟩)) := by
  have effect := partCmdWrite_ok s p op false ⟨[], []⟩ hp (by omega) (fun none => absurd none hp0) (by omega) allowed
  have small : p <<< 16 + op < 2 ^ 64 := by
    rw [Nat.shiftLeft_eq]
    omega
  rw [partCmd_plain] at effect
  have word : 0 <<< 28 + p <<< 16 + op = p <<< 16 + op := by rw [Nat.zero_shiftLeft, Nat.zero_add]
  rw [partOp, word]
  exact act_ok (decide_eq_true hp) (hostWrite_ok _ _ _ _ _ _ _ small (spot_of .part .partCmd 0 0 (by decide) (by decide)) ho rfl
    (.inl rfl) (by decide) (congrArg Wrote.ok effect))

/-- RESTORE reads the image that comes with it (R302, log entry 24). -/
theorem restore_accepted (calm : crustState s.dev = 0) (allowed : partAllows (part s.dev p) 8 = true) (img : SaveHead) :
    exec (.restore p img) s = .next (settled s (partRestore s.tim (partAccepted s (p <<< 16 + 8) 8 p) p img)) := by
  have place : Spot partBlk 0 .partCmd 0 := spot_of .part .partCmd 0 0 (by decide) (by decide)
  have live : livePage s.dev (regOff partBlk 0 .partCmd 0) = some (partBlk, 0) := livePage_open _ _ _ _ _ place ho
  have reads : restoreWrite s.tim s.dev p img = partCmdWrite s.tim s.dev .whole (p <<< 16 + 8) img :=
    if_pos (by simp only [ho.1, live, ho.2.2.1, beq_self_eq_true, Bool.not_false, Bool.and_self])
  obtain ⟨-, op, named, mode⟩ := partCmd_word false p 8 hp (by decide)
  rw [partCmd_plain] at op named mode
  have starts : partCmdWrite s.tim s.dev .whole (p <<< 16 + 8) img
      = partCommand s.tim (wr s.dev partBlk .partCmd (p <<< 16 + 8)) 8 p false img := by
    simp only [partCmdWrite, op, named, mode]
    exact if_pos (by decide)
  have status : partStatus (wr (wr s.dev partBlk .partCmd (p <<< 16 + 8)) partBlk .partCmd (b2n false <<< 28 + p <<< 16 + 8)) p 8
      = 0 := by
    simp only [partStatus, hp0, part_wr, allowed, crust_partCmd, calm, ne_eq, not_true_eq_false, decide_false, Bool.false_and,
      Bool.and_false, Bool.not_true, Bool.false_eq_true, if_false]
  have does := partCommand_ok s.tim (wr s.dev partBlk .partCmd (p <<< 16 + 8)) 8 p false img status
  rw [partCmd_plain] at does
  exact act_ok (decide_eq_true hp) (reads.trans (starts.trans does))

end Accepted

/-- Settles O48: each command is accepted in the states that Table 13.2 lists for it, and does what its operation does. -/
theorem partitionCommandsAreAccepted : Obligations.PartitionCommandsAreAccepted := by
  unfold Obligations.PartitionCommandsAreAccepted
  intro s p hp hp0 ho
  have accepts (op : Nat) := partOp_accepted (op := op) hp hp0 ho
  refine ⟨fun absent fits => ?create, fun absent unfit => ?refused, fun ended => ?delete, fun runs => ?quiesce,
    fun live => ?reset, fun stopped => ?start, fun calm runs unfolded => ?freeze, fun calm frozen idle => ?save,
    fun calm ready img => ?restore, fun frozen idle => ?thaw⟩
  case create =>
    refine (accepts 1 (by decide) (.inl (by decide)) (beq_iff_eq.2 absent)).trans ?_
    exact next_settled_congr (if_pos fits)
  case refused =>
    refine (accepts 1 (by decide) (.inl (by decide)) (beq_iff_eq.2 absent)).trans ?_
    exact next_settled_congr (if_neg unfit)
  case delete =>
    have accepted := accepts 2 (by decide) (.inl (by decide)) (beq_iff_eq.2 ended)
    exact ⟨fun purges => accepted.trans (next_settled_congr (if_pos purges)),
      fun fresh => accepted.trans (next_settled_congr (if_neg (ne_true_of_eq_false fresh)))⟩
  case quiesce => exact accepts 3 (by decide) (.inl (by decide)) (beq_iff_eq.2 runs)
  case reset =>
    refine accepts 4 (by decide) (.inl (by decide)) ?_
    rcases live with h | h | h | h <;> simp [partAllows, h]
  case start =>
    refine accepts 5 (by decide) (.inl (by decide)) ?_
    rcases stopped with h | h <;> simp [partAllows, h]
  case freeze => exact accepts 6 (by decide) (.inr (.inr calm)) (by simp [partAllows, runs, unfolded])
  case save => exact accepts 7 (by decide) (.inr (.inr calm)) (by simp [partAllows, frozen, idle])
  case restore =>
    refine restore_accepted hp hp0 ho calm ?_ img
    rcases ready with absent | ⟨frozen, idle⟩
    · simp [partAllows, absent]
    · simp [partAllows, frozen, idle]
  case thaw => exact accepts 9 (by decide) (.inr (.inl rfl)) (by simp [partAllows, frozen, idle])

end Sys2Proof.Machine
end

section
/-! Proofs of the statement about what runs on after a command of a partition (R295, R296, R299, R301, R302, R304). -/
namespace Sys2Proof.Machine

section Stops
variable {t : TimeState} {d : Dev} {p : Nat}

/-- A quiescing partition that has nothing left is QUIESCED: its rings stop for good, and the manager hears of it (R295). -/
theorem partQuiesced_ends (quiesces : (part d p).st = 2) (work : partWork d p = false) (descs : partDescs d p = false) :
    partQuiesced t d p
      = partEnd t (stopRings (setPart (drainWrites d p) p { part d p with st := 3 }) p 3 true) 0 3 p :=
  if_neg (by simp only [quiesces, work, descs, ne_eq, not_true_eq_false, decide_false, Bool.or_self, Bool.false_eq_true,
    not_false_eq_true])

section Reset
variable {r : ResetRun} (runs : (part d p).run = some r)
include runs

/-- The end of DRAIN_US flushes what is left in the queues (R296). -/
theorem drainExpiry_flushes : drainExpiry t d p
    = partFlush t (setPart d p { part d p with run := some { r with drained := true } }) p := by
  simp only [drainExpiry, runs]

/-- A slow reset is noted once (R296). -/
theorem resetSlow_notes (first : r.slow = false) : resetSlow t d p
    = errFault t (setPart d p { part d p with run := some { r with slow := true } }) partBlk 0 22 0 0 := by
  simp only [resetSlow, runs, first, Bool.false_eq_true, if_false]

/-- A reset whose queues are flushed, if they are to be, and whose held copies are gone (R296). -/
def resetFlushed (t : TimeState) (d : Dev) (p : Nat) (r : ResetRun) : Dev :=
  partHeld t (if r.drained then partFlush t d p else d) p

/-- A reset waits while frames or copies of the partition are in hand, and while descriptors that it ended are left; then its
rings stop for good and the partition is STOPPED (R296). -/
theorem partResetDone_runs : partResetDone t d p =
    let e := resetFlushed t d p r
    if partWork e p then e
    else if partDescs (abortDescs e p) p then abortDescs e p
    else
      let f := stopRings (drainWrites (abortDescs e p) p) p 3 true
      partEnd t (setPart f p { part f p with st := 5, run := none }) 0 4 p := by
  unfold partResetDone
  rw [runs]
  rfl

end Reset
end Stops

section Purge
variable {t : TimeState} {d : Dev} {p : Nat} (purges : (part d p).purging = true)
include purges

/-- The purge of a partition makes its batch while none does, or when it lost the one that it had (R299). -/
def purgeAgain (t : TimeState) (d : Dev) (p : Nat) : Dev :=
  if (part d p).found = 200 || ((part d p).found = 201 && noBatch d p ringPurge) then purgeBatch t d p else d

/-- A port of the partition is not OFF yet. -/
def portsBusy (d : Dev) (p : Nat) : Bool := (ownPorts d p).any (fun l => (blkSt d ⟨.mac, l⟩).cur != 0)

/-- A purge whose batches have ended and whose ports are OFF ends, and takes the rest with it (R299). -/
theorem purgeDone_ends (batches : (part (purgeAgain t d p) p).found = 202) (ports : portsBusy (purgeAgain t d p) p = false) :
    purgeDone t d p = partEnd t (purgeRest (purgeAgain t d p) p) 0 2 p := by
  refine (if_neg (by rw [purges]; decide)).trans (if_neg ?_)
  rw [Bool.or_eq_true, decide_eq_true_eq]
  exact not_or_intro (not_not_intro batches) (ne_true_of_eq_false ports)

/-- Else it goes on (R299). -/
theorem purgeDone_waits (left : (part (purgeAgain t d p) p).found ≠ 202 ∨ portsBusy (purgeAgain t d p) p = true) :
    purgeDone t d p = purgeAgain t d p := by
  refine (if_neg (by rw [purges]; decide)).trans (if_pos ?_)
  rw [Bool.or_eq_true, decide_eq_true_eq]
  exact left

end Purge

section Save
variable {t : TimeState} {d : Dev} {p : Nat} {ok : Bool}

/-- What a save does with the views `v` once nothing forbids that it ends (R301). -/
def saveEnding (t : TimeState) (x : Part) (p : Nat) (ok : Bool) (v : Dev × Dev) : Dev :=
  let kind := x.job.getD 2 0
  let (view, d) := v
  let l := buildImage t view p kind
  let kib := ceilDiv l.length 1024
  let d := setPart d p { x with saving := false, job := [] }
  if !ok then partEnd t d 13 7 p
  else if x.job.headD 0 = 1 && areaKib d (x.job.getD 1 0) < kib then partEnd t d 12 7 p
  else partEnd t (wrF (putImage d x.job l) partBlk .partImgCtrl 31 0 kib) 0 7 p

/-- A save ends outside Crust mode once the stacks that it uses are ON (R280, R301). -/
theorem saveDone_ends (saves : (part d p).saving = true) (calm : crustState d = 0)
    (ready : stacksReady d p (if (part d p).job.headD 0 = 1 then [(part d p).job.getD 1 0] else []) = true) :
    saveDone t d p ok = saveEnding t (part d p) p ok (saveViews t d p ((part d p).job.getD 2 0)) := by
  have guard : ¬ (!(part d p).saving || crustState d ≠ 0
      || !stacksReady d p (if (part d p).job.headD 0 = 1 then [(part d p).job.getD 1 0] else [])) = true := by
    simp only [saves, calm, ready, ne_eq, not_true_eq_false, decide_false, Bool.not_true, Bool.or_self, Bool.false_eq_true,
      not_false_eq_true]
  unfold saveDone saveEnding
  rw [if_neg guard]

variable {x : Part} {v : Dev × Dev}

/-- The device when a save has ended (R301). -/
def saveOver (x : Part) (p : Nat) (v : Dev × Dev) : Dev := setPart v.2 p { x with saving := false, job := [] }

/-- The length of the image that a save writes, in KiB (R301). -/
def savedKib (t : TimeState) (x : Part) (p : Nat) (v : Dev × Dev) : Nat :=
  ceilDiv (buildImage t v.1 p (x.job.getD 2 0)).length 1024

/-- A save whose writes failed ends with DMA_FAULT (R301). -/
theorem saveEnding_failed : saveEnding t x p false v = partEnd t (saveOver x p v) 13 7 p := rfl

/-- A save to an area that is too small ends with the status for it (R301). -/
theorem saveEnding_small (area : x.job.headD 0 = 1) (small : areaKib (saveOver x p v) (x.job.getD 1 0) < savedKib t x p v) :
    saveEnding t x p true v = partEnd t (saveOver x p v) 12 7 p :=
  if_pos (Bool.and_eq_true_iff.2 ⟨decide_eq_true area, decide_eq_true small⟩)

/-- Else it ends with the image written and its length in PART_IMG_CTRL (R301). -/
theorem saveEnding_fits
    (fits : ¬ (x.job.headD 0 = 1 ∧ areaKib (saveOver x p v) (x.job.getD 1 0) < savedKib t x p v)) :
    saveEnding t x p true v = partEnd t (wrF (putImage (saveOver x p v) x.job (buildImage t v.1 p (x.job.getD 2 0))) partBlk
      .partImgCtrl 31 0 (savedKib t x p v)) 0 7 p := by
  refine if_neg ?_
  rw [Bool.and_eq_true, decide_eq_true_eq, decide_eq_true_eq]
  exact fits

end Save

section Restore
variable {t : TimeState} {d : Dev} {p o : Nat}

/-- A full restore makes its batch while none does, or when it lost the one that it had (R302). -/
def restoreAgain (t : TimeState) (d : Dev) (p : Nat) : Dev :=
  if (part d p).found = 200 || ((part d p).found = 201 && noBatch d p ringRestore) then restoreTables t d p else d

/-- The registers of an image are the partition's, which is FROZEN as it was saved (R302). -/
def restoreApplied (t : TimeState) (d : Dev) (p : Nat) (l : List Byte) : Dev :=
  let e := applyRegs t d p (restoreSects d p l)
  partEnd t (setPart e p { part e p with
    st := 6, imgHead := none, found := 0, mode := bit (imgWord l 0) 3,
    imageId := fld (imgWord l 1) 63 32, frozenVer := verCurrent e }) 0 8 p

/-- How a full restore goes on once its tables are built: it applies the registers, ends with the status that the tables gave,
or waits (R302). -/
def restoreGoesOn (t : TimeState) (d : Dev) (p : Nat) (l : List Byte) : Dev :=
  if (part d p).found = 202 && stacksReady d p [] then restoreApplied t d p l
  else if (part d p).found < 16 then restoreEnd t d p (part d p).found
  else d

/-- How a restore goes on outside Crust mode (R302, R303): it ends with a failed read, with the status of a failed check, or as
its kind does. -/
theorem restoreDone_held (image : (part d p).imgHead.isSome = true) (calm : crustState d = 0) : restoreDone t d p o =
    if o = 13 && (part d p).found ≠ 201 && (part d p).found ≠ 202 then restoreEnd t d p 13
    else if (part d p).found < 16 then restoreEnd t d p (part d p).found
    else if (part d p).st = 7 then restoreGoesOn t (restoreAgain t d p) p (restoreImage (part d p))
    else if o = 13 then restoreEnd t d p 13
    else if !stacksReady d p [] then d
    else restoreEnd t (addDeltas d p (restoreSects d p (restoreImage (part d p)))) p 0 := by
  have there : (part d p).imgHead.isNone = false := by rw [← Option.not_isSome, image]; rfl
  exact if_neg (by simp only [there, calm, ne_eq, not_true_eq_false, decide_false, Bool.or_self, Bool.false_eq_true,
    not_false_eq_true])

/-- A full restore whose read did not fail, or that has its tables already, goes on (R302). -/
theorem restoreDone_full (image : (part d p).imgHead.isSome = true) (calm : crustState d = 0)
    (going : o ≠ 13 ∨ (part d p).found = 201 ∨ (part d p).found = 202) (kept : 16 ≤ (part d p).found)
    (full : (part d p).st = 7) :
    restoreDone t d p o = restoreGoesOn t (restoreAgain t d p) p (restoreImage (part d p)) := by
  have goesOn : ¬ (o = 13 && (part d p).found ≠ 201 && (part d p).found ≠ 202) = true := by
    simp only [Bool.and_eq_true, decide_eq_true_eq]
    omega
  rw [restoreDone_held image calm, if_neg goesOn, if_neg (not_lt.2 kept), if_pos full]

/-- A restore of deltas whose read failed ends with DMA_FAULT (R302). -/
theorem restoreDone_deltasFailed (image : (part d p).imgHead.isSome = true) (calm : crustState d = 0)
    (found : (part d p).found = 202) (delta : (part d p).st = 6) : restoreDone t d p 13 = restoreEnd t d p 13 := by
  rw [restoreDone_held image calm, found, delta]
  rfl

/-- A restore of deltas adds them once the stacks that they need are ON (R302). -/
theorem restoreDone_deltas (image : (part d p).imgHead.isSome = true) (calm : crustState d = 0) (fine : o ≠ 13)
    (found : (part d p).found = 202) (delta : (part d p).st = 6) (ready : stacksReady d p [] = true) :
    restoreDone t d p o = restoreEnd t (addDeltas d p (restoreSects d p (restoreImage (part d p)))) p 0 := by
  simp only [restoreDone_held image calm, found, delta, fine, ready, decide_false, Bool.false_and, Bool.false_eq_true, if_false,
    Nat.reduceEqDiff, Bool.not_true]
  rfl

variable {l : List Byte}

/-- The registers of the image are applied once the tables are built and the stacks are ON (R302). -/
theorem restoreGoesOn_applies (built : (part d p).found = 202) (ready : stacksReady d p [] = true) :
    restoreGoesOn t d p l = restoreApplied t d p l :=
  if_pos (Bool.and_eq_true_iff.2 ⟨decide_eq_true built, ready⟩)

/-- A status that the tables gave ends the restore (R302). -/
theorem restoreGoesOn_status (status : (part d p).found < 16) : restoreGoesOn t d p l = restoreEnd t d p (part d p).found := by
  have unbuilt : (part d p).found ≠ 202 := by omega
  simp only [restoreGoesOn, status, unbuilt, decide_false, Bool.false_and, Bool.false_eq_true, if_false, if_true]

/-- Else the restore waits (R302). -/
theorem restoreGoesOn_waits (unended : 16 ≤ (part d p).found)
    (waits : (part d p).found ≠ 202 ∨ stacksReady d p [] = false) : restoreGoesOn t d p l = d := by
  have waiting : ¬ (decide ((part d p).found = 202) && stacksReady d p []) = true := by
    rw [Bool.and_eq_true, decide_eq_true_eq, ← Bool.not_eq_false]
    exact fun ⟨built, ready⟩ => waits.elim (· built) ready
  rw [restoreGoesOn, if_neg waiting, if_neg (not_lt.2 unended)]

end Restore

section Fold
variable {t : TimeState} {d : Dev} {p : Nat}

/-- The counts of a partition's deltas that have not reached their stacks yet (R304). -/
def deltaWaits (d : Dev) (p : Nat) : List Machine.Acc := (d.fc.acc ++ d.fc.flush).filter (fun a => a.delta && a.part == p)

/-- The deltas of a partition folded into its counters, with those that wait (R304). -/
def foldedCounts (t : TimeState) (d : Dev) (p : Nat) : Dev :=
  let e := (deltaWaits d p).foldl (fun d a => addCtr t d a.cluster a.index false a.pkts a.bytes)
    ((upto 0 8).foldl (fun d c => (foldIxs d p c).foldl (foldOne t c) d) d)
  setFc e { e.fc with
    acc := e.fc.acc.filter (fun a => !(a.delta && a.part == p))
    flush := e.fc.flush.filter (fun a => !(a.delta && a.part == p)) }

/-- A fold ends outside Crust mode, with no restore of deltas in hand, once the stacks that hold a delta are ON (R280,
R304). -/
theorem foldDone_ends (folds : (part d p).folding = true) (calm : crustState d = 0)
    (alone : (part d p).imgHead.isSome = false)
    (stored : ∀ e ∈ d.fc.deltas, inRange d p 3 (e.1 % 2 ^ 24) = true → isOn d (stackFor d (e.1 / 2 ^ 24)) = true)
    (waiting : ∀ a ∈ deltaWaits d p, isOn d (stackFor d a.cluster) = true) : foldDone t d p =
      partEnd t (setPart (foldedCounts t d p) p { part (foldedCounts t d p) p with folding := false }) 0 9 p := by
  refine if_neg ?_
  have on : ((d.fc.deltas.filter (fun (e : Nat × Nat) => inRange d p 3 (e.1 % 2 ^ 24))).map (fun (e : Nat × Nat) => e.1 / 2 ^ 24)
      ++ (deltaWaits d p).map (fun (a : Machine.Acc) => a.cluster)).all (fun c => isOn d (stackFor d c)) = true := by
    rw [List.all_eq_true]
    intro c hc
    rcases List.mem_append.1 hc with delta | wait
    · obtain ⟨e, he, rfl⟩ := List.mem_map.1 delta
      obtain ⟨held, mine⟩ := List.mem_filter.1 he
      exact stored e held mine
    · obtain ⟨a, ha, rfl⟩ := List.mem_map.1 wait
      exact waiting a ha
  unfold deltaWaits at on
  simp only [folds, calm, alone, on, ne_eq, not_true_eq_false, decide_false, Bool.not_true, Bool.or_self, Bool.false_eq_true,
    not_false_eq_true]

end Fold

/-- Settles O49: how each of a partition's longer operations goes on and ends. -/
theorem partitionWorkEnds : Obligations.PartitionWorkEnds := by
  unfold Obligations.PartitionWorkEnds
  intro s p hp
  have goes {d d'} (e : d = d') := act_ok (s := s) (ok := isPart p) (decide_eq_true hp) e
  refine ⟨fun quiesces work descs => goes (partQuiesced_ends quiesces work descs), fun r runs => ?reset,
    fun purges => ⟨fun batches ports => goes (purgeDone_ends purges batches ports), fun left => goes (purgeDone_waits purges left)⟩,
    fun saves calm ready => ?save, fun image calm o => ?restore,
    fun folds calm alone stored waiting => goes (foldDone_ends folds calm alone stored waiting)⟩
  case reset =>
    have ends := partResetDone_runs (t := s.tim) runs
    refine ⟨goes (drainExpiry_flushes runs), fun first => goes (resetSlow_notes runs first),
      fun work => goes (ends.trans (if_pos work)), fun work descs => goes (ends.trans ?_), fun work descs => goes (ends.trans ?_)⟩
    · exact (if_neg (ne_true_of_eq_false work)).trans (if_pos descs)
    · exact (if_neg (ne_true_of_eq_false work)).trans (if_neg (ne_true_of_eq_false descs))
  case save =>
    have ends (ok : Bool) := saveDone_ends (t := s.tim) (ok := ok) saves calm ready
    refine ⟨fun fits => goes ((ends true).trans (saveEnding_fits fits)),
      fun ⟨area, small⟩ => goes ((ends true).trans (saveEnding_small area small)), goes ((ends false).trans saveEnding_failed)⟩
  case restore =>
    have held := restoreDone_held (t := s.tim) (o := o) image calm
    refine ⟨fun failed free loose => goes (held.trans (if_pos ?_)), fun fine status => goes (held.trans ?_),
      fun going kept full => ?full, fun failed found delta => goes ?_,
      fun fine found delta ready => goes (restoreDone_deltas image calm fine found delta ready)⟩
    · simp only [failed, free, loose, ne_eq, not_false_eq_true, decide_true, Bool.and_self]
    · simp only [fine, status, decide_false, Bool.false_and, Bool.false_eq_true, if_false, if_true]
    case full =>
      have on := restoreDone_full (t := s.tim) image calm going kept full
      exact ⟨fun built ready => goes (on.trans (restoreGoesOn_applies built ready)),
        fun status => goes (on.trans (restoreGoesOn_status status)),
        fun unended waits => goes (on.trans (restoreGoesOn_waits unended waits))⟩
    · rw [failed]
      exact restoreDone_deltasFailed image calm found delta

end Sys2Proof.Machine
end

section
/-! PROOFS of O26: ports come up and go down, take their widths, and give their transmit timestamps. -/
namespace Sys2Proof.Machine

/-- A port that is ON, with nothing against it, comes up and keeps its count of link-downs (R392). -/
theorem portUpNow_rises {d : Dev} {port : Nat} (hp : port < 1024) (an : Bool) (on : isOn d ⟨.mac, port⟩ = true)
    (wide : portWidth d port ≠ 0) (down : bit (rd d ⟨.mac, port⟩ .macStat) 63 = false)
    (clock : clocked d (portCluster port) = true) (awake : slcState d (portSlice port) ≤ 1) (runs : halted d = false)
    (owned : (part d (memGet d .partPort 0 port)).st ≠ 0) :
    portUpNow d port an = wr d ⟨.mac, port⟩ .macStat
      (7 <<< 61 + b2n (an && bit (rd d ⟨.mac, port⟩ .macCfg) 54) <<< 60 + fld (rd d ⟨.mac, port⟩ .macStat) 15 0) := by
  refine if_pos ?_
  simp only [hp, on, bne_iff_ne.2 wide, down, clock, awake, runs, bne_iff_ne.2 owned, decide_true, Bool.not_false, Bool.and_self]

section Width
variable {d : Dev} {lane v : Nat} (wide : portWidth d lane ≠ 0) (quiet : (blkSt d ⟨.mac, portOf d lane⟩).cur = 0)
include wide quiet

/-- A write that keeps the width is stored (R393). -/
theorem writeMacCfg_keeps (same : fld v 59 56 = portWidth d lane) : writeMacCfg d lane v
    = some (wr d ⟨.mac, lane⟩ .macCfg (putFld (v.land (rwMask .macCfg)) 59 56 (portWidth d lane))) := by
  refine (if_neg ?_).trans (if_pos same)
  simp only [wide, quiet, decide_false, beq_self_eq_true, Bool.not_true, Bool.or_self, Bool.false_eq_true, not_false_eq_true]

/-- A write of another width takes lanes that are all OFF, and those that it leaves become ports of one lane (R393). -/
theorem writeMacCfg_changes (other : fld v 59 56 ≠ portWidth d lane)
    (width : fld v 59 56 = 1 ∨ fld v 59 56 = 2 ∨ fld v 59 56 = 4 ∨ fld v 59 56 = 8) (fits : lane % fld v 59 56 = 0)
    (free : ∀ l ∈ upto lane (fld v 59 56), (blkSt d ⟨.mac, portOf d l⟩).cur = 0) : writeMacCfg d lane v =
      some (wrF ((upto (lane + 1) (fld v 59 56 - 1)).foldl (fun d l => wrF d ⟨.mac, l⟩ .macCfg 59 56 0)
        ((upto (lane + fld v 59 56) (portWidth d lane - fld v 59 56)).foldl (fun d l => wrF d ⟨.mac, l⟩ .macCfg 59 56 1)
          (wr d ⟨.mac, lane⟩ .macCfg (putFld (v.land (rwMask .macCfg)) 59 56 (portWidth d lane)))))
        ⟨.mac, lane⟩ .macCfg 59 56 (fld v 59 56)) := by
  refine (if_neg ?_).trans ((if_neg other).trans (if_pos ?_))
  · simp only [wide, quiet, decide_false, beq_self_eq_true, Bool.not_true, Bool.or_self, Bool.false_eq_true, not_false_eq_true]
  · have off : (upto lane (fld v 59 56)).all (fun l => (blkSt d ⟨.mac, portOf d l⟩).cur == 0) = true :=
      List.all_eq_true.2 fun l hl => beq_iff_eq.2 (free l hl)
    simp only [off, fits, decide_true, Bool.and_true, Bool.or_eq_true, decide_eq_true_eq, or_assoc]
    exact width

end Width

/-- A write of MAC_CFG whose own effect is `e`. -/
theorem macCfgWrite_ok {s : State} {lane : Nat} {w : Word} {e : Dev} (hl : lane < 1024) (ho : Open s.dev ⟨.mac, lane⟩)
    (stored : writeMacCfg s.dev lane (written s ⟨.mac, lane⟩ .macCfg w.toNat) = some e) :
    hostWrite s.tim s.dev ⟨.mac, lane⟩ .macCfg 0 w.toNat = e :=
  hostWrite_ok _ _ _ _ _ _ _ w.isLt (spot_of .mac .macCfg 0 lane hl (by decide)) ho rfl (.inr (.inr rfl)) (by decide)
    (congrArg wrote stored)

/-- A pop takes the port's oldest transmit timestamp (R396). -/
theorem popTxts_takes {d : Dev} {lane : Nat} {e : Nat × List Nat}
    (oldest : findFirst (fun e => e.1 == lane) d.fp.txts = some e) : popTxts d lane =
      (e.2.getD 0 0, wr (setFp d { d.fp with txts := eraseFirst (fun e => e.1 == lane) d.fp.txts }) ⟨.mac, lane⟩ .macTxtsB
        (e.2.getD 1 0)) := by
  unfold popTxts
  rw [oldest]

/-- A read of TXTS_A of a port pops (R396). -/
theorem txtsRead_pops {s : State} {lane : Nat} (hl : lane < 1024) (ho : Open s.dev ⟨.mac, lane⟩)
    (outer : innerLane s.dev ⟨.mac, lane⟩ = false) : hostRead s.tim s.dev ⟨.mac, lane⟩ .macTxtsA 0
      = answer (popTxts s.dev lane).2 (popTxts s.dev lane).1 :=
  hostRead_ok _ _ _ _ _ (spot_of .mac .macTxtsA 0 lane hl (by decide)) ho rfl (.inl outer) rfl

/-- Settles O26: what each event of a port does. -/
theorem portsComeUpAndGoDown : Obligations.PortsComeUpAndGoDown := by
  unfold Obligations.PortsComeUpAndGoDown
  refine ⟨fun s port hp => ⟨?up, ?down⟩, fun s lane w hl ho wide quiet => ⟨?keeps, ?changes⟩,
    fun s lane e hl ho outer oldest => ?pop⟩
  case up =>
    exact fun an on wide down clock awake runs owned =>
      act_ok (decide_eq_true hp) (portUpNow_rises hp an on wide down clock awake runs owned)
  case down => exact fun up => act_ok (decide_eq_true hp) (if_pos up)
  case keeps =>
    exact fun same => act_ok (decide_eq_true hl) (macCfgWrite_ok hl ho (writeMacCfg_keeps wide quiet same))
  case changes =>
    exact fun other width fits free =>
      act_ok (decide_eq_true hl) (macCfgWrite_ok hl ho (writeMacCfg_changes wide quiet other width fits free))
  case pop =>
    refine act_ok (decide_eq_true hl) ((txtsRead_pops hl ho outer).trans ?_)
    rw [popTxts_takes oldest]

end Sys2Proof.Machine
end

section
/-! PROOFS of O27: PRBS sets and JTAG instructions. -/
namespace Sys2Proof.Machine

section Prbs
variable {d : Dev} {lane : PrbsLane}

/-- The register of a PRBS set that enables its checker, or its generator (R401). -/
def prbsEnableReg (lane : PrbsLane) (checker : Bool) : Reg := if checker then (prbsSet lane).chk else (prbsSet lane).gen

/-- Enabling a free lane's generator stores its register, and enabling its checker clears the lock as well (R400, R401). -/
theorem writePrbsEn_free (free : prbsFree d lane = true) (checker : Bool) (v : Nat) : writePrbsEn d lane checker v =
    some (if checker then wrF (wr d (prbsSet lane).blk (prbsEnableReg lane checker) (v.land (rwMask (prbsEnableReg lane checker)))
        (prbsSet lane).ix) (prbsSet lane).blk (prbsSet lane).stat 63 63 0 (prbsSet lane).ix
      else wr d (prbsSet lane).blk (prbsEnableReg lane checker) (v.land (rwMask (prbsEnableReg lane checker))) (prbsSet lane).ix) := by
  refine if_neg ?_
  simp only [free, Bool.not_true, Bool.and_false, Bool.false_eq_true, not_false_eq_true]

/-- The register that enables a lane's generator or checker is one of its page. -/
theorem prbsEnableReg_spot (there : prbsExists lane = true) (checker : Bool) :
    Spot (prbsSet lane).blk (regSub (prbsEnableReg lane checker)) (prbsEnableReg lane checker) (prbsSet lane).ix := by
  cases lane with
  | sds l =>
    cases checker with
    | false => exact spot_of .sds .sdsPrbsGen 0 l (of_decide_eq_true there) (by decide)
    | true => exact spot_of .sds .sdsPrbsChk 0 l (of_decide_eq_true there) (by decide)
  | d2d i =>
    cases checker with
    | false => exact spot_of .d2d .d2dPrbsGen 0 i (of_decide_eq_true there) (by decide)
    | true => exact spot_of .d2d .d2dPrbsChk 0 i (of_decide_eq_true there) (by decide)
  | csl l =>
    have rows : ∀ l < 8, ∀ checker, Spot cslBlk (regSub (prbsEnableReg (.csl l) checker)) (prbsEnableReg (.csl l) checker) l := by
      unfold Spot
      decide
    exact rows l (of_decide_eq_true there) checker
  | pci l =>
    have rows : ∀ l < 4, ∀ checker, Spot pciBlk (regSub (prbsEnableReg (.pci l) checker)) (prbsEnableReg (.pci l) checker) l := by
      unfold Spot
      decide
    exact rows l (of_decide_eq_true there) checker

/-- A host may write it. -/
theorem prbsEnableReg_writable (lane : PrbsLane) (checker : Bool) (lock : Bool) :
    Half.whole.mask.land (accMask (prbsEnableReg lane checker) (codeWrites lock)) ≠ 0 := by
  have rows : ∀ lane ∈ [PrbsLane.sds 0, .csl 0, .pci 0, .d2d 0], ∀ checker lock,
      Half.whole.mask.land (accMask (prbsEnableReg lane checker) (codeWrites lock)) ≠ 0 := by decide
  cases lane with
  | sds _ => exact rows (.sds 0) (by decide) checker lock
  | csl _ => exact rows (.csl 0) (by decide) checker lock
  | pci _ => exact rows (.pci 0) (by decide) checker lock
  | d2d _ => exact rows (.d2d 0) (by decide) checker lock

/-- A write of that register is what enabling does. -/
theorem prbsEnableReg_writes (t : TimeState) (checker : Bool) (sub off w v : Nat) :
    writeEffect t d (prbsSet lane).blk sub (prbsEnableReg lane checker) (prbsSet lane).ix off .whole w v false
      = wrote (writePrbsEn d lane checker v) := by
  cases lane <;> cases checker <;> rfl

/-- A host's write of that register, where the lane is free (R401). -/
theorem prbsEnable_ok {s : State} {w : Word} {e : Dev} (there : prbsExists lane = true) (ho : Open s.dev (prbsSet lane).blk)
    (checker : Bool) (enabled : writePrbsEn s.dev lane checker (mergeWrite s.dev (prbsSet lane).blk
      (regSub (prbsEnableReg lane checker)) (prbsEnableReg lane checker) .whole
      (regView s.tim s.dev (prbsSet lane).blk (regSub (prbsEnableReg lane checker)) (prbsEnableReg lane checker)
        (prbsSet lane).ix) w.toNat) = some e) :
    hostWrite s.tim s.dev (prbsSet lane).blk (prbsEnableReg lane checker) (prbsSet lane).ix w.toNat = e := by
  have unreserved : reservedNow s.dev (prbsSet lane).blk (prbsEnableReg lane checker) = false := by
    cases lane <;> cases checker <;> rfl
  have outer : innerLane s.dev (prbsSet lane).blk = false := by cases lane <;> rfl
  exact hostWrite_ok _ _ _ _ _ _ _ w.isLt (prbsEnableReg_spot there checker) ho unreserved (.inl outer)
    (prbsEnableReg_writable lane checker)
    ((prbsEnableReg_writes _ checker _ _ _ _).trans (congrArg wrote enabled))

/-- A lock is taken where the checker runs (R400). -/
theorem prbsLocked_takes (there : prbsExists lane = true)
    (checks : bit (rd d (prbsSet lane).blk (prbsSet lane).chk (prbsSet lane).ix) 63 = true) :
    prbsLocked d lane = wrF d (prbsSet lane).blk (prbsSet lane).stat 63 63 1 (prbsSet lane).ix :=
  if_pos (Bool.and_eq_true_iff.2 ⟨there, checks⟩)

/-- A loss of a lock counts one and keeps the loss (R400). -/
theorem prbsLost_counts (there : prbsExists lane = true)
    (locked : bit (rd d (prbsSet lane).blk (prbsSet lane).stat (prbsSet lane).ix) 63 = true) :
    prbsLost d lane = wr (prbsCounted d lane) (prbsSet lane).blk (prbsSet lane).stat
      (2 ^ 62 + min 0xFFFF (fld (rd (prbsCounted d lane) (prbsSet lane).blk (prbsSet lane).stat (prbsSet lane).ix) 15 0 + 1))
      (prbsSet lane).ix :=
  if_pos (Bool.and_eq_true_iff.2 ⟨there, locked⟩)

end Prbs

section Jtag
variable {d : Dev} {code : Nat} (on : powered d = true)
include on

/-- IDCODE sends the code (R402). -/
theorem jtagLoad_idcode : jtagLoad d 1 = send (memSet d .boot 0 9 1)
    (.readData (BitVec.ofNat 64 (0xB9204 <<< 12 + Config.jep106.toNat <<< 1 + 1))) := by
  unfold jtagLoad
  rw [on]
  rfl

/-- BYPASS, and with it any other instruction, sends nothing (R402). -/
theorem jtagLoad_bypass (other : code = 0 ∨ 7 < code) : jtagLoad d code = memSet d .boot 0 9 0 := by
  unfold jtagLoad
  rw [on]
  rcases other with rfl | high
  · rfl
  · rw [if_pos high]
    rfl

/-- SAMPLE sends nothing (R402). -/
theorem jtagLoad_sample : jtagLoad d 2 = memSet d .boot 0 9 2 := by
  unfold jtagLoad
  rw [on]
  rfl

/-- An instruction that takes the pins leaves ALIVE unforced (R402). -/
theorem jtagLoad_pins (low : 3 ≤ code) (high : code ≤ 7) : jtagLoad d code =
    { (fresh (memSet d .boot 0 9 code)).2 with alive := (fresh (memSet d .boot 0 9 code)).1 % 2 == 1 } := by
  have other : code ≠ 1 := by omega
  unfold jtagLoad
  simp only [on, not_lt_of_ge high, other, low, Bool.not_true, Bool.false_eq_true, if_false, if_true]

end Jtag

/-- Settles O27: what each PRBS event and each JTAG instruction does. -/
theorem prbsAndJtag : Obligations.PrbsAndJtag := by
  unfold Obligations.PrbsAndJtag
  refine ⟨fun s lane w checker there => ?enable, fun s lane there => ?checks, fun s on => ?jtag⟩
  case enable =>
    exact fun ho free => act_ok there (prbsEnable_ok there ho checker (writePrbsEn_free free checker _))
  case checks =>
    exact ⟨fun checks => act_ok there (prbsLocked_takes there checks), fun locked => act_ok there (prbsLost_counts there locked)⟩
  case jtag =>
    exact ⟨ends_ok (jtagLoad_idcode on), fun _ other => ends_ok (jtagLoad_bypass on other), ends_ok (jtagLoad_sample on),
      fun _ low high => ends_ok (jtagLoad_pins on low high)⟩

end Sys2Proof.Machine
end

section
/-! PROOFS of O45: the pair's link. -/
namespace Sys2Proof.Machine

section Link
variable {t : TimeState} {d : Dev}

/-- The state of the pair is a field of three bits. -/
theorem twinState_lt_eight (d : Dev) : twinState d < 8 := fld_lt ..

/-- The states from PAIRED on are those from 2 (R309). -/
theorem twinIn_paired (on : isOn d cslBlk = true) (paired : 2 ≤ twinState d) : twinIn d [2, 3, 4, 5, 6, 7] = true := by
  have bound := twinState_lt_eight d
  rw [twinIn_on on]
  generalize twinState d = n at paired bound
  interval_cases n <;> rfl

/-- A HELLO that agrees makes the pair PAIRED over its width (R310). -/
theorem twinHello_pairs {h : Hello} {w : Nat} (waits : twinState d = 1 ∨ twinState d = 7) (on : isOn d cslBlk = true)
    (width : w = 4 ∨ w = 8) (agrees : clash (ourHello (send d (.cersa (.hello (ourHello d))))) h = 0) :
    twinHello d h w = wrF (wrF (send d (.cersa (.hello (ourHello d)))) cslBlk .cslState 2 0 2) cslBlk .cslState 19 16 w := by
  refine (if_pos ?_).trans (if_pos agrees)
  rw [twinIn_on on]
  rcases waits with h | h <;> rcases width with rfl | rfl <;> rw [h] <;> rfl

/-- Training that takes too long leaves DOWN with cause 7 (R310). -/
theorem trainTimeout_ends (trains : twinState d = 1) (on : isOn d cslBlk = true) : trainTimeout t d
    = errFault t (wrF (wrF d cslBlk .cslState 2 0 0) cslBlk .cslState 11 8 7) cslBlk 0 15 1 0 := by
  refine if_pos ?_
  rw [twinIn_on on, trains]
  rfl

/-- A heartbeat goes out in every state from PAIRED on, unless the device has stopped (R309). -/
theorem heartbeatOut_sends (paired : 2 ≤ twinState d) (on : isOn d cslBlk = true) (runs : d.flt.stopped = false) :
    heartbeatOut d = send d (.cersa (.heartbeat
      ⟨twinState d, verCurrent d, fltLevel d, rdF d (devBlk .flt) .fltCrustCtrl 1 0⟩)) := by
  refine if_pos ?_
  rw [twinIn_paired on paired, runs]
  rfl

/-- A pair of a state from PAIRED to DETACHING can be lost (R318). -/
theorem twinLoss_loses (low : 2 ≤ twinState d) (high : twinState d ≤ 5) (cause : Nat) : twinLoss t d cause =
    enterTwin t (wrF (if (endPair t (endSent d)).tw.xfer then imageEnd t (endPair t (endSent d)) true
      else endPair t (endSent d)) cslBlk .cslState 19 16 0) 7 cause := by
  refine if_pos ?_
  generalize twinState d = n at low high
  interval_cases n <;> rfl

/-- A heartbeat that says that the partner stopped makes the pair LOST with cause 4 (R318). -/
theorem heartbeatIn_stops {h : Heartbeat} (stopped : h.level = 4) (on : isOn d cslBlk = true) :
    heartbeatIn t d h = twinLoss t d 4 :=
  if_pos (Bool.and_eq_true_iff.2 ⟨on, decide_eq_true stopped⟩)

/-- A retry is counted, and the eighth is reported (R309). -/
theorem flitBad_counts (on : isOn d cslBlk = true) (eighth : Bool) : flitBad t d eighth =
    if eighth then errFault t (count d (Ev.plain .csl 0) 0 0 0 0) cslBlk 1 15 1 0 else count d (Ev.plain .csl 0) 0 0 0 0 :=
  if_pos on

/-- A retrained link has its new width (R309). -/
theorem retrained_widens {w : Nat} (low : 2 ≤ twinState d) (high : twinState d ≤ 6) (on : isOn d cslBlk = true)
    (width : w = 4 ∨ w = 8) : retrained d w = wrF d cslBlk .cslState 19 16 w := by
  refine if_pos ?_
  rw [twinIn_on on]
  generalize twinState d = n at low high
  rcases width with rfl | rfl <;> interval_cases n <;> rfl

end Link

/-- Settles O45: what each event of the link does. -/
theorem twinLinkComplete : Obligations.TwinLinkComplete := by
  unfold Obligations.TwinLinkComplete
  intro s
  exact ⟨fun _ _ waits on width agrees => ends_ok (twinHello_pairs waits on width agrees),
    fun trains on => ends_ok (trainTimeout_ends trains on),
    fun paired on runs => ends_ok (heartbeatOut_sends paired on runs),
    fun _ stopped on _ _ => ends_ok (heartbeatIn_stops stopped on),
    fun low high => ⟨ends_ok (twinLoss_loses low high 1), ends_ok (twinLoss_loses low high 2)⟩,
    ends_ok rfl,
    fun on => ⟨ends_ok (flitBad_counts on false), ends_ok (flitBad_counts on true)⟩,
    fun _ low high on width => ends_ok (retrained_widens low high on width)⟩

end Sys2Proof.Machine
end

section
/-! PROOFS of O46 and O47: commands of CSL_CMD, bulk sync, the end of a pair, and image transfers. -/
namespace Sys2Proof.Machine

section Command
variable {d : Dev} {v : Nat}

/-- A store of CSL_CMD leaves the other registers of the link as they were. -/
theorem rd_wr_cslCmd (r : Reg) (apart : slotOf .cslCmd 0 ≠ slotOf r 0) : rd (wr d cslBlk .cslCmd v) cslBlk r = rd d cslBlk r :=
  rd_wr_ne _ _ _ _ _ _ _ _ (regKey_ne _ _ _ _ _ apart)

theorem twinState_wr_cslCmd : twinState (wr d cslBlk .cslCmd v) = twinState d :=
  congrArg (fld · 2 0) (rd_wr_cslCmd .cslState (by decide))

theorem cslBusy_wr_cslCmd : cslBusy (wr d cslBlk .cslCmd v) = cslBusy d := by
  unfold cslBusy attached
  rw [twinState_wr_cslCmd]
  rfl

/-- With Cersa ON, a stored command finds the pair in the state that it was in. -/
theorem twinIn_wr_cslCmd (on : isOn d cslBlk = true) (l : List Nat) :
    twinIn (wr d cslBlk .cslCmd v) l = l.contains (twinState d) := by
  rw [twinIn_on (by rwa [isOn_wr]), twinState_wr_cslCmd]

/-- A store of CSL_CMD leaves how much the image area of a stack holds (R322). -/
theorem areaKib_wr_cslCmd {c : Nat} (hc : c < 8) : areaKib (wr d cslBlk .cslCmd v) c = areaKib d c := by
  have there : (stackFor d c).inst < 8 := by
    unfold stackFor
    split
    · show c / 2 * 2 < 8
      omega
    · exact hc
  have apart : ∀ n < 8, regKey cslBlk (regSub .cslCmd) .cslCmd 0 ≠ regKey ⟨.hbm, n⟩ (regSub .hbmRegion) .hbmRegion 0 := by decide
  have region : rdF (wr d cslBlk .cslCmd v) (stackFor d c) .hbmRegion 3 0 = rdF d (stackFor d c) .hbmRegion 3 0 :=
    rdF_wr_ne _ _ _ _ _ _ _ _ _ _ (apart _ there)
  have sites : stackFor (wr d cslBlk .cslCmd v) = stackFor d := rfl
  have halves : (wr d cslBlk .cslCmd v).h4 = d.h4 := rfl
  unfold areaKib tableGib served
  simp only [sites, region, halves]

end Command

/-- The device once a command of CSL_CMD is stored (Table 14.5). -/
def cslStored (s : State) (op p : Nat) : Dev := wr s.dev cslBlk .cslCmd (written s cslBlk .cslCmd (p <<< 16 + op) % 2 ^ 63)

/-- What each operation of CSL_CMD does once it is stored (Table 14.5). -/
def cslEffect (t : TimeState) (e : Dev) (op p : Nat) : Option Dev :=
  match op with
  | 1 => attachPair e
  | 2 => detachPair e
  | 3 => resyncPart t e p
  | 4 => xferStart e
  | _ => some e

/-- A command of CSL_CMD, while none is in hand, does what its operation does (Table 14.5). -/
theorem cslOp_does {s : State} {op p : Nat} {d : Dev} (hp : p < 4096) (ho : Open s.dev cslBlk) (hop : op < 16)
    (free : cslBusy s.dev = false) (does : cslEffect s.tim (cslStored s op p) op p = some d) :
    cslOp s op p = .next (settled s d) := by
  obtain ⟨opField, partField⟩ := cslCmd_written s p op hp hop
  refine cslOp_ok s p op d hp ho hop ?_
  unfold cslCmdWrite
  rw [opField, partField, free]
  exact does

section Stored
variable {s : State} {op p : Nat}

/-- DETACH of an attached pair starts the detach (R320). -/
theorem detachPair_starts (on : isOn s.dev cslBlk = true) (attached : twinState s.dev = 4) :
    detachPair (cslStored s op p) = some (startDetach (send (cslStored s op p) (.cersa (.detach false)))) := by
  refine if_pos ?_
  rw [cslStored, twinIn_wr_cslCmd on, attached]
  rfl

/-- A transfer whose area holds that much, and that no save or restore uses, starts (R322). -/
theorem xferStart_sends (paired : 2 ≤ twinState s.dev) (free : cslBusy s.dev = false)
    (fits : fld (rd s.dev cslBlk .cslXfer) 31 0 ≤ areaKib s.dev (fld (rd s.dev cslBlk .cslXfer) 58 56))
    (unused : areaBusy s.dev (fld (rd s.dev cslBlk .cslXfer) 58 56) = false) : xferStart (cslStored s op p) =
    some (setTw (wr (send (cslStored s op p) (.cersa (.image (fld (rd s.dev cslBlk .cslXfer) 50 48)
        (fld (rd s.dev cslBlk .cslXfer) 31 0)))) cslBlk .cslXferStat 0)
      { (wr (send (cslStored s op p) (.cersa (.image (fld (rd s.dev cslBlk .cslXfer) 50 48)
        (fld (rd s.dev cslBlk .cslXfer) 31 0)))) cslBlk .cslXferStat 0).tw with xfer := true }) := by
  have word : rd (cslStored s op p) cslBlk .cslXfer = rd s.dev cslBlk .cslXfer := rd_wr_cslCmd .cslXfer (by decide)
  have state : twinState (cslStored s op p) = twinState s.dev := twinState_wr_cslCmd
  have busy : cslBusy (cslStored s op p) = false := cslBusy_wr_cslCmd.trans free
  have area := areaKib_wr_cslCmd (d := s.dev) (v := written s cslBlk .cslCmd (p <<< 16 + op) % 2 ^ 63)
    (fld_lt (rd s.dev cslBlk .cslXfer) 58 56)
  rw [← cslStored] at area
  have uses : areaBusy (cslStored s op p) = areaBusy s.dev := rfl
  unfold xferStart
  simp only [word, state, busy, area, uses, unused, not_lt_of_ge paired, not_lt_of_ge fits, decide_false, Bool.or_self,
    Bool.false_eq_true, if_false]

end Stored

section Messages
variable {t : TimeState} {d : Dev}

/-- A partner's DETACH starts the detach (R320). -/
theorem detachIn_starts (on : isOn d cslBlk = true) (attached : twinState d = 4) : detachIn t d false = startDetach d := by
  refine (if_neg Bool.false_ne_true).trans (if_pos ?_)
  rw [twinIn_on on, attached]
  rfl

/-- A partner that detaches for Crust mode ends the pair at once (R320, R321). -/
theorem detachIn_crust (on : isOn d cslBlk = true) (low : 3 ≤ twinState d) (high : twinState d ≤ 5) :
    detachIn t d true = enterTwin t (endPair t (endSent d)) 6 6 := by
  refine (if_pos rfl).trans (if_pos ?_)
  rw [twinIn_on on]
  generalize twinState d = n at low high
  interval_cases n <;> rfl

/-- The acknowledgement of a detach is noted while this device still owes (R320). -/
theorem detachAcked_notes (on : isOn d cslBlk = true) (detaches : twinState d = 5) (leaving : d.tw.leaving = true) :
    detachAcked t d = setTw d { d.tw with acked := true } := by
  refine (if_pos ?_).trans (if_neg ?_)
  · rw [twinIn_on on, detaches]
    rfl
  · simp only [setTw, leaving, Bool.not_true, Bool.and_false, Bool.false_eq_true, not_false_eq_true]

/-- A late acknowledgement is a loss (R320). -/
theorem detachLate_loses (on : isOn d cslBlk = true) (detaches : twinState d = 5) : detachLate t d = twinLoss t d 2 := by
  refine if_pos ?_
  rw [twinIn_on on, detaches]
  rfl

end Messages

section Transfer
variable {t : TimeState} {d : Dev} {kib area : Nat} {fault : Bool} {data : List Byte}

/-- The area of a transfer that arrives is stored in the images (R322). -/
def imageArrives (t : TimeState) (d : Dev) (fault : Bool) (area : Nat) (data : List Byte) : Dev :=
  let e := writeSpan d (stackFor d (area % 8)) 0 (imageWord d (area % 8)) (ceilDiv data.length 8)
  let d := imageEnd t { e with images := SMap.set [] e.images (area % 8) (if fault then [] else data) } fault
  setTw d { d.tw with xfer := e.tw.xfer }

/-- The result of a transfer that was sent: what it sent, and whether a word of its area could not be read (R322). -/
def imageSent (t : TimeState) (d : Dev) (kib : Nat) (fault : Bool) : Dev :=
  let w := rd d cslBlk .cslXfer
  let x := readSpan t d (stackFor d (fld w 58 56)) 0 (imageWord d (fld w 58 56)) (128 * fld w 31 0) (some 1)
  imageEnd t (wrF x.2 cslBlk .cslXferStat 31 0 kib) (fault || x.1 ≠ [])

variable (low : 2 ≤ twinState d) (high : twinState d ≤ 7)
include low high

/-- From PAIRED on, the end of a transfer is that of the device's own, or of an area that arrives (R322). -/
theorem xferDone_paired : xferDone t d kib fault area data =
    if d.tw.xfer && data = [] then imageSent t d kib fault else imageArrives t d fault area data := by
  refine if_pos ?_
  generalize twinState d = n at low high
  interval_cases n <;> rfl

theorem xferDone_sent (sends : d.tw.xfer = true) (empty : data = []) : xferDone t d kib fault area data = imageSent t d kib fault :=
  (xferDone_paired low high).trans (if_pos (Bool.and_eq_true_iff.2 ⟨sends, decide_eq_true empty⟩))

theorem xferDone_arrives (other : d.tw.xfer = false ∨ data ≠ []) :
    xferDone t d kib fault area data = imageArrives t d fault area data := by
  refine (xferDone_paired low high).trans (if_neg ?_)
  rw [Bool.and_eq_true, decide_eq_true_eq, ← Bool.not_eq_false]
  exact fun ⟨sends, empty⟩ => other.elim sends (· empty)

end Transfer

/-- Settles O47: what each command and message of a detach, and of a transfer, does. -/
theorem twinDetachAndTransfer : Obligations.TwinDetachAndTransfer := by
  unfold Obligations.TwinDetachAndTransfer
  intro s
  refine ⟨fun ho free => ⟨fun attached on => ?detach, fun paired fits unused => ?xfer⟩,
    fun attached on => ends_ok (detachIn_starts on attached), fun low high on => ends_ok (detachIn_crust on low high),
    fun detaches on => ⟨fun leaving => ends_ok (detachAcked_notes on detaches leaving), ends_ok (detachLate_loses on detaches)⟩,
    fun kib fault area data low high =>
      ⟨fun sends empty => ends_ok (xferDone_sent low high sends empty), fun other => ends_ok (xferDone_arrives low high other)⟩⟩
  case detach => exact cslOp_does (by decide) ho (by decide) free (detachPair_starts on attached)
  case xfer => exact cslOp_does (by decide) ho (by decide) free (xferStart_sends paired free fits unused)

end Sys2Proof.Machine
end

section
/-! PROOFS of O46: bulk sync. -/
namespace Sys2Proof.Machine

section Commands
variable {s : State} {op p : Nat} (on : isOn s.dev cslBlk = true)
include on

/-- ATTACH of a pair turns it SYNCING and, at the source, scans the partitions that are replicated (R311). -/
theorem attachPair_syncs (paired : twinState s.dev = 2 ∨ twinState s.dev = 6) : attachPair (cslStored s op p) =
    some (if syncSource (send (wrF (cslStored s op p) cslBlk .cslState 2 0 3) (.cersa .attach))
      then ((knownParts (send (wrF (cslStored s op p) cslBlk .cslState 2 0 3) (.cersa .attach))).filter
          (mayReplicate (send (wrF (cslStored s op p) cslBlk .cslState 2 0 3) (.cersa .attach)))).foldl scanPart
          (send (wrF (cslStored s op p) cslBlk .cslState 2 0 3) (.cersa .attach))
      else send (wrF (cslStored s op p) cslBlk .cslState 2 0 3) (.cersa .attach)) := by
  refine if_pos ?_
  rw [cslStored, twinIn_wr_cslCmd on]
  rcases paired with h | h <;> rw [h] <;> rfl

/-- RESYNC of an attached pair scans the partition again, or reports one that may not replicate (R316). -/
theorem resyncPart_scans (attached : twinState s.dev = 4) (free : cslBusy s.dev = false) (t : TimeState) (q : Nat) :
    resyncPart t (cslStored s op p) q = some (if mayReplicate (cslStored s op p) q
      then scanPart (send (cslStored s op p) (.cersa (.resync q))) q else twinPart t (cslStored s op p) q 1) := by
  refine if_pos (Bool.and_eq_true_iff.2 ⟨?_, ?_⟩)
  · rw [cslStored, twinIn_wr_cslCmd on, attached]
    rfl
  · rw [cslStored, cslBusy_wr_cslCmd, free]
    rfl

end Commands

section Sink
variable {t : TimeState} {d : Dev} (sinks : sinkSide d = true)
include sinks

/-- A sink keeps the records of the partitions that it may replicate, or that it builds already (R312). -/
theorem syncRecord_keeps {r : SyncRec} (mine : mayReplicate d r.part = true ∨ d.tw.sink.contains r.part = true) :
    syncRecord t d r = setTw (sinkStart t d r.part) { (sinkStart t d r.part).tw with recs := (sinkStart t d r.part).tw.recs ++ [r] } :=
  if_pos (Bool.and_eq_true_iff.2 ⟨sinks, Bool.or_eq_true_iff.2 mine⟩)

/-- The batch commit of a partition that may not replicate reports it (R312). -/
theorem syncBatch_refuses {p : Nat} (other : mayReplicate d p = false) : syncBatch t d p = sinkFail t d p := by
  unfold syncBatch
  rw [sinks, other]
  rfl

/-- A partition built anew from the records that came for it: its batch is queued, waits, or is reported (R312). -/
def sinkBuilt (t : TimeState) (d : Dev) (p : Nat) : Dev :=
  match openInternal d p ringSync with
  | none => d
  | some (b, d1) =>
    let d1 := (openEntries d1 b.tag p).foldl (fun d e => markDies t d b.tag e) d1
    match evalAll t b.tag p ((d.tw.recs.filter (fun r => r.part == p)).map (fun r => r.change)) d1 with
    | .ok d2 =>
      let d2 := queueBatch d2 b
      setTw d2 { d2.tw with recs := d2.tw.recs.filter (fun r => r.part != p), built := p :: d2.tw.built }
    | .wait => d
    | _ => sinkFail t d p

/-- That of one that may builds it anew (R312). -/
theorem syncBatch_builds {p : Nat} (mine : mayReplicate d p = true) : syncBatch t d p = sinkBuilt t (sinkStart t d p) p := by
  unfold syncBatch
  rw [sinks, mine]
  rfl

end Sink

/-- Cut-over, with nothing left to sync, tells this device's version and how far it has to advance (R313). -/
theorem cutOver_tells {d : Dev} (theirs : Nat) (on : isOn d cslBlk = true) (syncs : twinState d = 3) (held : d.tw.hold = false)
    (noSink : d.tw.sink = []) (noRecs : d.tw.recs = []) (noSwitch : d.cmt.switches = []) : cutOver d theirs =
    setTw (send d (.cersa (.version (verCurrent d)))) { d.tw with
      hold := true, rebase := some (if verCurrent d = (if verLe (verCurrent d) theirs then theirs else verCurrent d) then 0
        else ((if verLe (verCurrent d) theirs then theirs else verCurrent d) + 2 ^ 32 - verCurrent d) % 8,
        ((if verLe (verCurrent d) theirs then theirs else verCurrent d) + 1) % 2 ^ 32) } := by
  refine if_pos ?_
  rw [twinIn_on on, syncs, held, noSink, noRecs, noSwitch]
  rfl

/-- Settles O46: what each command and message of bulk sync does. -/
theorem twinSyncComplete : Obligations.TwinSyncComplete := by
  unfold Obligations.TwinSyncComplete
  intro s
  refine ⟨fun p hp ho on free => ⟨fun paired => ?attach, fun attached => ?resync⟩,
    fun r sinks mine => ends_ok (syncRecord_keeps sinks mine), fun p hp sinks => ⟨fun other => ?refuses, fun mine => ?builds⟩,
    fun theirs syncs on hold noSink noRecs noSwitch => ends_ok (cutOver_tells theirs on syncs hold noSink noRecs noSwitch)⟩
  case attach => exact cslOp_does (by decide) ho (by decide) free (attachPair_syncs on paired)
  case resync => exact cslOp_does hp ho (by decide) free (resyncPart_scans on attached free s.tim p)
  case refuses => exact act_ok (decide_eq_true hp) (syncBatch_refuses sinks other)
  case builds => exact act_ok (decide_eq_true hp) (syncBatch_builds sinks mine)

end Sys2Proof.Machine
end

section
/-! PROOFS of O53: the power states of a slice. -/
namespace Sys2Proof.Machine

section Slice
variable {t : TimeState} {d : Dev} {k : Nat}

/-- An idle ACTIVE slice that may doze does (R325). -/
theorem dozeEntry_dozes (active : slcState d k = 0) (may : bit (rd d (slcBlk k) .slcPwr) 32 = true)
    (unheld : bit (rd d (slcBlk k) .slcPwrStat) 61 = false) (idle : sliceIdle t d k = true) :
    dozeEntry t d k = setSlcState d k 1 := by
  refine if_pos ?_
  rw [active, may, unheld, idle]
  rfl

/-- The end of a wake makes a dozing slice ACTIVE (R326). -/
theorem wakeDone_wakes (dozes : slcState d k = 1) (wakes : memGet d .slcWake 0 k ≠ 0) : wakeDone d k = nowActive d k :=
  if_pos (Bool.and_eq_true_iff.2 ⟨decide_eq_true dozes, decide_eq_true wakes⟩)

/-- A late wake is noted (R326). -/
theorem wakeLate_notes (dozes : slcState d k = 1) (wakes : memGet d .slcWake 0 k ≠ 0) :
    wakeLate d k = wrF d (slcBlk k) .slcPwrStat 60 60 1 :=
  if_pos (Bool.and_eq_true_iff.2 ⟨decide_eq_true dozes, decide_eq_true wakes⟩)

/-- A slice whose ports are quiet naps as it was asked to, and owes no report of a version any more (R328, R122). -/
theorem napEntry_naps (asked : rdF d (slcBlk k) .slcPwr 63 62 = 1) (state : slcState d k ≤ 1) (still : memGet d .slcWake 0 k = 0)
    (quiet : portsQuiet d k = true) (noOff : offWanted d k = false) (idle : sliceIdle t d k = true) :
    napEntry t d k = retireLoop 8 t (setSlcState d k 2) := by
  refine if_pos ?_
  simp only [asked, state, still, quiet, noOff, idle, decide_true, Bool.not_false, Bool.and_self]

section NapExit
variable (naps : slcState d k = 2)
include naps

/-- A wake ends a nap (R328). -/
theorem napExit_wake (wakes : memGet d .slcWake 0 k ≠ 0) : napExit d k = reloadSlice (nowActive d k) k :=
  (if_neg (not_not_intro naps)).trans (if_pos wakes)

/-- So does a port that is enabled, which is noted as the cause (R328). -/
theorem napExit_port (still : memGet d .slcWake 0 k = 0)
    (port : (slicePorts d k).any (fun p => (blkSt d ⟨.mac, p⟩).enable) = true) :
    napExit d k = reloadSlice (nowActive (wrF d (slcBlk k) .slcPwrStat 3 0 6) k) k :=
  (if_neg (not_not_intro naps)).trans ((if_neg (not_not_intro still)).trans (if_pos port))

end NapExit

/-- The device without the copies in the queues of a slice that loses its power, each of which is counted (R330). -/
def queuesDropped (t : TimeState) (d : Dev) (k : Nat) : Dev :=
  dropCopies t d (fun x => x.kind != 3 && x.kind != 4 && copySlice x == k && (x.st != 0 || x.chain != 0 || x.spilt))
    (fun d x => if x.void then d else countCopy d 6 x)

/-- A slice that OFF waits for loses power once it is empty (R330). -/
theorem powerDown_drops (wanted : offWanted d k = true) (noXfers : d.fp.xfers.any (fun x => x.src == k && !x.dead) = false)
    (noFrames : d.fp.frames.any (fun f => portSlice f.port == k && !f.gone && (f.stage != 2 || f.adm != 0 || f.rob)) = false) :
    powerDown t d k = retireLoop 8 t
      (losePower (memSet (memSet (setSlcState (queuesDropped t d k) k 3) .slcReq k 0 0) .slcWake 0 k 0) k) := by
  refine if_pos ?_
  rw [wanted, noXfers, noFrames]
  rfl

/-- Power back makes a slice ACTIVE, unless the device has tripped (R330). -/
theorem powerUp_wakes (off : slcState d k = 3) (cool : tripped d = false)
    (free : rdF d (slcBlk k) .slcPwr 63 62 = 0 ∨ rdF d (slcBlk k) .slcPwr 63 62 = 3) :
    powerUp d k = reloadSlice (memSet (setSlcState (wrF d (slcBlk k) .slcPwrStat 3 0 7) k 0) .slcWake 0 k 0) k := by
  refine if_pos ?_
  rw [off, cool]
  rcases free with h | h <;> rw [h] <;> rfl

end Slice

/-- Settles O53: what each event of a slice's power does. -/
theorem slicePowerComplete : Obligations.SlicePowerComplete := by
  unfold Obligations.SlicePowerComplete
  intro s k hk
  have goes {d d'} (e : d = d') := act_ok (s := s) (ok := isSlice k) (decide_eq_true hk) e
  exact ⟨fun active may unheld idle => goes (dozeEntry_dozes active may unheld idle),
    fun dozes wakes => ⟨goes (wakeDone_wakes dozes wakes), goes (wakeLate_notes dozes wakes)⟩,
    fun wakes => goes (if_pos wakes),
    fun asked state still quiet noOff idle => goes (napEntry_naps asked state still quiet noOff idle),
    fun naps => ⟨fun wakes => goes (napExit_wake naps wakes), fun still port => goes (napExit_port naps still port)⟩,
    fun wanted noXfers noFrames => goes (powerDown_drops wanted noXfers noFrames),
    fun off cool free => goes (powerUp_wakes off cool free),
    goes rfl⟩

end Sys2Proof.Machine
end

section
/-! PROOFS of O54: requests for power states. -/
namespace Sys2Proof.Machine

/-- A word of 32 bits, written as the high half of a register, lies in that half. -/
theorem land_high_mask (w : Nat) : ((w % 2 ^ 32) <<< 32).land Half.high.mask = (w % 2 ^ 32) <<< 32 := by
  show (w % 2 ^ 32) <<< 32 &&& (2 ^ 32 - 1) <<< 32 = _
  rw [← Nat.shiftLeft_and_distrib, Nat.and_two_pow_sub_one_eq_mod, Nat.mod_mod]

section Request
variable {s : State} {k : Nat}

/-- The word that a request writes to the high half of SLC_PWR: it keeps DOZE_EN. -/
def requestWord (s : State) (k req : Nat) : Nat := req <<< 30 + rdF s.dev (slcBlk k) .slcPwr 32 32

/-- SLC_PWR once a request is stored: all but its field REQ. -/
def requestStored (s : State) (k req : Nat) : Dev :=
  wr s.dev (slcBlk k) .slcPwr (putFld (writtenHigh s (slcBlk k) .slcPwr (requestWord s k req)) 63 62 (rdF s.dev (slcBlk k) .slcPwr 63 62))

theorem slcPwr_plain (k : Nat) : plainField (slcBlk k) .slcPwr 63 62 = true := by
  have bits : definedBits (slcBlk k) .slcPwr = definedBits (slcBlk 0) .slcPwr := rfl
  rw [plainField, bits]
  decide

/-- The field REQ that a request writes. -/
theorem requestWord_req {req : Nat} (hreq : req < 4) :
    fld (writtenHigh s (slcBlk k) .slcPwr (requestWord s k req)) 63 62 = req := by
  have dozes : rdF s.dev (slcBlk k) .slcPwr 32 32 < 2 := fld_lt ..
  rw [fld_writtenHigh_rw _ _ _ _ _ _ (slcPwr_plain k) (by decide) (by decide), requestWord]
  simp only [fld, Nat.shiftLeft_eq, Nat.shiftRight_eq_div_pow]
  omega

/-- A request does what its field REQ asks for (R328, R330). -/
theorem slcRequest_does {req : Nat} {e : Dev} (hk : k < 64) (ho : Open s.dev (slcBlk k))
    (does : slcPwrWrite s.dev k .high (writtenHigh s (slcBlk k) .slcPwr (requestWord s k req)) = some e) :
    slcRequest s k req = .next (settled s e) := by
  refine act_ok (decide_eq_true hk) (highWrite_ok _ _ _ _ _ _ (spot_of .slc .slcPwr 0 k hk (by decide)) ho rfl rfl rfl
    (by decide) (by decide) ?_)
  rw [land_high_mask]
  exact congrArg wrote does

/-- What each request does once it is stored: NAP, OFF, or AUTO (R328, R330). -/
def requestEffect (e : Dev) (k req : Nat) : Option Dev :=
  match req with
  | 1 => some (napRequest e k)
  | 2 => offRequest e k
  | q => some (autoRequest e k q)

theorem slcPwrWrite_high {req : Nat} (hreq : req < 4) :
    slcPwrWrite s.dev k .high (writtenHigh s (slcBlk k) .slcPwr (requestWord s k req)) =
      requestEffect (requestStored s k req) k req := by
  unfold slcPwrWrite
  rw [requestWord_req hreq]
  rfl

end Request

section Sleep
variable {t : TimeState} {d : Dev}

/-- SLEEP that nothing forbids drops what the stacks hold and begins the entry (R331). -/
theorem sleepRequest_begins (awake : sleepState (wr d pwrBlk .pwrCtrl 1) = 0) (free : sleepRefusal (wr d pwrBlk .pwrCtrl 1) = 0) :
    sleepRequest t d = (hbmStacks (wrF (wr d pwrBlk .pwrCtrl 1) pwrBlk .pwrStat 11 8 0)).foldl (stackLost t)
      (wrF (wrF (wr d pwrBlk .pwrCtrl 1) pwrBlk .pwrStat 11 8 0) pwrBlk .pwrStat 2 0 2) := by
  unfold sleepRequest
  rw [if_neg (not_not_intro awake), free]
  rfl

/-- One that something forbids stores why (R331). -/
theorem sleepRequest_refused (awake : sleepState (wr d pwrBlk .pwrCtrl 1) = 0) (cause : sleepRefusal (wr d pwrBlk .pwrCtrl 1) ≠ 0) :
    sleepRequest t d = wrF (wr d pwrBlk .pwrCtrl 1) pwrBlk .pwrStat 11 8 (sleepRefusal (wr d pwrBlk .pwrCtrl 1)) :=
  (if_neg (not_not_intro awake)).trans (if_pos cause)

/-- A write of PWR_CTRL does what its bit 0 asks for (R331, R332). -/
theorem pwrCtrlWrite_ok {s : State} {w : Nat} {e : Dev} (hw : w < 2) (ho : Open s.dev pwrBlk)
    (does : (if bit w 0 then sleepRequest s.tim s.dev else runRequest s.dev) = e) :
    ends s (hostWrite s.tim s.dev pwrBlk .pwrCtrl 0 w) = .next (settled s e) :=
  hubWrite_ok (by omega) ho (spot_of .pwr .pwrCtrl 0 0 (by decide) (by decide)) rfl rfl (by decide) (congrArg Wrote.ok does)

end Sleep

/-- Settles O54: what each request does, and how the entry to sleep and the exit from it end. -/
theorem powerRequestsComplete : Obligations.PowerRequestsComplete := by
  unfold Obligations.PowerRequestsComplete
  refine ⟨fun s k hk ho => ⟨?nap, ?auto, fun off => ⟨fun on => ?waits, fun off' => ?isOff⟩⟩,
    fun s ho => ⟨fun awake free => ?sleeps, fun awake cause => ?refused,
      fun sleeping => ?stays, fun sleeping => ?runs, fun other => ?ignored⟩,
    fun s => ⟨fun enters => ends_ok (if_neg (not_not_intro enters)), fun exits => ends_ok (if_neg (not_not_intro exits))⟩⟩
  case nap => exact slcRequest_does hk ho (slcPwrWrite_high (by decide))
  case auto => exact slcRequest_does hk ho (slcPwrWrite_high (by decide))
  case waits =>
    refine slcRequest_does hk ho ((slcPwrWrite_high (by decide)).trans ((if_pos off).trans (congrArg some (if_neg on))))
  case isOff =>
    refine slcRequest_does hk ho ((slcPwrWrite_high (by decide)).trans ((if_pos off).trans (congrArg some (if_pos off'))))
  case sleeps => exact pwrCtrlWrite_ok (by decide) ho (sleepRequest_begins awake free)
  case refused => exact pwrCtrlWrite_ok (by decide) ho (sleepRequest_refused awake cause)
  case stays => exact pwrCtrlWrite_ok (by decide) ho (if_pos sleeping)
  case runs => exact pwrCtrlWrite_ok (by decide) ho (if_pos sleeping)
  case ignored => exact pwrCtrlWrite_ok (by decide) ho (if_neg other)

end Sys2Proof.Machine
end

section
/-! PROOFS of O55: Limitur's loops. -/
namespace Sys2Proof.Machine

section Evaluate
variable {t : TimeState} {d : Dev} {m : List Nat} {i : Nat}

/-- A loop runs: the controller runs, the loop is on, and Crust mode does not stop it (R333). -/
def loopRuns (d : Dev) (i : Nat) : Bool := limRuns d && loopMode d i != 0 && (crustState d == 0 || i == 1 || i == 4)

/-- A loop that is on runs outside Crust mode; DOZE and THERM run in it as well (R333). -/
theorem loopRuns_on (runs : limRuns d = true) (on : loopMode d i ≠ 0) (calm : crustState d = 0 ∨ i = 1 ∨ i = 4) :
    loopRuns d i = true := by
  rw [loopRuns, runs, bne_iff_ne.2 on]
  simpa only [Bool.and_self, Bool.true_and, Bool.or_eq_true, beq_iff_eq, or_assoc] using calm

/-- Else it does not (R333). -/
theorem loopRuns_off (off : limRuns d = false ∨ loopMode d i = 0 ∨ (crustState d ≠ 0 ∧ i ≠ 1 ∧ i ≠ 4)) :
    loopRuns d i = false := by
  rw [loopRuns]
  rcases off with stopped | off | ⟨crust, notDoze, notTherm⟩
  · rw [stopped]
    rfl
  · rw [off]
    simp
  · simp [crust, notDoze, notTherm]

/-- A loop that does not run leaves the device as it is, but for THERM's bounds (R333). -/
theorem loopEval_off (off : loopRuns d i = false) (loop : i < 6) (notTherm : i ≠ 4) : loopEval t d i m = d := by
  have other : i = 0 ∨ i = 1 ∨ i = 2 ∨ i = 3 ∨ i = 5 := by omega
  rcases other with rfl | rfl | rfl | rfl | rfl <;> exact if_neg (ne_true_of_eq_false off)

end Evaluate

section Controller
variable {t : TimeState} {d : Dev}

/-- A restart runs a stopped controller again, and is counted (R337). -/
theorem limRestarted_runs (on : isOn d limBlk = true) (stopped : bit (rd d limBlk .limStat) 63 = false) : limRestarted d =
    wrF (wrF d limBlk .limStat 63 63 1) limBlk .limStat 47 32 (satAdd 0xFFFF (rdF d limBlk .limStat 47 32) 1) := by
  refine if_pos ?_
  rw [on, stopped]
  rfl

section Dwell
variable {lane errors : Nat} {locked : Bool} (dwells : memGet d .linkChk lane 0 ≠ 0)
include dwells

/-- A dwell that lost lock or had too many errors is logged with reason 12 (R342). -/
theorem dwellEnd_logs (bad : locked = false ∨ loopHigh (memSet d .linkChk lane 0 0) 5 < errors) : dwellEnd t d lane errors locked =
    limLog t (memSet d .linkChk lane 0 0) 5 ⟨12, false, errors, 0x0201, lane, lane, 0, 0⟩ := by
  refine (if_neg dwells).trans (if_pos ?_)
  rwa [Bool.or_eq_true, Bool.not_eq_true', decide_eq_true_eq]

/-- Any other just ends (R342). -/
theorem dwellEnd_ends (held : locked = true) (few : errors ≤ loopHigh (memSet d .linkChk lane 0 0) 5) :
    dwellEnd t d lane errors locked = memSet d .linkChk lane 0 0 := by
  refine (if_neg dwells).trans (if_neg ?_)
  rw [held, Bool.not_true, Bool.false_or, decide_eq_true_eq]
  exact not_lt.2 few

end Dwell
end Controller

section Restore
variable {s : State} {i : Nat}

/-- The word that RESTORE writes to LOOP_CTRL: as it was, with RESTORE. -/
def restoreWritten (s : State) (i : Nat) : Nat :=
  written s limBlk .limLoopCtrl (2 ^ 63 + rd s.dev limBlk .limLoopCtrl i % 2 ^ 63) i

/-- The device once that word is stored. -/
def restoreStored (s : State) (i : Nat) : Dev :=
  let e := wr s.dev limBlk .limLoopCtrl (restoreWritten s i % 2 ^ 63) i
  if fld (rd s.dev limBlk .limLoopCtrl i) 1 0 = fld (restoreWritten s i) 1 0 then e else memDrop e .limCount i

/-- RESTORE of a loop does what its own effect is (R334). -/
theorem loopRestore_does {e : Dev} (hi : i < 6) (ho : Open s.dev limBlk)
    (does : loopRestore s.tim (restoreStored s i) i = some e) : exec (.loopRestore i) s = .next (settled s e) := by
  have spots : ∀ i < 6, Spot limBlk (regSub .limLoopCtrl) .limLoopCtrl i := by
    unfold Spot
    decide
  have word : 2 ^ 63 + rd s.dev limBlk .limLoopCtrl i % 2 ^ 63 < 2 ^ 64 := by omega
  have asks : bit (2 ^ 63 + rd s.dev limBlk .limLoopCtrl i % 2 ^ 63) 63 = true := by
    rw [bit, Nat.shiftRight_eq_div_pow]
    simp only [beq_iff_eq]
    omega
  refine act_ok (decide_eq_true hi) (hostWrite_ok _ _ _ _ _ _ _ word (spots i hi) ho rfl (.inl rfl) (by decide) ?_)
  refine congrArg wrote (?_ : loopCtrlWrite _ _ i .whole _ _ = some e)
  exact (if_pos (Bool.and_eq_true_iff.2 ⟨rfl, asks⟩)).trans does

end Restore

/-- Settles O55: what each event of Limitur does. -/
theorem limiturComplete : Obligations.LimiturComplete := by
  unfold Obligations.LimiturComplete
  intro s
  refine ⟨fun m runs => ?evaluates, fun i m off => ⟨fun loop notTherm => ?off, fun therm => ?bounds⟩,
    fun on => ends_ok (if_pos on), fun on stopped => ends_ok (limRestarted_runs on stopped),
    fun lane errors locked hl dwells => ?dwell, fun i hi ho => ?restore⟩
  case evaluates =>
    have goes {i d'} (hi : i < 6) (e : loopEval s.tim s.dev i m = d') := act_ok (s := s) (decide_eq_true hi) e
    have on {i} (mode : loopMode s.dev i ≠ 0) (calm : crustState s.dev = 0 ∨ i = 1 ∨ i = 4) := loopRuns_on runs mode calm
    exact ⟨fun calm mode => goes (by decide) (if_pos (on mode (.inl calm))),
      fun mode => goes (by decide) (if_pos (on mode (.inr (.inl rfl)))),
      fun calm mode => goes (by decide) (if_pos (on mode (.inl calm))),
      fun calm mode => goes (by decide) (if_pos (on mode (.inl calm))),
      fun mode => goes (by decide) (congrArg (loopTherm s.tim s.dev m) (on mode (.inr (.inr rfl)))),
      fun calm mode => goes (by decide) (if_pos (on mode (.inl calm)))⟩
  case off => exact act_ok (decide_eq_true loop) (loopEval_off (loopRuns_off off) loop notTherm)
  case bounds =>
    subst therm
    exact act_ok (s := s) rfl (congrArg (loopTherm s.tim s.dev m) (loopRuns_off off))
  case dwell =>
    exact ⟨fun bad => act_ok (decide_eq_true hl) (dwellEnd_logs dwells bad),
      fun held few => act_ok (decide_eq_true hl) (dwellEnd_ends dwells held few)⟩
  case restore =>
    intro old v e0 e on
    have live : ¬ (!isOn (restoreStored s i) limBlk) = true := by
      rw [Bool.not_eq_true', Bool.not_eq_false]
      exact on
    refine ⟨?_, ?_, ?_, ?_, ?_, ?_⟩
    all_goals
      rintro rfl
      exact loopRestore_does hi ho (if_neg live)

end Sys2Proof.Machine
end

section
/-! PROOFS of O56: snapshots, PERF_VAL, dumps and dropped samples. -/
namespace Sys2Proof.Machine

/-- A command that reads a register of one of the hub's blocks gives out what the register's own read answers, where the page
answers (R34). -/
theorem hubRead_ok {s : State} {k : BlkKind} {r : Reg} {i v : Nat} {e : Dev} (ho : Open s.dev ⟨k, 0⟩)
    (hs : Spot ⟨k, 0⟩ (regSub r) r i) (hr : reservedNow s.dev ⟨k, 0⟩ r = false) (hi : innerLane s.dev ⟨k, 0⟩ = false)
    (hd : readDenied s.dev ⟨k, 0⟩ r = false)
    (own : regRead s.tim s.dev ⟨k, 0⟩ (regSub r) r i (regOff ⟨k, 0⟩ (regSub r) r i) .whole = (v, e)) :
    ends s (hostRead s.tim s.dev ⟨k, 0⟩ r i) = .next (settled s (answer e v)) := by
  refine ends_ok ((hostRead_ok _ _ _ _ _ hs ho hr (.inl hi) hd).trans ?_)
  rw [own]

section Snapshot
variable {t : TimeState} {d : Dev}

/-- A snapshot is asked for while none waits (R348). -/
theorem snapRequest_asks (on : isOn d perfBlk = true) (free : bit (rd d perfBlk .perfSnap) 63 = false) :
    snapRequest d = some (wr d perfBlk .perfSnap (2 ^ 63)) := by
  refine if_neg ?_
  rw [on, free]
  decide

/-- The snapshot copies every counter and its time (R348, R360). -/
theorem snapTake_copies (asked : bit (rd d perfBlk .perfSnap) 63 = true) (runs : perfRuns d = true) : snapTake t d =
    wr (wr { readColours t d with shadow := (readColours t d).ctr } perfBlk .perfSnap 0) perfBlk .perfSnapTime
      ((t.now.sec % 65536) <<< 48 + t.now.ns) := by
  refine if_neg ?_
  rw [asked, runs]
  decide

end Snapshot

section Value
variable {d : Dev} {x : CtrName} (named : selName d (rd d perfBlk .perfSel) = some x)
include named

theorem reservedNow_perfVal : reservedNow d perfBlk .perfVal = false := by
  show (selName d (rd d perfBlk .perfSel)).isNone = false
  rw [named]
  rfl

/-- A write of PERF_VAL acts on the counter that PERF_SEL names, and advances it (R349). -/
theorem perfWrite_writes (live : bit (rd d perfBlk .perfSel) 62 = false) (v : Nat) :
    perfWrite d v = .ok (wr (ctrWrite d x v) perfBlk .perfSel (selAdvance (rd d perfBlk .perfSel))) := by
  unfold perfWrite
  simp only [named, live, Bool.false_eq_true, if_false]

end Value

/-- A read of PERF_VAL gives the counter that PERF_SEL names, and advances it (R349). -/
theorem regRead_perfVal (t : TimeState) (d : Dev) (off : Nat) : regRead t d perfBlk (regSub .perfVal) .perfVal 0 off .whole =
    (regView t (readCounts t d perfBlk .perfVal) perfBlk 0 .perfVal 0,
      wr (readCounts t d perfBlk .perfVal) perfBlk .perfSel (selAdvance (rd (readCounts t d perfBlk .perfVal) perfBlk .perfSel))) := rfl

/-- A read of the dropped samples clears them (R355). -/
theorem regRead_perfSmpStat (t : TimeState) (d : Dev) (off : Nat) :
    regRead t d perfBlk (regSub .perfSmpStat) .perfSmpStat 0 off .whole
      = (rd d perfBlk .perfSmpStat, wr d perfBlk .perfSmpStat 0) := rfl

section Dump
variable {t : TimeState} {d : Dev}

/-- A dump starts where none runs and its bounds are in order (R352). -/
theorem dumpWrite_starts {v : Nat} (free : bit (rd d perfBlk .perfDumpCtrl) 63 = false) (order : fld v 15 0 ≤ fld v 31 16) :
    dumpWrite d v = some (wr d perfBlk .perfDumpCtrl (v.land (2 ^ 63 + 2 ^ 62 + 0xFFFFFFFFFFFF))) := by
  refine if_neg ?_
  rw [free, Bool.false_or, decide_eq_true_eq]
  exact not_lt.2 order

/-- The device once a dump of the counters `l` has ended: their values are written, its event is sent and GO is 0 (R352). -/
def dumped (t : TimeState) (d : Dev) (l : List CtrName) : Dev :=
  let w := rd d perfBlk .perfDumpCtrl
  let d := if kindOfType (fld w 47 32) = some .mtr && !bit w 62 then readColours t d else d
  let d := dmaWords d 0 (rd d perfBlk .perfDumpAddr) (l.map (ctrValue d (bit w 62)))
  eventMgr t (wrF d perfBlk .perfDumpCtrl 63 63 0) 0x09 0 l.length 0 0

/-- A dump ends with the counters that it names (R352). -/
theorem dumpDone_ends (runs : bit (rd d perfBlk .perfDumpCtrl) 63 = true) (on : perfRuns d = true) {l : List CtrName}
    (list : dumpList d (rd d perfBlk .perfDumpCtrl) = l) : dumpDone t d = dumped t d l := by
  subst list
  refine if_neg ?_
  rw [runs, on]
  decide

theorem dumpList_none {w : Nat} (unknown : kindOfType (fld w 47 32) = none) : dumpList d w = [] := by
  rw [dumpList, unknown]

theorem dumpList_some {w : Nat} {k : BlkKind} (kind : kindOfType (fld w 47 32) = some k) : dumpList d w =
    ((upto (fld w 15 0) (fld w 31 16 + 1 - fld w 15 0)).filter (instExists d k)).flatMap (instCtrs k) := by
  rw [dumpList, kind]

end Dump

/-- Settles O56: what each access to the counters does. -/
theorem counterAccessComplete : Obligations.CounterAccessComplete := by
  unfold Obligations.CounterAccessComplete
  intro s
  refine ⟨fun ho => ⟨fun on free => ?ask, fun w x named live => ?write, fun x named => ?read, fun w free order => ?dump, ?drops⟩,
    fun asked runs => ends_ok (snapTake_copies asked runs), fun runs on =>
      ⟨fun unknown => ends_ok (dumpDone_ends runs on (dumpList_none unknown)),
        fun k kind => ends_ok (dumpDone_ends runs on (dumpList_some kind))⟩⟩
  case ask =>
    exact hubWrite_ok (by decide) ho (spot_of .perf .perfSnap 0 0 (by decide) (by decide)) rfl rfl (by decide)
      (congrArg wrote (snapRequest_asks on free))
  case write =>
    refine hubWrite_ok w.isLt ho (spot_of .perf .perfVal 0 0 (by decide) (by decide)) (reservedNow_perfVal named) rfl (by decide)
      (e := wr (ctrWrite s.dev x w.toNat) perfBlk .perfSel (selAdvance (rd s.dev perfBlk .perfSel))) ?_
    show (match perfWrite s.dev w.toNat with
      | .ok d => Wrote.ok d
      | .bad _ => Wrote.no) = _
    rw [perfWrite_writes named live]
  case read =>
    exact hubRead_ok ho (spot_of .perf .perfVal 0 0 (by decide) (by decide)) (reservedNow_perfVal named) rfl rfl
      (regRead_perfVal _ _ _)
  case dump =>
    exact hubWrite_ok w.isLt ho (spot_of .perf .perfDumpCtrl 0 0 (by decide) (by decide)) rfl rfl (by decide)
      (congrArg wrote (dumpWrite_starts free order))
  case drops =>
    exact hubRead_ok ho (spot_of .perf .perfSmpStat 0 0 (by decide) (by decide)) rfl rfl rfl
      (regRead_perfSmpStat _ _ _)

end Sys2Proof.Machine
end

section
/-! PROOFS of O57: threshold entries and CTR_READ. -/
namespace Sys2Proof.Machine

section Entry
variable {d : Dev} {j w : Nat}

/-- An entry is written where it is off, watches a counter that it may, or watches none (R355). -/
theorem thrCfgWrite_stores (may : bit (w.land (rwMask .perfThrCfg)) 63 = false
      ∨ (∃ x, selName d (thrCtr d j) = some x ∧ mayWatch d (fld (w.land (rwMask .perfThrCfg)) 59 48) x = true)
      ∨ (selName d (thrCtr d j) = none ∧ fld (w.land (rwMask .perfThrCfg)) 59 48 = 0)) : thrCfgWrite d j w
    = some (thrRestart (writeWord (memSetD d .perfThrCfg 0 j (1 <<< 32) (w.land (rwMask .perfThrCfg))) perfBlk 0 (2 * j + 1)) j) := by
  refine if_neg ?_
  rcases may with off | ⟨x, named, watches⟩ | ⟨unnamed, hub⟩
  · rw [off]
    exact Bool.false_ne_true
  · simp only [named, watches, Bool.not_true, Bool.and_false, Bool.false_eq_true, not_false_eq_true]
  · simp only [unnamed, hub, beq_self_eq_true, Bool.not_true, Bool.and_false, Bool.false_eq_true, not_false_eq_true]

end Entry

section Firing
variable {t : TimeState} {d : Dev} {j k n : Nat}

/-- The device with the counts of an entry's steps taken from what it watches (R355). -/
def watchSpent (d : Dev) (j n : Nat) : Dev :=
  { d with watch := mapIf (fun x => x.1 == j) (fun x => (x.1, x.2.1, n % max 1 (fld (thrCfg d j) 31 0))) d.watch }

/-- The pause of an entry since its last sample has not passed (R355). -/
def thrWaits (t : TimeState) (d : Dev) (j : Nat) (cfg : Nat) : Prop :=
  memGet d .perfThrCfg 2 j ≠ 0 ∧ t.tick + 1 < memGet d .perfThrCfg 2 j + 1800 * max 1 (fld cfg 45 32)

variable (watches : findFirst (fun x => x.1 == j) d.watch = some (j, k, n)) (on : isOn d perfBlk = true)
  (due : max 1 (fld (thrCfg d j) 31 0) ≤ n)
include watches on due

/-- An entry whose counter has moved on by its step fires, unless it may not watch it, a sample waits, or its pause has not
passed (R355). -/
theorem thrFire_due : thrFire t d j =
    if !thrOwned (watchSpent d j n) j (fld (thrCfg d j) 59 48) || memGet (watchSpent d j n) .perfThrCfg 1 j ≠ 0
      || (memGet (watchSpent d j n) .perfThrCfg 2 j ≠ 0
        && t.tick + 1 < memGet (watchSpent d j n) .perfThrCfg 2 j + 1800 * max 1 (fld (thrCfg d j) 45 32)) then watchSpent d j n
    else memSet (memSet (watchSpent d j n) .perfThrCfg 1 j
      ((SMap.get 0 (watchSpent d j n).ctr k % 2 ^ 48 + 2 ^ 48 - n % max 1 (fld (thrCfg d j) 31 0)) % 2 ^ 48 + 1)) .perfThrCfg 3 j
        t.now.ns := by
  unfold thrFire
  rw [watches]
  refine if_neg ?_
  rw [on, Bool.not_true, Bool.false_or, decide_eq_true_eq]
  exact not_lt.2 due

/-- The sample is armed with the counter's value (R355). -/
theorem thrFire_arms (owned : thrOwned (watchSpent d j n) j (fld (thrCfg d j) 59 48) = true)
    (free : memGet (watchSpent d j n) .perfThrCfg 1 j = 0) (passed : ¬ thrWaits t (watchSpent d j n) j (thrCfg d j)) :
    thrFire t d j = memSet (memSet (watchSpent d j n) .perfThrCfg 1 j
      ((SMap.get 0 (watchSpent d j n).ctr k % 2 ^ 48 + 2 ^ 48 - n % max 1 (fld (thrCfg d j) 31 0)) % 2 ^ 48 + 1)) .perfThrCfg 3 j
        t.now.ns := by
  refine (thrFire_due watches on due).trans (if_neg ?_)
  simp only [owned, free, Bool.not_true, Bool.false_or, ne_eq, not_true_eq_false, decide_false, Bool.and_eq_true, decide_eq_true_eq]
  exact passed

/-- Else only the step is taken (R355). -/
theorem thrFire_skips (held : thrOwned (watchSpent d j n) j (fld (thrCfg d j) 59 48) = false
      ∨ memGet (watchSpent d j n) .perfThrCfg 1 j ≠ 0 ∨ thrWaits t (watchSpent d j n) j (thrCfg d j)) :
    thrFire t d j = watchSpent d j n := by
  refine (thrFire_due watches on due).trans (if_pos ?_)
  simp only [Bool.or_eq_true, Bool.and_eq_true, Bool.not_eq_true', decide_eq_true_eq, or_assoc]
  exact held

end Firing

section Sample
variable {t : TimeState} {d : Dev} {j skid v : Nat} {o : Option Nat}

/-- The event of a fired entry, and the count of those that its ring has no room for (R355). -/
def sampled (t : TimeState) (d : Dev) (j v e1 e2 e3 : Nat) : Dev :=
  let cfg := thrCfg d j
  let d := memSet (memSet d .perfThrCfg 1 j 0) .perfThrCfg 2 j (t.tick + 1)
  let e := eventTo t d (fld cfg 59 48) (fld cfg 47 46) 0x0A 0 (j <<< 58 + e1 + v) (memGet d .perfThrCfg 3 j <<< 32 + e2) e3
  if e.2 then e.1 else wr e.1 perfBlk .perfSmpStat (satAdd (2 ^ 32 - 1) (rd e.1 perfBlk .perfSmpStat) 1)

/-- The counter that an entry watches has no frame (R355). -/
def thrBlind (d : Dev) (j : Nat) : Bool :=
  match selName d (thrCtr d j) with
  | some x => frameless x
  | none => true

variable (armed : memGet d .perfThrCfg 1 j = v + 1) (on : isOn d perfBlk = true)
include armed on

/-- What a fired entry does with the frame that it is given (R355). -/
theorem thrSample_armed : thrSample t d j skid o =
    if thrBlind d j || o = none then sampled t d j v (64 <<< 51 + 1 <<< 50) 0 0
    else match o.bind (frameOf d) with
      | none => d
      | some f =>
        if 64 ≤ skid || (fld (thrCfg d j) 59 48 ≠ 0 && mPart f.sect ≠ fld (thrCfg d j) 59 48) then d
        else sampled t d j v (skid <<< 51) (f.port <<< 22 + mPart f.sect <<< 10)
          ((if f.stage = 2 then imQueue f.image else 0) <<< 44 + mFlowHash f.sect) := by
  unfold thrSample
  simp only [armed, on, Nat.add_one_ne_zero, decide_false, Bool.not_true, Bool.or_self, Bool.false_eq_true, if_false,
    Nat.add_sub_cancel]
  rfl

/-- Without a frame its event has 64 in SKID (R355). -/
theorem thrSample_frameless (blind : thrBlind d j = true ∨ o = none) :
    thrSample t d j skid o = sampled t d j v (64 <<< 51 + 1 <<< 50) 0 0 :=
  (thrSample_armed armed on).trans (if_pos (by rwa [Bool.or_eq_true, decide_eq_true_eq]))

/-- With a frame of its partition it has what the frame says (R355). -/
theorem thrSample_frame {fid : Nat} {f : Machine.Frame} (sees : thrBlind d j = false) (there : frameOf d fid = some f)
    (near : skid < 64) (mine : fld (thrCfg d j) 59 48 = 0 ∨ mPart f.sect = fld (thrCfg d j) 59 48) :
    thrSample t d j skid (some fid) = sampled t d j v (skid <<< 51) (f.port <<< 22 + mPart f.sect <<< 10)
      ((if f.stage = 2 then imQueue f.image else 0) <<< 44 + mFlowHash f.sect) := by
  have here : ¬ (64 ≤ skid || (fld (thrCfg d j) 59 48 ≠ 0 && mPart f.sect ≠ fld (thrCfg d j) 59 48)) = true := by
    simp only [Bool.or_eq_true, Bool.and_eq_true, decide_eq_true_eq]
    omega
  simp only [thrSample_armed armed on, sees, there, Option.bind_some, reduceCtorEq, decide_false, Bool.or_self,
    Bool.false_eq_true, if_false, if_neg here]

end Sample

/-- An entry without a counter, or with one that has no frame, is blind (R355). -/
theorem thrBlind_of {d : Dev} {j : Nat} (blind : selName d (thrCtr d j) = none
    ∨ ∃ x, selName d (thrCtr d j) = some x ∧ frameless x = true) : thrBlind d j = true := by
  rw [thrBlind]
  rcases blind with unnamed | ⟨x, named, less⟩
  · rw [unnamed]
  · rw [named]
    exact less

/-- One whose counter has frames is not (R355). -/
theorem thrBlind_named {d : Dev} {j : Nat} {x : CtrName} (named : selName d (thrCtr d j) = some x) (sees : frameless x = false) :
    thrBlind d j = false := by
  rw [thrBlind, named]
  exact sees

section CtrRead
variable {t : TimeState} {d : Dev} {p r : Nat} {c : Desc}

/-- CTR_READ that is well formed starts, and one that is not completes with its status (R356). -/
theorem ctrRead_next (next : nextOp d p r 0x30 = some c) : ctrRead d p r =
    if ctrReadCheck d p c = 0 then startDesc d p r c.n
    else completeDesc d p r c.n 0 (ctrWord (ctrReadCheck d p c) none 0) := by
  unfold ctrRead
  rw [next]

/-- The reads of CTR_READ so far, the first index that could not be read, and the device that they leave, one pair on
(R356). -/
def ctrReadStep (t : TimeState) (p w : Nat) (y : List (Nat × Nat) × Option Nat × Dev) (x : Nat × Nat) :
    List (Nat × Nat) × Option Nat × Dev :=
  let q := readPair t y.2.2 p x.1 x.2 (bit w 5) (bit w 6)
  (y.1 ++ [(x.2, q.1)], y.2.1.orElse (fun _ => if q.2.1 then some x.2 else none), q.2.2)

/-- The end of a CTR_READ that has read `z`: the values, or their sums, are written (R356). -/
def ctrReadEnds (p r : Nat) (c : Desc) (z : List (Nat × Nat) × Option Nat × Dev) : Dev :=
  let ixs := upto (crBase c) (crCount c)
  let sum (i : Nat) : Nat := (z.1.filter (fun x => x.1 == i)).foldl (fun a x => pairAdd a (x.2 % 2 ^ 64) (x.2 / 2 ^ 64)) 0
  let words := if bit (dw c 1) 7 then ixs.flatMap (fun i => [sum i % 2 ^ 64, sum i / 2 ^ 64])
    else z.1.flatMap (fun x => [x.2 % 2 ^ 64, x.2 / 2 ^ 64])
  completeDesc (dmaWords z.2.2 p (dw c 2) words) p r c.n 0 (ctrWord 0 z.2.1 (crCount c))

/-- All that a CTR_READ reads (R356). -/
def ctrReadAll (t : TimeState) (d : Dev) (p : Nat) (c : Desc) : List (Nat × Nat) × Option Nat × Dev :=
  ((crClusters c).flatMap (fun k => (upto (crBase c) (crCount c)).map (fun i => (k, i)))).foldl (ctrReadStep t p (dw c 1)) ([], none, d)

variable (started : findFirst (fun c => opOf c.words == 0x30 && c.started && c.done.isNone) (ring d .command p r).descs = some c)
include started

/-- It ends with 5 where a stack is not ON (R356). -/
theorem ctrReadDone_off (off : (crClusters c).any (fun k => !isOn d (stackFor d k)) = true) :
    ctrReadDone t d p r = completeDesc d p r c.n 0 (ctrWord 5 none 0) := by
  unfold ctrReadDone
  rw [started]
  exact if_pos off

/-- Else with its values (R356). -/
theorem ctrReadDone_ends (on : (crClusters c).any (fun k => !isOn d (stackFor d k)) = false) :
    ctrReadDone t d p r = ctrReadEnds p r c (ctrReadAll t d p c) := by
  unfold ctrReadDone
  rw [started]
  refine (if_neg (ne_true_of_eq_false on)).trans ?_
  rfl

end CtrRead

/-- Settles O57: how threshold entries are written, fire and sample, and how CTR_READ starts and ends. -/
theorem thresholdsComplete : Obligations.ThresholdsComplete := by
  unfold Obligations.ThresholdsComplete
  intro s
  refine ⟨fun u ho => ?write, fun j k n hj watches on => ?fires, fun j skid o v hj armed on => ?samples,
    fun p r c hp hr next => ?reads, fun p r c hp hr started => ?ends⟩
  case write =>
    exact fun may => hubWrite_ok u.isLt ho (spot_of .perf .perfThrCfg 0 0 (by decide) (by decide)) rfl rfl (by decide)
      (congrArg wrote (thrCfgWrite_stores may))
  case fires =>
    exact fun due => ⟨fun owned free passed => act_ok (decide_eq_true hj) (thrFire_arms watches on due owned free passed),
      fun held => act_ok (decide_eq_true hj) (thrFire_skips watches on due held)⟩
  case samples =>
    refine ⟨fun blind => act_ok (decide_eq_true hj) (thrSample_frameless armed on ?_),
      fun x fid f given named sees there near mine => ?_⟩
    · exact blind.elim .inr (fun blind => .inl (thrBlind_of blind))
    · subst given
      exact act_ok (decide_eq_true hj) (thrSample_frame armed on (thrBlind_named named sees) there near mine)
  case reads =>
    exact ⟨fun good => act_ok (isRing_lt hp hr) ((ctrRead_next next).trans (if_pos good)),
      fun bad => act_ok (isRing_lt hp hr) ((ctrRead_next next).trans (if_neg bad))⟩
  case ends =>
    exact ⟨fun off => act_ok (isRing_lt hp hr) (ctrReadDone_off started off),
      fun on => act_ok (isRing_lt hp hr) (ctrReadDone_ends started on)⟩

end Sys2Proof.Machine
end

section
/-! PROOFS of O58: the steps of start-up. -/
namespace Sys2Proof.Machine

section Steps
variable {t : TimeState} {d : Dev}

/-- What an operation of a step does, while start-up is in that step. -/
theorem of_inStep {n : Nat} {e e' : Dev} (here : inStep d n = true) : (if !inStep d n then e else e') = e' := by
  rw [here]
  rfl

/-- The first copy of the firmware, read without a fault, goes on to step 3 (R374). -/
theorem imageRead_first (notRom : inStep d 1 = false) (reads : inStep d 2 = true) (first : memGet d .boot 0 2 ≠ 1) :
    imageRead d 0 true = setStep d 3 := by
  unfold imageRead
  simp only [notRom, reads, first, Bool.false_eq_true, if_false, Bool.not_true, if_true]

/-- Checked firmware goes on to step 4 (R374). -/
theorem firmwareStart_ok (here : inStep d 3 = true) : firmwareStart d .ok = setStep d 4 := of_inStep here

/-- Firmware that fails is followed by the second copy (R375). -/
theorem firmwareStart_fails {r : EnvResult} (here : inStep d 3 = true) (bad : r ≠ .ok) :
    firmwareStart d r = nextCopy d (bootErr r) := by
  refine (of_inStep here).trans ?_
  cases r with
  | ok => exact absurd rfl bad
  | _ => rfl

section Loads
variable {n : Nat} {payload : List Byte} {progs : List ProgImage} (here : inStep d 6 = true)
  (good : payloadProgs payload = some progs)
include here good

/-- Loads that pass go on to step 7 with their programs LIVE, and one that does not ends start-up with code 5 (R374, R377). -/
theorem loadsDone_checked : loadsDone d .ok n payload =
    if (loadCheck progs (usedRanges d)).isSome then bootEnd d 5 n else setStep (storeProgs d progs 1) 7 := by
  refine (of_inStep here).trans ?_
  rw [good]

theorem loadsDone_stores (passes : loadCheck progs (usedRanges d) = none) :
    loadsDone d .ok n payload = setStep (storeProgs d progs 1) 7 := by
  rw [loadsDone_checked here good, passes]
  rfl

theorem loadsDone_fails (fails : loadCheck progs (usedRanges d) ≠ none) : loadsDone d .ok n payload = bootEnd d 5 n :=
  (loadsDone_checked here good).trans (if_pos (Option.isSome_iff_ne_none.2 fails))

end Loads

/-- A step that takes too long ends start-up with code 7 (R377). -/
theorem bootTimeout_ends (starts : recovering d = false) (low : 1 ≤ bootStep d) (high : bootStep d ≤ 7) :
    bootTimeout d = bootEnd { d with aliveRun := true } 7 0 := by
  refine if_pos ?_
  simp only [starts, low, high, Bool.not_false, decide_true, Bool.and_self]

/-- The host's link comes up with its speed and width (Table 17.7). -/
theorem pcieUp_rises {speed width : Nat} (may : bootStep d = 8 ∨ recovering d = true ∨ memGet d .boot 0 1 = 2)
    (on : isOn d pciBlk = true) (down : bit (rd d pciBlk .pciStat) 63 = false) (slow : 1 ≤ speed) (fast : speed ≤ 5)
    (wide : width = 1 ∨ width = 2 ∨ width = 4) (clocks : memGet d .boot 0 10 = 0) : pcieUp d speed width =
    wr d pciBlk .pciStat (2 ^ 63 + speed <<< 32 + width <<< 28 + fld (rd d pciBlk .pciStat) 15 0) := by
  refine if_pos ?_
  have may' : (decide (bootStep d = 8) || recovering d || decide (memGet d .boot 0 1 = 2)) = true := by
    simpa only [Bool.or_eq_true, decide_eq_true_eq, or_assoc] using may
  have wide' : (decide (width = 1) || decide (width = 2) || decide (width = 4)) = true := by
    simpa only [Bool.or_eq_true, decide_eq_true_eq, or_assoc] using wide
  simp only [may', on, down, slow, fast, wide', clocks, decide_true, Bool.not_false, Bool.and_self]

end Steps

/-- Settles O58: how each step of start-up ends, and how the host's link comes up. -/
theorem startUpCompletes : Obligations.StartUpCompletes := by
  unfold Obligations.StartUpCompletes
  intro s
  exact ⟨fun notRom reads first => ends_ok (imageRead_first notRom reads first), fun here => ends_ok (firmwareStart_ok here),
    fun _ here bad => ends_ok (firmwareStart_fails here bad), fun _ _ here => ends_ok (of_inStep here),
    fun here => ends_ok (if_pos here),
    fun _ _ _ here good => ⟨fun passes => ends_ok (loadsDone_stores here good passes),
      fun fails => ends_ok (loadsDone_fails here good fails)⟩,
    fun _ here => ends_ok (of_inStep here), fun starts low high => ends_ok (bootTimeout_ends starts low high),
    fun _ _ may on down slow fast wide clocks => ends_ok (pcieUp_rises may on down slow fast wide clocks)⟩

end Sys2Proof.Machine
end

section
/-! PROOFS of O59: resets and recovery. -/
namespace Sys2Proof.Machine

/-- A system reset that was asked for is carried out at the end of the command, where no detach is over (R379). -/
theorem settled_reset {s : State} {d : Dev} (asked : d.resetReq = true) (noDetach : d.tw.acked = false) :
    settled s d = { s with tim := timeReset s.tim, dev := systemReset d } := by
  unfold settled
  rw [detachEnd_open _ _ noDetach]
  exact if_pos asked

section Link
variable {t : TimeState} {d : Dev}

/-- The device whose endpoint is reset: its rings stop, its page is reset, and what the host was sent ends (R380, R381). -/
def endpointReset (t : TimeState) (d : Dev) (keep : Bool) : Dev := endHostWork t (pciReset (dropRingWork t (stopAll d)) keep)

/-- A link reset is counted and reported when the link was up (R380). -/
theorem linkReset_up (up : bit (rd d pciBlk .pciStat) 63 = true) : linkReset t d false =
    errFault t (wrF (endpointReset t d false) pciBlk .pciStat 15 0
      (min 0xFFFF (rdF (endpointReset t d false) pciBlk .pciStat 15 0 + 1))) pciBlk 0 14 0 0 := by
  refine if_neg ?_
  rw [up]
  decide

/-- One of a link that was down is not (R380). -/
theorem linkReset_down (down : bit (rd d pciBlk .pciStat) 63 = false) : linkReset t d false = endpointReset t d false := by
  refine if_pos ?_
  rw [down]
  rfl

end Link

section Boot
variable {d : Dev}

/-- The write of 0x53595352 asks for a system reset (R379). -/
theorem writeBootReset_asks {w : Nat} (on : isOn d bootBlk = true) (key : fld w 31 0 = 0x53595352) :
    writeBootReset d w = some { d with resetReq := true } :=
  if_pos (Bool.and_eq_true_iff.2 ⟨on, beq_iff_eq.2 key⟩)

/-- Recovery reads its image where the host put it (R377). -/
theorem writeRec_reads {v : Nat} (on : isOn d bootBlk = true) (recovers : recovering d = true)
    (free : bit (rd d bootBlk .bootRecCtrl) 63 = false) (go : bit v 63 = true) : writeRec d v =
    some (send (wrF (wrF (wr d bootBlk .bootRecCtrl (putFld (rd d bootBlk .bootRecCtrl) 25 0 v)) bootBlk .bootRecCtrl 63 63 1)
        bootBlk .bootRecCtrl 62 62 0)
      (.dmaRead 0 none (rd (wrF (wrF (wr d bootBlk .bootRecCtrl (putFld (rd d bootBlk .bootRecCtrl) 25 0 v)) bootBlk .bootRecCtrl
        63 63 1) bootBlk .bootRecCtrl 62 62 0) bootBlk .bootRecAddr / 64 * 64) (fld v 25 0))) := by
  refine (if_neg ?_).trans (if_pos ?_)
  · rw [on, recovers, go]
    decide
  · rw [free, go]
    rfl

/-- What the end of that read does (R377). -/
theorem recoveryRead_ends (recovers : recovering d = true) (reads : bit (rd d bootBlk .bootRecCtrl) 63 = true) (ok : Bool) :
    recoveryRead d ok =
      if ok then setStep (setBoot (bootFail (memSet (wrF d bootBlk .bootRecCtrl 63 63 0) .boot 0 1 2) 0 0) 62 62 0) 3
      else wrF (bootFail (memSet (wrF d bootBlk .bootRecCtrl 63 63 0) .boot 0 1 2) 1 0) bootBlk .bootRecCtrl 62 62 1 := by
  refine if_neg ?_
  rw [recovers, reads]
  decide

end Boot

/-- Settles O59: what each reset, and recovery, leaves. -/
theorem resetsComplete : Obligations.ResetsComplete := by
  unfold Obligations.ResetsComplete
  intro s
  refine ⟨fun testEn role src => ⟨ends_ok rfl, ends_ok rfl⟩, fun noDetach => ⟨?asked, fun w ho on key => ?written⟩,
    ⟨fun up => ends_ok (linkReset_up up), fun down => ends_ok (linkReset_down down)⟩, ends_ok rfl,
    fun w ho on recovers free go => ?recovers,
    fun recovers reads => ⟨ends_ok (recoveryRead_ends recovers reads true), ends_ok (recoveryRead_ends recovers reads false)⟩⟩
  case asked => exact congrArg Host.Outcome.next (settled_reset rfl noDetach)
  case written =>
    refine (hubWrite_ok w.isLt ho (spot_of .boot .bootReset 0 0 (by decide) (by decide)) rfl rfl (by decide)
      (congrArg wrote (writeBootReset_asks on key))).trans ?_
    exact congrArg Host.Outcome.next (settled_reset rfl noDetach)
  case recovers =>
    exact hubWrite_ok w.isLt ho (spot_of .boot .bootRecCtrl 0 0 (by decide) (by decide)) rfl rfl (by decide)
      (congrArg wrote (writeRec_reads on recovers free go))

end Sys2Proof.Machine
end

section
/-! PROOFS of O51: descriptors, PKT_SEND, interrupt timers and DMA faults. -/
namespace Sys2Proof.Machine

section Fetch
variable {d : Dev} {p r : Nat} {ws : List Nat}

/-- The descriptor that is fetched at HEAD (R367). -/
def fetched (d : Dev) (p r : Nat) (ws : List Nat) : Desc := ⟨(ring d .command p r).head, ws.take 8, false, none⟩

/-- The ring once it is fetched: HEAD moves on and the descriptor waits (R367). -/
def fetchedDev (d : Dev) (p r : Nat) (ws : List Nat) : Dev :=
  setRing d .command p r { ring d .command p r with
    head := ((ring d .command p r).head + 1) % 2 ^ 32, descs := (ring d .command p r).descs ++ [fetched d p r ws] }

variable (len : ws.length = 8) (live : (ring d .command p r).live = true) (fetches : fetching d p = true)
  (more : (ring d .command p r).head ≠ (ring d .command p r).tail)
include len live fetches more

/-- The hub fetches the descriptor at HEAD; one of no known opcode, or with a reserved bit, completes at once (R367). -/
theorem fetchDesc_fetches : fetchDesc d p r ws =
    if !knownOp (opOf (fetched d p r ws).words) then completeDesc (fetchedDev d p r ws) p r (fetched d p r ws).n 1 0
    else if fld ((fetched d p r ws).words.headD 0) 53 32 ≠ 0 then completeDesc (fetchedDev d p r ws) p r (fetched d p r ws).n 2 0
    else fetchedDev d p r ws := by
  have words : (ws ++ List.replicate 8 0).take 8 = ws.take 8 := List.take_append_of_le_length (le_of_eq len.symm)
  unfold fetchDesc
  rw [words]
  refine if_pos ?_
  simp only [live, fetches, more, ne_eq, not_false_eq_true, decide_true, Bool.and_self]

theorem fetchDesc_known (known : knownOp (opOf (fetched d p r ws).words) = true)
    (plain : fld ((fetched d p r ws).words.headD 0) 53 32 = 0) : fetchDesc d p r ws = fetchedDev d p r ws := by
  rw [fetchDesc_fetches len live fetches more, known, plain]
  rfl

theorem fetchDesc_unknown (unknown : knownOp (opOf (fetched d p r ws).words) = false) :
    fetchDesc d p r ws = completeDesc (fetchedDev d p r ws) p r (fetched d p r ws).n 1 0 := by
  rw [fetchDesc_fetches len live fetches more, unknown]
  rfl

theorem fetchDesc_reserved (known : knownOp (opOf (fetched d p r ws).words) = true)
    (reserved : fld ((fetched d p r ws).words.headD 0) 53 32 ≠ 0) :
    fetchDesc d p r ws = completeDesc (fetchedDev d p r ws) p r (fetched d p r ws).n 2 0 := by
  rw [fetchDesc_fetches len live fetches more, known]
  exact if_pos reserved

end Fetch

section Send
variable {t : TimeState} {d : Dev} {p r : Nat} {c : Desc}

/-- NOP completes with status 0 (R368). -/
theorem ringNop_completes (next : nextOp d p r 0x00 = some c) : ringNop d p r = completeDesc d p r c.n 0 0 := by
  unfold ringNop
  rw [next]

/-- PKT_SEND that passes its checks starts by reading its frame, and one that does not completes with the check's status
(R373). -/
theorem pktSend_next (next : nextOp d p r 0x10 = some c) : pktSend d p r =
    if pktCheck d p c = 0 then send (startDesc d p r c.n) (.dmaRead p (dmaPasid d p) (dw c 2 / 8 * 8) (pktLen c))
    else completeDesc d p r c.n 0 (pktCheck d p c <<< 60) := by
  unfold pktSend
  rw [next]

/-- The end of a PKT_SEND whose frame `f` was read, by what the request of its copy answered: status 1 where the pool refused
it, and 0 else (R373). -/
def pktEnds (t : TimeState) (p r : Nat) (c : Desc) (f : Machine.Frame) (y : Option Refuse × Option Nat × Dev) : Dev :=
  match y with
  | (some e, _, d) =>
    completeDesc (settleFrame (dropRef t (countRefuse d f (pktQueue c) p e) (queueSlice (pktQueue c)) (pktProg c)) f.fid)
      p r c.n 0 (1 <<< 60)
  | (none, _, d) => completeDesc (settleFrame d f.fid) p r c.n 0 0

/-- Outside Crust mode a frame that was read asks for its copy (R373). -/
theorem pktRead_asks {data : List Byte} (runs : runningOp d p r 0x10 = some c) (calm : crustState d = 0) : pktRead t d p r data =
    pktEnds t p r c (pktFrame t d p c data).1 (requestCopy t (pktFrame t d p c data).2 (pktFrame t d p c data).1 (pktQueue c)
      (pktProg c) (pktImage c) true false none) := by
  unfold pktRead
  rw [runs]
  refine (if_neg (not_not_intro calm)).trans ?_
  rfl

theorem pktEnds_sent {f : Machine.Frame} {y : Option Refuse × Option Nat × Dev} (sent : y.1 = none) :
    pktEnds t p r c f y = completeDesc (settleFrame y.2.2 f.fid) p r c.n 0 0 := by
  obtain ⟨e, l, d⟩ := y
  subst sent
  rfl

theorem pktEnds_refused {f : Machine.Frame} {y : Option Refuse × Option Nat × Dev} {e : Refuse} (refused : y.1 = some e) :
    pktEnds t p r c f y = completeDesc (settleFrame (dropRef t (countRefuse y.2.2 f (pktQueue c) p e) (queueSlice (pktQueue c))
      (pktProg c)) f.fid) p r c.n 0 (1 <<< 60) := by
  obtain ⟨e', l, d⟩ := y
  subst refused
  rfl

end Send

section Timer
variable {d : Dev} {k : RingKind} {p r : Nat}

/-- An interrupt timer that is due raises the ring's vector (R370). -/
theorem irqTimer_raises (on : bit (ring d k p r).irq 63 = true) (period : fld (ring d k p r).irq 15 0 ≠ 0)
    (waits : (ring d k p r).modn ≠ 0) : irqTimer d k p r = raiseRing d k p r := by
  refine if_pos ?_
  simp only [on, period, waits, ne_eq, not_false_eq_true, decide_true, Bool.and_self]

theorem isRingOf_lt (hp : p < 4096) (hr : r < (if k = .event then 4 else 16)) : isRingOf k p r = true :=
  Bool.and_eq_true_iff.2 ⟨decide_eq_true hp, decide_eq_true hr⟩

end Timer

/-- Settles O51: what descriptors, PKT_SEND, interrupt timers and DMA faults do. -/
theorem descriptorsAndRingFaultsComplete : Obligations.DescriptorsAndRingFaultsComplete := by
  unfold Obligations.DescriptorsAndRingFaultsComplete
  refine ⟨fun s p r hp hr => ⟨fun w len => ?fetch, fun c next => ?nop, fun c next => ?send, fun c data runs calm => ?read⟩,
    fun s p r hp => ⟨fun k hr on period waits => ?timer, fun hr timeout => ?fault⟩⟩
  case fetch =>
    have len' : (w.map BitVec.toNat).length = 8 := by rw [List.length_map, len]
    intro x c d live fetches more
    exact ⟨fun known plain => act_ok (isRing_lt hp hr) (fetchDesc_known len' live fetches more known plain),
      fun unknown => act_ok (isRing_lt hp hr) (fetchDesc_unknown len' live fetches more unknown),
      fun known reserved => act_ok (isRing_lt hp hr) (fetchDesc_reserved len' live fetches more known reserved)⟩
  case nop => exact act_ok (isRing_lt hp hr) (ringNop_completes next)
  case send =>
    exact ⟨fun good => act_ok (isRing_lt hp hr) ((pktSend_next next).trans (if_pos good)),
      fun bad => act_ok (isRing_lt hp hr) ((pktSend_next next).trans (if_neg bad))⟩
  case read =>
    exact ⟨fun sent => act_ok (isRing_lt hp hr) ((pktRead_asks runs calm).trans (pktEnds_sent sent)),
      fun e refused => act_ok (isRing_lt hp hr) ((pktRead_asks runs calm).trans (pktEnds_refused refused))⟩
  case timer => exact act_ok (isRingOf_lt hp hr) (irqTimer_raises on period waits)
  case fault =>
    exact ⟨fun live => act_ok (isRing_lt hp hr) (if_pos live),
      fun dead => act_ok (isRing_lt hp hr) (if_neg (ne_true_of_eq_false dead)),
      fun k dead => act_ok (isRing_lt hp hr) (if_neg (ne_true_of_eq_false dead)),
      fun k live => act_ok (isRing_lt hp hr) (if_pos live), act_ok (isRing_lt hp hr) rfl⟩

end Sys2Proof.Machine
end

section
/-! PROOFS of O52: ring registers through a partition's window, and vector ranges. -/
namespace Sys2Proof.Machine

/-- A value of which the bits of a mask are replaced. -/
def merged (x w m : Nat) : Nat := (x.land (m.xor (2 ^ 64 - 1))).lor (w.land m)

section Writes
variable {t : TimeState} {d : Dev} {k : RingKind} {p r w : Nat}

/-- What a register of a ring does with its new value. -/
def ringStored (t : TimeState) (d : Dev) (k : RingKind) (p r : Nat) (x : RingReg) (v : Nat) : Wrote :=
  match x with
  | .base => wrote (writeRingAddr d k p r (fun y => { y with base := v }))
  | .cpl => wrote (writeRingAddr d k p r (fun y => { y with cpl := v }))
  | .tailWb => wrote (writeRingAddr d k p r (fun y => { y with tailWb := v }))
  | .cfg => writeCfg t d k p r v
  | .tail => wrote (writeTail d p r v)
  | .head => wrote (writeHead d k p r v)
  | .irq => wrote (irqWrite d k p r v)
  | .stat => .no

/-- A write of a ring register replaces the bits that it may write. -/
theorem ringWrite_masked {x : RingReg} {h : Half} {m : Nat} (mask : h.mask.land (ringMask k x) = m) (some : m ≠ 0)
    (narrow : ringWide x = false) :
    ringWrite t d k p r x h w = ringStored t d k p r x (merged (ringView d k p r x) w m) := by
  subst mask
  refine if_neg ?_
  rw [narrow, Bool.and_false, Bool.or_false, decide_eq_true_eq]
  exact some

/-- A field of a merged value whose bits the mask holds is the written one. -/
theorem fld_merged {x m hi lo : Nat} (bound : hi < 64) (held : ∀ n, lo ≤ n → n ≤ hi → m.testBit n = true) :
    fld (merged x w m) hi lo = fld w hi lo := fld_mix x w m hi lo true bound held

/-- One of whose bits it holds none is as it was. -/
theorem fld_merged_kept {x m hi lo : Nat} (bound : hi < 64) (free : ∀ n, lo ≤ n → n ≤ hi → m.testBit n = false) :
    fld (merged x w m) hi lo = fld x hi lo := fld_mix x w m hi lo false bound free

/-- ENABLE of a merged CFG is the written one. -/
theorem bit_merged_enable {x m : Nat} (held : m.testBit 63 = true) : bit (merged x w m) 63 = bit w 63 := by
  rw [bit_testBit, bit_testBit, merged, testBit_mix _ _ _ _ (by decide), held]
  rfl

/-- LOG2 of the word of CFG that a ring shows. -/
theorem fld_cfg_size {e : Bool} {raw : Nat} (small : raw < 32) : fld (b2n e <<< 63 + raw) 4 0 = raw := by
  cases e <;> simp only [b2n, fld, Nat.shiftLeft_eq, Nat.shiftRight_eq_div_pow, if_true, Bool.false_eq_true, if_false] <;> omega

/-- HEAD may be written on rings that the host reads (R371). -/
theorem mask_head (other : k ≠ .command) : Half.whole.mask.land (ringMask k .head) = 0xFFFFFFFF := by
  rw [ringMask, if_neg other]
  decide

end Writes

section Effects
variable {t : TimeState} {d : Dev} {k : RingKind} {p r w : Nat}

/-- TAIL moves where the ring has that many (R368). -/
theorem writeTail_moves {v tail : Nat} (here : v % 2 ^ 32 = tail) (ok : tailOk (ring d .command p r) tail = true) :
    writeTail d p r v = some (setRing d .command p r { ring d .command p r with tail := tail }) := by
  subst here
  exact if_pos ok

/-- HEAD moves where the ring has that many (R371). -/
theorem writeHead_moves {v head : Nat} (here : v % 2 ^ 32 = head) (ok : headOk (ring d k p r) head = true) :
    writeHead d k p r v = some (setRing d k p r { ring d k p r with head := head }) := by
  subst here
  exact if_pos ok

/-- ENABLE starts a ring anew (R369). -/
theorem writeCfg_enables {v log2 : Nat} (off : (ring d k p r).enable = false) (enable : bit v 63 = true) (size : fld v 4 0 = log2) :
    writeCfg t d k p r v = .ok (setRing d k p r (enableRing (ring d k p r) log2)) := by
  simp only [writeCfg, off, enable, size]

/-- A ring out of service: it is stopped with cause 5 (R369). -/
def ringOutOf (d : Dev) (k : RingKind) (p r : Nat) : Dev :=
  setRing d k p r { ring d k p r with
    enable := false, stopped := true, cause := 5, descs := if (ring d k p r).silent then [] else (ring d k p r).descs }

/-- The device without the open batch of a ring that goes out of service (R369). -/
def openDiscarded (t : TimeState) (d : Dev) (k : RingKind) (p r : Nat) : Dev :=
  match openBatch d p r with
  | some b => if k == .command then discardBatch t d b 1 else d
  | none => d

theorem openDiscarded_none (none : k ≠ .command ∨ openBatch d p r = none) : openDiscarded t d k p r = d := by
  unfold openDiscarded
  split
  next b held =>
    refine if_neg ?_
    rw [beq_iff_eq]
    exact none.elim id (fun unheld => absurd (held.symm.trans unheld) (Option.some_ne_none b))
  next => rfl

theorem openDiscarded_some {b : Batch} (held : openBatch d p r = some b) :
    openDiscarded t d .command p r = discardBatch t d b 1 := by
  unfold openDiscarded
  rw [held]
  rfl

/-- A write of ENABLE = 0 takes a ring out of service, with its open batch discarded (R369). -/
theorem writeCfg_disables {v : Nat} (on : (ring d k p r).enable = true) (disable : bit v 63 = false)
    (size : fld v 4 0 = (ring (openDiscarded t d k p r) k p r).raw) :
    writeCfg t d k p r v = .ok (ringOutOf (openDiscarded t d k p r) k p r) := by
  unfold writeCfg
  dsimp only
  rw [on, disable]
  exact if_pos size

end Effects

section Vector
variable {d : Dev} {k : RingKind} {p r : Nat}

/-- IRQ keeps a vector of the partition and starts its count anew (R370). -/
theorem irqWrite_keeps {v n : Nat} (vector : fld v 58 48 = n) (mine : n < vecCount d p) : irqWrite d k p r v =
    some (setRing d k p r { ring d k p r with irq := putFld (putFld v 62 59 0) 47 32 0, modn := 0 }) :=
  if_pos (vector.symm ▸ mine)

/-- A vector range is stored that its rings' vectors allow (R366). -/
theorem writeVec_stores {w : Nat} (fits : fld w 10 0 + fld w 43 32 ≤ 2048)
    (free : d.rings.any (fun e => e.1 / 64 == rdF d pciBlk .pciVecAddr 11 0 && e.2.enable && fld w 43 32 ≤ fld e.2.irq 58 48) = false) :
    writeVec d w = some (setPart d (rdF d pciBlk .pciVecAddr 11 0)
      { part d (rdF d pciBlk .pciVecAddr 11 0) with vec := fld w 43 32 <<< 32 + fld w 10 0 }) := by
  refine if_neg ?_
  rw [free, Bool.or_false, decide_eq_true_eq]
  exact not_lt.2 fits

/-- A read of an event ring's STAT clears its drops (R371). -/
theorem statRead_clears (hp : p < 4096) (hr : r < 4) (on : powered d = true) (starts : recovering d = false)
    (st : (part d p).st ≠ 0) (there : r < ringsHeld d p .event) : ringRegRead d .event p r .stat =
      answer (setRing d .event p r { ring d .event p r with drops := 0 }) (ringStat .event (ring d .event p r)) := by
  obtain ⟨page, spot, -, -, aligned⟩ := winSpot_ring d .event p r .stat hp hr starts st there ⟨5, by decide, rfl⟩
  have whole : accHalf 8 (ringOff .event p r .stat) = some .whole := by simp [accHalf, aligned]
  unfold ringRegRead bar2Read
  simp only [page, spot, on, whole, Bool.not_true, Bool.false_eq_true, if_false]
  rfl

end Vector

section Rings
variable {s : State} {k : RingKind} {p r : Nat} (hp : p < 4096) (hr : r < (if k = .event then 4 else 16)) (on : powered s.dev = true)
  (starts : recovering s.dev = false) (st : (part s.dev p).st ≠ 0) (there : r < ringsHeld s.dev p k)
include hp hr on starts st there

/-- A write of a ring register through the window of its partition (R366, R367). -/
theorem ringRegWrite_does {x : RingReg} {w m : Nat} {e : Dev} (slot : ∃ n < 8, ringRegAt k n = some x)
    (mask : Half.whole.mask.land (ringMask k x) = m) (some : m ≠ 0) (narrow : ringWide x = false)
    (does : ringStored s.tim s.dev k p r x (merged (ringView s.dev k p r x) w m) = .ok e) :
    act s (isRingOf k p r) (ringRegWrite s.tim s.dev k p r x w) = .next (settled s e) :=
  act_ok (isRingOf_lt hp hr) (ringRegWrite_ok _ _ _ _ _ _ _ _ hp hr on starts st there slot
    ((ringWrite_masked mask some narrow).trans does))

/-- A doorbell moves TAIL (R368). -/
theorem doorbell_moves (command : k = .command) {tail : Nat} (small : tail < 2 ^ 32) (ok : tailOk (ring s.dev k p r) tail = true) :
    exec (.doorbell p r tail) s = .next (settled s (setRing s.dev .command p r { ring s.dev k p r with tail := tail })) := by
  subst command
  exact ringRegWrite_does hp hr on starts st there ⟨3, by decide, rfl⟩ (m := 0xFFFFFFFF) (by decide) (by decide) rfl
    (congrArg wrote (writeTail_moves (low_mix _ _ small) ok))

/-- A write of HEAD moves it (R371). -/
theorem eventHeadWrite_moves (other : k ≠ .command) {head : Nat} (small : head < 2 ^ 32)
    (ok : headOk (ring s.dev k p r) head = true) : exec (.eventHeadWrite k p r head) s
      = .next (settled s (setRing s.dev k p r { ring s.dev k p r with head := head })) := by
  have slot : ∃ n < 8, ringRegAt k n = some .head := by cases k <;> decide
  exact ringRegWrite_does hp hr on starts st there slot (mask_head other) (by decide) rfl
    (congrArg wrote (writeHead_moves (low_mix _ _ small) ok))

/-- ENABLE starts a ring anew (R369). -/
theorem ringEnable_starts {log2 : Nat} (small : log2 < 32) (off : (ring s.dev k p r).enable = false) :
    exec (.ringEnable k p r log2) s = .next (settled s (setRing s.dev k p r (enableRing (ring s.dev k p r) log2))) := by
  have slot : ∃ n < 8, ringRegAt k n = some .cfg := by cases k <;> decide
  have enable : bit (2 ^ 63 + log2 % 32) 63 = true := by
    rw [bit, Nat.shiftRight_eq_div_pow, beq_iff_eq]
    omega
  have size : fld (2 ^ 63 + log2 % 32) 4 0 = log2 := by
    simp only [fld, Nat.shiftRight_eq_div_pow]
    omega
  refine ringRegWrite_does hp hr on starts st there slot (m := 2 ^ 63 + 31) (by cases k <;> decide) (by decide) rfl
    (writeCfg_enables off ?_ ?_)
  · exact (bit_merged_enable (by decide)).trans enable
  · refine (fld_merged (by decide) ?_).trans size
    intro n _ _
    interval_cases n <;> decide

/-- IRQ keeps a vector of the partition (R370). -/
theorem irqWrite_stores {w : Word} (mine : fld w.toNat 58 48 < vecCount s.dev p) : exec (.irqWrite k p r w) s =
    .next (settled s (setRing s.dev k p r { ring s.dev k p r with
      irq := putFld (putFld (merged (ring s.dev k p r).irq w.toNat (ringMask k .irq)) 62 59 0) 47 32 0, modn := 0 })) := by
  have slot : ∃ n < 8, ringRegAt k n = some .irq := by cases k <;> decide
  refine ringRegWrite_does hp hr on starts st there slot (m := ringMask k .irq) (by cases k <;> decide) (by cases k <;> decide) rfl
    (congrArg wrote (irqWrite_keeps ?_ mine))
  refine fld_merged (by decide) ?_
  intro n _ _
  rw [ringMask]
  interval_cases n <;> decide

/-- ENABLE = 0 takes a ring out of service (R369). -/
theorem ringDisable_stops (enabled : (ring s.dev k p r).enable = true) (small : (ring s.dev k p r).raw < 32)
    (kept : (ring (openDiscarded s.tim s.dev k p r) k p r).raw = (ring s.dev k p r).raw) :
    exec (.ringDisable k p r) s = .next (settled s (ringOutOf (openDiscarded s.tim s.dev k p r) k p r)) := by
  have slot : ∃ n < 8, ringRegAt k n = some .cfg := by cases k <;> decide
  refine act_ok (isRingOf_lt hp hr) (ringHighWrite_ok _ _ _ _ _ _ _ _ hp hr on starts st there slot
    ((ringWrite_masked (m := 2 ^ 63) (by cases k <;> decide) (by decide) rfl).trans (writeCfg_disables enabled ?_ ?_)))
  · exact bit_merged_enable (by decide)
  · refine (fld_merged_kept (by decide) ?_).trans ((fld_cfg_size small).trans kept.symm)
    intro n _ _
    interval_cases n <;> decide

end Rings

/-- Settles O52: what each access to a ring register, and a write of a vector range, does. -/
theorem ringRegistersComplete : Obligations.RingRegistersComplete := by
  unfold Obligations.RingRegistersComplete
  refine ⟨fun s k p r hp hr on starts st there => ⟨?tail, ?head, ?enable, ?disable, ?irq, ?drops⟩, fun s w ho fits free => ?vectors⟩
  case tail => exact fun tail command small ok => doorbell_moves hp hr on starts st there command small ok
  case head => exact fun head other small ok => eventHeadWrite_moves hp hr on starts st there other small ok
  case enable => exact fun log2 small off _ => ringEnable_starts hp hr on starts st there small off
  case disable =>
    intro enabled small
    have stops := ringDisable_stops hp hr on starts st there enabled small
    refine ⟨fun none => ?_, fun b command held kept => ?_⟩
    · rw [openDiscarded_none none] at stops
      exact stops rfl
    · subst command
      rw [openDiscarded_some held] at stops
      exact stops kept
  case irq => exact fun w mine _ => irqWrite_stores hp hr on starts st there mine
  case drops =>
    rintro rfl
    exact act_ok (isRingOf_lt hp hr) (statRead_clears hp hr on starts st there)
  case vectors =>
    exact hubWrite_ok w.isLt ho (spot_of .pci .pciVecData 0 0 (by decide) (by decide)) rfl rfl (by decide)
      (congrArg wrote (writeVec_stores fits free))

end Sys2Proof.Machine
end
